-- ==== Sys2Proof/Word.lean ====
section
/-!
DEFINITION. The word types. A byte, a 32-bit lane and a 64-bit word are bit vectors; counts, addresses of memory
cells and object-dictionary values are natural numbers.
-/
namespace Sys2Proof

/-- One byte (R9). -/
abbrev Byte := BitVec 8
/-- One 32-bit lane, token or FP32 encoding. -/
abbrev W32 := BitVec 32
/-- One 64-bit value. -/
abbrev W64 := BitVec 64
/-- One sillage digest, byte 0 in the most significant byte (R263). -/
abbrev W128 := BitVec 128

end Sys2Proof
end

