-- ==== Sys2Proof/Syntax.lean ====
section
/-!
DEFINITION. The commands: one constructor per row of spec/opcode_table.json, with the operands that the governing rules
give it. A command is one event or operation, whole and indivisible (spec/95_what_each_step_holds.md).
-/
namespace Sys2Proof

/-- The formats of Table 2-1 (R23). -/
inductive Fmt | fp32 | bf16 | fp16 | e4m3 | e5m2 | e3m2 | e2m3 | e2m1 | e8m0 | int8 | int32
deriving DecidableEq, Repr

/-- Rounding modes (R36, R43). -/
inductive Round | rne | rtz | sr
deriving DecidableEq, Repr

/-- Memory kinds of an on-chip SRAM syndrome (Table 13-4). -/
inductive MemKind | tileStore | accStore | scratchpad | registers | tokenQueue | slotImage | channelProgram | mapTracker
deriving DecidableEq, Repr

/-- What the check bits of the on-chip memories an operation reads report (R69, R73, R121): nothing, corrected
single-bit errors, or an uncorrectable word at a local address with its check syndrome. -/
inductive Upset
  | none
  | corrected (kind : MemKind) (count : Nat)
  | uncorrectable (kind : MemKind) (addr : Nat) (syndrome : Byte)
deriving DecidableEq, Repr

/-- The issue of a compute-stream instruction (Table 5-3): the accord it runs on, ISSUE counted from the start of the
phase, its index in the stream, STAMPED, and what the memories it reads report. -/
structure Issue where
  acc : Fin 16
  cyc : Nat
  idx : Nat
  stamped : Bool
  upset : Upset
deriving DecidableEq, Repr

/-- Pass parameters (Table 3-1). `wbegin` is the cycle of the phase in which the weight load begins (R52). -/
structure PassParams where
  asrc : Nat
  m : Nat
  kact : Nat
  ncols : Nat
  fa : Fmt
  fw : Fmt
  asmode : Nat
  ascale : Nat
  atileH : Nat
  wsmode : Nat
  wscale : Nat
  waddr : Nat
  wtrans : Bool
  wbegin : Nat
  accumulate : Bool
  accBase : Nat
  tags : Nat
  seglist : Option (Nat × Nat)
deriving DecidableEq, Repr

/-- The fused operation of an epilogue (R40 step 1). -/
inductive FusedOp | none | add | mul
deriving DecidableEq, Repr

/-- Epilogue parameters (Table 3-3). `compact` names the segment list of COMPACT; `row0` is the logical index of
accumulator row SRC_BASE (R64), `tile0` the logical index of the first scale tile (Table 3-4). -/
structure EpiParams where
  srcBase : Nat
  m : Nat
  op : FusedOp
  tsrc : Nat
  ft : Fmt
  tsmode : Nat
  tscale : Nat
  fout : Fmt
  sOut : Nat
  tileH : Nat
  rnd : Round
  sat : Bool
  dst : Nat
  status : Nat
  compact : Option (Nat × Nat)
  tensorId : Nat
  col0 : Nat
  row0 : Nat
  tile0 : Nat
  wstamp : Byte
  rstamp : Byte
  tTensor : Nat
deriving DecidableEq, Repr

/-- A vector-engine source operand in one of its four shapes (R72). -/
inductive VSrc
  | tile (r : Fin 64)
  | rowB (r : Fin 64)
  | colB (r : Fin 64)
  | scalar (r : Fin 32)
deriving DecidableEq, Repr

/-- The destination of a bit copy: a tile register, or a scalar register, which no other operation writes (log entry 40). -/
inductive VDst
  | tile (r : Fin 64)
  | scalar (r : Fin 32)
deriving DecidableEq, Repr

/-- The lane type of an integer operation (Table 4-2). -/
inductive IntTy | int32 | int8
deriving DecidableEq, Repr

/-- Comparison conditions; the manual names the comparison and not its conditions (log entry 24). -/
inductive Cond | eq | lt | le
deriving DecidableEq, Repr

/-- A row-tag table with one entry per register row (R79): its local address, and the stamp and tensor id that its reading
expects (R113, R114). -/
structure TagTable where
  addr : Nat
  rstamp : Byte
  tensor : Nat
deriving DecidableEq, Repr

/-- The inputs of the Philox counter (R44, R79): domain, tensor id, the row-tag table (none: logical rows), the logical index
of row 0 and the first logical column. -/
structure RandInfo where
  domain : Nat
  tensorId : Nat
  tags : Option TagTable
  row0 : Nat
  col0 : Nat
deriving DecidableEq, Repr

/-- How a load or store meets scales: none or one E8M0 value, or a block-scale plane with its byte stride (R74, R75). -/
inductive VScale
  | value (e8m0 : Nat)
  | plane (addr stride : Nat)
deriving DecidableEq, Repr

/-- The type that a load widens its elements to (R74). -/
inductive Widen | fp32 | int32
deriving DecidableEq, Repr

/-- Conversion parameters (R37, R74, R81). `alongK` says that each register row is one block along the reduction dimension,
the layout that a conversion to an MX format needs (R75). -/
structure CvtParams where
  src : Fmt
  tgt : Fmt
  rnd : Round
  sat : Bool
  alongK : Bool
  rand : RandInfo
deriving DecidableEq, Repr

/-- The scratchpad range of a task's output, its stamp (R113) and the id of its tensor (R114). -/
structure TaskOut where
  addr : Nat
  len : Nat
  stamped : Bool
  stamp : Byte
  tensor : Nat
deriving DecidableEq, Repr

/-- A task descriptor (Table 4-6) with what the push says of the task's output (R113). -/
structure TaskDesc where
  entry : Nat
  arg : Nat
  stack : Nat
  budget : Nat
  taskSeq : Nat
  ctx : Fin 256
  tokq : Fin 32
  out : Option TaskOut
deriving DecidableEq, Repr

/-- A codec job descriptor (Table 8-3); the operation is the command's own. -/
structure CodecJob where
  fmt : Nat
  tokq : Fin 32
  value : W32
  stier : Nat
  saddr : Nat
  dtier : Nat
  daddr : Nat
  poolM1 : Nat
  nblkM1 : Nat
  handle : Nat
deriving DecidableEq, Repr

/-- An access-stream transfer or token instruction (Table 6-6), less ISSUE. -/
structure AccessInstr where
  op : Nat
  tier : Nat
  top : Nat
  taddr : Nat
  lenM1 : Nat
  queue : Fin 32
  value : W32
  stamp : Byte
  stamped : Bool
  tok : Bool
  tensor : Nat
deriving DecidableEq, Repr

/-- An arbiter: number k of an accord, or number k of the chip (R130, R131). -/
inductive ArbId
  | accord (a : Fin 16) (k : Fin 26)
  | chip (k : Fin 82)
deriving DecidableEq, Repr

/-- A request of an arbiter's input in a cycle: the local address and bytes of the access, which the arbiters of banks and tile
stores read (R119, R120). -/
structure ArbReq where
  input : Fin 64
  addr : Nat
  bytes : Nat
deriving DecidableEq, Repr

/-- An access path of the object dictionary. -/
inductive Path | inBand | outOfBand
deriving DecidableEq, Repr

/-- One write of a write sequence into a DOMAIN entry (R363). -/
structure SeqWrite where
  path : Path
  off : Nat
  data : List Byte
deriving DecidableEq, Repr

/-- The two off-chip tiers. -/
inductive Tier | heart | base
deriving DecidableEq, Repr

/-- Who reads or writes a tier (R160). For a context: the kind of its unit and the INSTR word of a record. -/
inductive Requester
  | context (c : Fin 256) (instr : Nat)
  | host
  | firmware
deriving DecidableEq, Repr

/-- What a controller sees of the bits a code word returns (R152 to R154): clean, the symbols in error, a missing read
strobe, or a burst of undriven lines; or of the valid-bit map, its cache and the trackers (R158): corrected single-bit errors,
or an uncorrectable word. -/
inductive ReadObs
  | clean
  | symbols (s : List Nat)
  | noStrobe
  | undriven
  | mapCorrected (n : Nat)
  | mapError
deriving DecidableEq, Repr

/-! ### What a preparer core executes (R83, R84)

An instruction of RV64GC or of the vector extension, decoded: the specification names the instruction sets and does not restate
their encodings (log entry 186). Register numbers are those of the instruction. -/

/-- Integer operations of RV64I and M. -/
inductive AluOp
  | add | sub | sll | slt | sltu | xor | srl | sra | or | and
  | mul | mulh | mulhsu | mulhu | div | divu | rem | remu
deriving DecidableEq, Repr
/-- A second operand: a register, or an immediate value. -/
inductive CoreSrc
  | reg (r : Fin 32)
  | imm (v : Int)
deriving DecidableEq, Repr
/-- The conditions of a branch. -/
inductive BrCond | eq | ne | lt | ge | ltu | geu
deriving DecidableEq, Repr
/-- The operations of an atomic memory operation. -/
inductive AmoOp | swap | add | xor | and | or | min | max | minu | maxu
deriving DecidableEq, Repr
/-- Rounding modes of a core's floating-point instruction; `dyn` takes that of fcsr; `rod` is the mode of the narrowing
conversion that rounds to odd. -/
inductive CoreRound | rne | rtz | rdn | rup | rmm | dyn | rod
deriving DecidableEq, Repr
/-- Floating-point operations of two operands; `sqrt` reads the first alone. -/
inductive FpOp | add | sub | mul | div | sqrt | min | max | sgnj | sgnjn | sgnjx
deriving DecidableEq, Repr
/-- Floating-point comparisons. -/
inductive FpCmp | eq | lt | le
deriving DecidableEq, Repr
/-- What a CSR instruction does with its operand. -/
inductive CsrOp | write | set | clear
deriving DecidableEq, Repr
/-- The right-hand operand of a vector instruction. -/
inductive VRhs
  | v (r : Fin 32)
  | x (r : Fin 32)
  | i (n : Int)
  | f (r : Fin 32)
deriving DecidableEq, Repr
/-- Element widths of a vector arithmetic instruction: SEW throughout; a result of twice SEW; a result and a left operand of
twice SEW; a left operand of twice SEW. -/
inductive VForm | same | wide | wideLeft | narrow
deriving DecidableEq, Repr
/-- Vector integer operations, left operand vs2. The `a` and `s` forms are the averaging and the saturating ones; `smul`,
`ssr` and `clip` round under vxrm. -/
inductive VInt
  | add | sub | rsub | and | or | xor | min | max | sll | sr | mul | mulh | div | rem
  | sadd | ssub | aadd | asub | smul | ssr | clip
deriving DecidableEq, Repr
/-- Vector operations that write a mask: comparisons, and the carry or borrow of an addition or subtraction. -/
inductive VCmp | eq | ne | lt | le | gt | carry | borrow
deriving DecidableEq, Repr
/-- Vector floating-point operations; the reversed ones exchange their operands. -/
inductive VFp | add | sub | rsub | mul | div | rdiv | min | max | sgnj | sgnjn | sgnjx
deriving DecidableEq, Repr
/-- Vector floating-point comparisons. -/
inductive VFCmp | eq | ne | lt | le | gt | ge
deriving DecidableEq, Repr
/-- Vector floating-point operations of one operand; `rec7` and `rsqrt7` are the estimates. -/
inductive VFUnary | sqrt | rec7 | rsqrt7 | classify
deriving DecidableEq, Repr
/-- Vector conversions: from floating point to an integer, from an integer, between floating-point widths. -/
inductive VConv | toInt | fromInt | toFp
deriving DecidableEq, Repr
/-- Integer reductions. -/
inductive VRed | sum | and | or | xor | min | max
deriving DecidableEq, Repr
/-- Floating-point reductions: ordered and unordered sums, minimum, maximum. -/
inductive VFRed | osum | usum | min | max
deriving DecidableEq, Repr
/-- Operations on mask registers. -/
inductive VMaskOp | and | nand | andn | or | nor | orn | xor | xnor
deriving DecidableEq, Repr
/-- The mask operations that go by the first set bit: before, including, only. -/
inductive VFirst | before | incl | only
deriving DecidableEq, Repr
/-- How a vector load or store finds its elements: those of `whole` and `maskBits` are the bytes of `n` registers and of a mask. -/
inductive VMode
  | unit
  | faultFirst
  | strided (r : Fin 32)
  | indexed (v : Fin 32) (eew : Nat)
  | whole (n : Nat)
  | maskBits
deriving DecidableEq, Repr

/-- A decoded instruction. `dbl` selects FP64 or a doubleword, `w` the 32-bit forms, `m` says that mask register v0 applies. -/
inductive CoreOp
  | alu (op : AluOp) (w : Bool) (rd rs1 : Fin 32) (b : CoreSrc)
  | lui (rd : Fin 32) (imm : Int)
  | auipc (rd : Fin 32) (imm : Int)
  | jal (rd : Fin 32) (off : Int)
  | jalr (rd rs1 : Fin 32) (off : Int)
  | branch (c : BrCond) (rs1 rs2 : Fin 32) (off : Int)
  | load (rd rs1 : Fin 32) (off : Int) (size : Fin 4) (signed : Bool)
  | store (rs2 rs1 : Fin 32) (off : Int) (size : Fin 4)
  | lr (dbl : Bool) (rd rs1 : Fin 32)
  | sc (dbl : Bool) (rd rs1 rs2 : Fin 32)
  | amo (op : AmoOp) (dbl : Bool) (rd rs1 rs2 : Fin 32)
  | fence
  | fenceI
  | mret
  | wfi
  | csr (op : CsrOp) (rd : Fin 32) (n : Nat) (src : CoreSrc) (writes : Bool)
  | fload (dbl : Bool) (rd rs1 : Fin 32) (off : Int)
  | fstore (dbl : Bool) (rs2 rs1 : Fin 32) (off : Int)
  | fp (op : FpOp) (dbl : Bool) (rm : CoreRound) (rd rs1 rs2 : Fin 32)
  | fma (negProd negAdd dbl : Bool) (rm : CoreRound) (rd rs1 rs2 rs3 : Fin 32)
  | fcmp (c : FpCmp) (dbl : Bool) (rd rs1 rs2 : Fin 32)
  | fclass (dbl : Bool) (rd rs1 : Fin 32)
  | fToInt (dbl w unsigned : Bool) (rm : CoreRound) (rd rs1 : Fin 32)
  | fFromInt (dbl w unsigned : Bool) (rm : CoreRound) (rd rs1 : Fin 32)
  | fCvt (toDbl : Bool) (rm : CoreRound) (rd rs1 : Fin 32)
  | fmvX (dbl : Bool) (rd rs1 : Fin 32)
  | fmvF (dbl : Bool) (rd rs1 : Fin 32)
  | vset (rd : Fin 32) (avl : Option CoreSrc) (vtype : CoreSrc)
  | vload (vd rs1 : Fin 32) (mode : VMode) (eew nf : Nat) (m : Bool)
  | vstore (vs rs1 : Fin 32) (mode : VMode) (eew nf : Nat) (m : Bool)
  | vint (op : VInt) (form : VForm) (sa sb : Bool) (vd vs2 : Fin 32) (b : VRhs) (m : Bool)
  | vadc (sub : Bool) (vd vs2 : Fin 32) (b : VRhs)
  | vmac (neg addend wide : Bool) (sa sb : Bool) (vd vs2 : Fin 32) (b : VRhs) (m : Bool)
  | vcmp (c : VCmp) (signed : Bool) (vd vs2 : Fin 32) (b : VRhs) (m : Bool)
  | vmerge (vd vs2 : Fin 32) (b : VRhs)
  | vmv (vd : Fin 32) (b : VRhs)
  | vext (signed : Bool) (frac : Nat) (vd vs2 : Fin 32) (m : Bool)
  | vfp (op : VFp) (form : VForm) (vd vs2 : Fin 32) (b : VRhs) (m : Bool)
  | vfmac (negProd negAdd addend wide : Bool) (vd vs2 : Fin 32) (b : VRhs) (m : Bool)
  | vfcmp (c : VFCmp) (vd vs2 : Fin 32) (b : VRhs) (m : Bool)
  | vfun (op : VFUnary) (vd vs2 : Fin 32) (m : Bool)
  | vconv (k : VConv) (form : VForm) (unsigned : Bool) (rm : CoreRound) (vd vs2 : Fin 32) (m : Bool)
  | vred (op : VRed) (wide signed : Bool) (vd vs2 vs1 : Fin 32) (m : Bool)
  | vfred (op : VFRed) (wide : Bool) (vd vs2 vs1 : Fin 32) (m : Bool)
  | vmask (op : VMaskOp) (vd vs2 vs1 : Fin 32)
  | vfirst (k : VFirst) (vd vs2 : Fin 32) (m : Bool)
  | vcpop (rd vs2 : Fin 32) (m : Bool)
  | vffirst (rd vs2 : Fin 32) (m : Bool)
  | viota (vd vs2 : Fin 32) (m : Bool)
  | vid (vd : Fin 32) (m : Bool)
  | vmvXS (rd vs2 : Fin 32)
  | vmvSX (vd rs1 : Fin 32)
  | vmvFS (rd vs2 : Fin 32)
  | vmvSF (vd rs1 : Fin 32)
  | vmvNr (n : Nat) (vd vs2 : Fin 32)
  | vslide (up : Bool) (vd vs2 : Fin 32) (b : VRhs) (m : Bool)
  | vslide1 (up : Bool) (vd vs2 : Fin 32) (b : VRhs) (m : Bool)
  | vgather (idx16 : Bool) (vd vs2 : Fin 32) (b : VRhs) (m : Bool)
  | vcompress (vd vs2 vs1 : Fin 32)
deriving DecidableEq, Repr

/-- A floating-point instruction. -/
def CoreOp.isFp : CoreOp → Bool
  | .fload .. | .fstore .. | .fp .. | .fma .. | .fcmp .. | .fclass .. | .fToInt .. | .fFromInt .. | .fCvt .. | .fmvX .. | .fmvF ..
  | .vfp .. | .vfmac .. | .vfcmp .. | .vfun .. | .vconv .. | .vfred .. | .vmvFS .. | .vmvSF .. => true
  | _ => false
/-- A vector instruction. -/
def CoreOp.isVec : CoreOp → Bool
  | .vset .. | .vload .. | .vstore .. | .vint .. | .vadc .. | .vmac .. | .vcmp .. | .vmerge .. | .vmv .. | .vext .. | .vfp ..
  | .vfmac .. | .vfcmp .. | .vfun .. | .vconv .. | .vred .. | .vfred .. | .vmask .. | .vfirst .. | .vcpop .. | .vffirst ..
  | .viota .. | .vid .. | .vmvXS .. | .vmvSX .. | .vmvFS .. | .vmvSF .. | .vmvNr .. | .vslide .. | .vslide1 .. | .vgather ..
  | .vcompress .. => true
  | _ => false

/-- One executed instruction: whether its encoding is a short one of 16 bits, whether the instruction cache and the data cache
find a parity error in what it reads (R87), what the memory controller sees of the code words it fetches or merges, in
their order, and what the check bits of the scratchpad that it loads from report (R121). -/
structure CoreAct where
  op : CoreOp
  short : Bool
  iParity : Bool
  dParity : Bool
  obs : List ReadObs
  up : Upset := .none
deriving DecidableEq, Repr

/-- The scope of a recovery window (R296). -/
inductive Scope
  | partition (p : Fin 16)
  | fw
deriving DecidableEq, Repr

/-- A fabric packet: the header of Table 11-2 and its payload. `suspect` is the trailer's SUSPECT together with an
uncorrectable codeword in the payload (R240); `port` is the port it arrived by (0xFF: none), `words` the uncorrectable codewords
that this chip met in its payload, which the record of a suspect payload names (Table 13-4). -/
structure Packet where
  crc : W32
  seq : W32
  aux : W32
  addr : Nat
  tier : Nat
  epoch : Nat
  opcode : Nat
  len : Nat
  cls : Nat
  fence : Bool
  mcast : Bool
  ackreq : Bool
  last : Bool
  rtag : Nat
  flow : Nat
  dstQueue : Nat
  dstChip : Nat
  srcChip : Nat
  payload : List Byte
  suspect : Bool
  port : Nat := 0xFF
  words : Nat := 0
deriving DecidableEq, Repr

/-- An access of the host to the PCIe endpoint (R258): to BAR0 or to the configuration space, from a byte offset. -/
inductive HostAccess
  | barWrite (off : Nat) (data : List Byte)
  | barRead (off n : Nat)
  | cfgWrite (off : Nat) (data : List Byte)
  | cfgRead (off n : Nat)
deriving DecidableEq, Repr

/-- Where uncorrectable FEC codewords fall in a received frame (R239, R240): nowhere, in its link or packet header, or only in the
payload, so many of them. -/
inductive BadWord
  | none
  | header
  | payload (words : Nat)
deriving DecidableEq, Repr

/-- The acknowledgement a link header carries for the reverse direction (R239). -/
inductive LinkAck
  | none
  | ack (seq : Nat)
  | nak (seq : Nat)
deriving DecidableEq, Repr

/-- A link frame (R239): 12-bit sequence number, acknowledgement, one credit return (lane and count), the place of an
uncorrectable codeword, the codewords corrected, and the packet (none: an idle frame). -/
structure Frame where
  lseq : Nat
  ack : LinkAck
  credit : Option (Fin 8 × Nat)
  bad : BadWord
  corrected : Nat
  pkt : Option Packet
deriving DecidableEq, Repr

/-- Counter-, launch- and waiting-action codes (Table 10-2). -/
inductive LaunchAct | start | stop | switchWeights | drydown | snapshot | testWindow
deriving DecidableEq, Repr

/-- The rows of Table 12-5 whose latest count can pass with something missing (R277). -/
inductive XchRow | flow | verdict
deriving DecidableEq, Repr

/-- One object-dictionary access: path, entry, byte offset; in band its flow number and the packet that carries it (R373),
out of band the INSTANCE of the request (R371), and whether the message's check, enterprise number and command hold
(R370). -/
structure OdAddr where
  path : Path
  flow : Nat
  via : Option Packet
  inst : Nat
  intact : Bool
  index : Nat
  sub : Nat
  off : Nat
deriving DecidableEq, Repr

/-- The operation class of an instruction as a binary marks it (Table 5-3). -/
inductive OpClass | a | g | v | malformed
deriving DecidableEq, Repr

/-- What an instruction of a compute stream does, by the rows of Table 2-9 (R46): the matrix engine's, the vector engine's, any
unit's; a task push, whose mark is the compiler's (R95); one that computes nothing (loads and stores without conversion, bit copies,
token operations, phase ends); or an operation that the table does not list. -/
inductive Oper
  | matrixMac | matrixEpilogue
  | vecArith | vecCompare | vecInteger | vecConvert | vecOrdered | vecPhilox | vecTranscendental
  | treeAdd | scatterAdd | entropy
  | taskPush | plain | absent
deriving DecidableEq, Repr

/-- What the loader reads of a compute-stream instruction besides its header: the manual gives neither the opcode numbers nor the
layout of the operands (log entry 20). `fields` are the non-address fields; `spill` says that it is a spill or fill transfer of a
folded variant, which the canonical form leaves out (R97). -/
structure StreamBody where
  oper : Oper
  fields : List Nat
  spill : Bool
deriving DecidableEq, Repr

/-- One instruction of a compute stream as the loader reads it: the header fields of Table 5-3 and its body. -/
structure StreamOp where
  issue : Nat
  unit : Nat
  cls : OpClass
  stamped : Bool
  reserved : Bool
  len : Nat
  opcode : Nat
  body : StreamBody
deriving DecidableEq, Repr

/-- One access-stream instruction as the loader reads it (Table 6-6, R134). -/
structure LoadAccess where
  issue : Nat
  op : Nat
  kind : Nat
  tier : Nat
  narrow : Bool
  first : Bool
  lenM1 : Nat
deriving DecidableEq, Repr

/-- A run-ahead table entry (Table 6-7). -/
structure RunAhead where
  distance : Nat
  maxlenM1 : Nat
  tier : Nat
  dir : Nat
  narrow : Bool
  first : Bool
  cross : Nat
  valid : Bool
deriving DecidableEq, Repr

/-- A DMA channel's part of a DMA section: virtual accord, channel, configuration word, program memory. -/
structure DmaSection where
  vacc : Nat
  chan : Nat
  cfg : Nat
  program : List Byte
deriving DecidableEq, Repr

/-- A slot-table image of a SLOTS section: accord arbiter of a virtual accord, or a chip arbiter, or a port. -/
inductive SlotTarget
  | accordArb (vacc : Nat) (k : Nat)
  | chipArb (k : Nat)
  | port (p : Nat)
deriving DecidableEq, Repr

/-- One fold variant: its phases, allocation and streams. `completions` lists the completions that its schedule places: phase,
cycle of the phase, and the manifest entries that govern the completion together (R110). -/
structure Variant where
  fold : Nat
  phases : List Nat
  layerPhase : List Nat
  heartWin : Nat
  baseWin : Nat
  nmb : Nat
  rows : Nat
  segs : Nat
  live : List (List (Nat × Nat))
  compute : List (Nat × List StreamOp)
  access : List (Nat × Nat × List LoadAccess)
  runAhead : List (Nat × Nat × List RunAhead)
  dma : List DmaSection
  slots : List (SlotTarget × List Byte)
  stepLen : Nat
  completions : List (Nat × Nat × List Nat)
deriving DecidableEq, Repr

/-- One directory entry: TYPE, FOLD, VACC, reserved, OFFSET, SIZE (Table 5-1). -/
structure DirEntry where
  type : Nat
  fold : Nat
  vacc : Nat
  reserved : Nat
  off : Nat
  size : Nat
deriving DecidableEq, Repr

/-- One launch request of a LAUNCH section: action, offset from the first START count, PERIOD, SETGEN, GEN. -/
structure LaunchReq where
  action : Nat
  offset : Nat
  period : Nat
  setgen : Bool
  gen : Nat
deriving DecidableEq, Repr

/-- What the sections of one fold variant hold whose layout the manual does not give (log entry 20): PHASES, ALLOC, the bodies of
the COMPUTE instructions, DMA, SLOTS, and the completions that the schedule places. -/
structure VariantBody where
  fold : Nat
  phases : List Nat
  layerPhase : List Nat
  heartWin : Nat
  baseWin : Nat
  nmb : Nat
  rows : Nat
  segs : Nat
  live : List (List (Nat × Nat))
  bodies : List (Nat × List StreamBody)
  dma : List DmaSection
  slots : List (SlotTarget × List Byte)
  stepLen : Nat
  completions : List (Nat × Nat × List Nat)
deriving DecidableEq, Repr

/-- What the sections of a binary hold for which the manual has no layout (log entry 20). The rest, the header, the directory,
MANIFEST, the headers of the COMPUTE streams and the ACCESS sections, the loader reads from the image in the heart tier. -/
structure BinImage where
  oplist : List (Nat × List StreamOp)
  classmarks : List (Nat × List Nat)
  variants : List VariantBody
  launch : List LaunchReq
  flows : List (Nat × Nat)
deriving DecidableEq, Repr

/-- A binary as the loader has read it: the header of Table 5-1, the directory and the contents of the sections. `imageHash` and
`oplistHash` are what SHA3-256 gives over the image with IMAGE_DIGEST zero and over the OPLIST section, `classmarksDigest` over
CLASSMARKS; `placed` says that every section lies within the image. -/
structure Binary where
  magic : Nat
  contract : Nat
  flags : Nat
  programId : Nat
  vchips : Nat
  vaccords : Nat
  vcores : Nat
  foldSet : Nat
  reserved : Nat
  placed : Bool
  oplistDigest : Nat
  imageDigest : Nat
  imageHash : Nat
  oplistHash : Nat
  classmarksDigest : Nat
  dir : List DirEntry
  manifest : List (Nat × Nat × Nat)
  oplist : List (Nat × List StreamOp)
  classmarks : List (Nat × List Nat)
  variants : List Variant
  launch : List LaunchReq
  flows : List (Nat × Nat)
deriving DecidableEq, Repr

/-- A DIMM as detection finds it (R145): 1 RDIMM, 2 MRDIMM, anything else another type; package ranks; GiB; whether its devices
are x4 with ECC, and monolithic or 3DS; the rates in MT/s that it supports. -/
structure Dimm where
  kind : Nat
  ranks : Nat
  capacity : Nat
  x4Ecc : Bool
  stacked : Bool
  rates : List Nat
deriving DecidableEq, Repr

/-- A fabric port at start-up (step 16 of Table 15-12): its partner held its link, the training or the echo alone succeeds, and the
flight that the echo measures. -/
structure PortStart where
  held : Bool
  ok : Bool
  flight : Nat
deriving DecidableEq, Repr

/-- What the service of a firmware ring meets: what the firmware SRAM reports of the words that it reads (R337), and the rings whose
response ring is full (R341). -/
structure FwEnv where
  sram : Upset
  full : List (Fin 8)
deriving DecidableEq, Repr

/-- What the environment shows a start (Table 15-12): the persistent area's CRC holds, restored calibration passes its checks,
memory training passes, a condition that makes the chip FATAL or offline is met (R352), the mismatches of each memory loop-back of steps
7 and 10 in their order, the failing-unit masks of the accords
tested, in increasing number, the beacon that G is acquired from (none: no beacon) as its count, its grandmaster's chip id and
its hops, the recorded weight sets all of whose reads deliver data, the PCIe width and rate that the link negotiates, the DIMM of
each channel, and the fabric ports. -/
structure StartEnv where
  persistentOk : Bool
  calibrationOk : Bool
  trainingOk : Bool
  fatal : Bool
  loopErrors : List Nat
  testMasks : List Nat
  beacon : Option (Nat × Nat × Nat)
  weightSetsRead : List Bool
  pcieWidth : Nat
  pcieRate : Nat
  dimms : List (Option Dimm)
  ports : List PortStart
deriving DecidableEq, Repr

/-- The commands, in the order of the table but for the last I3C rows. -/
inductive Instr
  -- matrix engines (03)
  | pass (h : Issue) (e : Fin 4) (p : PassParams)
  | epilogue (h : Issue) (e : Fin 4) (p : EpiParams)
  -- vector engine (04)
  | veLoad (h : Issue) (dst : Fin 64) (addr stride : Nat) (fmt : Fmt) (widen : Option Widen) (scale : VScale) (rstamp : Byte) (tensor : Nat)
  | veStore (h : Issue) (src : Fin 64) (addr stride : Nat) (cv : CvtParams) (sreg : Fin 32) (plane : Nat × Nat) (status : Option Nat) (tile : Nat) (wstamp : Byte)
  | add (h : Issue) (dst : Fin 64) (a b : VSrc)
  | sub (h : Issue) (dst : Fin 64) (a b : VSrc)
  | mul (h : Issue) (dst : Fin 64) (a b : VSrc)
  | fma (h : Issue) (dst : Fin 64) (a b c : VSrc)
  | div (h : Issue) (dst : Fin 64) (a b : VSrc)
  | sqrt (h : Issue) (dst : Fin 64) (a : VSrc)
  | min (h : Issue) (dst : Fin 64) (a b : VSrc)
  | max (h : Issue) (dst : Fin 64) (a b : VSrc)
  | abs (h : Issue) (dst : Fin 64) (a : VSrc)
  | neg (h : Issue) (dst : Fin 64) (a : VSrc)
  | cmp (h : Issue) (k : Fin 8) (cond : Cond) (ty : Option IntTy) (a b : VSrc)
  | sel (h : Issue) (dst : Fin 64) (k : Fin 8) (a b : VSrc)
  | intAdd (h : Issue) (ty : IntTy) (dst : Fin 64) (a b : VSrc)
  | intSub (h : Issue) (ty : IntTy) (dst : Fin 64) (a b : VSrc)
  | intMul (h : Issue) (ty : IntTy) (dst : Fin 64) (a b : VSrc)
  | shl (h : Issue) (ty : IntTy) (dst : Fin 64) (a b : VSrc)
  | shr (h : Issue) (ty : IntTy) (dst : Fin 64) (a b : VSrc)
  | sra (h : Issue) (ty : IntTy) (dst : Fin 64) (a b : VSrc)
  | and (h : Issue) (ty : IntTy) (dst : Fin 64) (a b : VSrc)
  | or (h : Issue) (ty : IntTy) (dst : Fin 64) (a b : VSrc)
  | xor (h : Issue) (ty : IntTy) (dst : Fin 64) (a b : VSrc)
  | cvt (h : Issue) (dst dst2 : Fin 64) (a : VSrc) (cv : CvtParams)
  | exp (h : Issue) (dst : Fin 64) (a : VSrc)
  | log (h : Issue) (dst : Fin 64) (a : VSrc)
  | rsqrt (h : Issue) (dst : Fin 64) (a : VSrc)
  | rcp (h : Issue) (dst : Fin 64) (a : VSrc)
  | tanh (h : Issue) (dst : Fin 64) (a : VSrc)
  | erf (h : Issue) (dst : Fin 64) (a : VSrc)
  | rand (h : Issue) (dst : Fin 64) (r : RandInfo)
  | dropout (h : Issue) (k : Fin 8) (p : Fin 32) (r : RandInfo)
  | rowsumSeq (h : Issue) (dst : Fin 64) (a : VSrc) (carry : Option VSrc)
  | rowsumTree (h : Issue) (dst : Fin 64) (a : VSrc)
  | colsumSeq (h : Issue) (dst : Fin 64) (a : VSrc) (carry : Option VSrc)
  | rowmax (h : Issue) (dst : Fin 64) (a : VSrc)
  | rowamax (h : Issue) (dst : Fin 64) (a : VSrc)
  | colmax (h : Issue) (dst : Fin 64) (a : VSrc)
  | colamax (h : Issue) (dst : Fin 64) (a : VSrc)
  | mov (h : Issue) (dst : VDst) (a : VSrc)
  | bcast (h : Issue) (dst : VDst) (a : VSrc)
  | transpose (h : Issue) (dst : Fin 64) (a : VSrc)
  | scatterAdd (h : Issue) (addr : Nat) (idx data : VSrc) (wstamp : Byte) (tensor : Nat)
  | entropy (h : Issue) (dst : Fin 64)
  -- tasks, tokens and phases (04 to 06)
  | taskPush (h : Issue) (d : TaskDesc)
  | taskDispatch (acc : Fin 16) (cyc : Nat)
  | taskEnd (acc : Fin 16) (core : Fin 4) (cyc : Nat) (acts : List CoreAct)
  | taskTrap (acc : Fin 16) (core : Fin 4) (cyc : Nat) (acts : List CoreAct) (addr : Nat) (cause : Nat)
  | taskBudgetOverrun (acc : Fin 16) (core : Fin 4) (cyc : Nat) (acts : List CoreAct)
  | tokenPush (h : Issue) (q : Fin 32) (value : W32)
  | tokenPop (h : Issue) (q : Fin 32) (n : Nat)
  | phaseEnd (h : Issue) (vacc : Nat)
  -- activation codec (08)
  | code (acc : Fin 16) (core : Fin 4) (job : CodecJob) (obs : List ReadObs)
  | codeMx8 (acc : Fin 16) (core : Fin 4) (job : CodecJob) (obs : List ReadObs)
  | decode (acc : Fin 16) (core : Fin 4) (job : CodecJob) (obs : List ReadObs)
  | codecJobDone (acc : Fin 16) (cyc : Nat)
  -- schedule guard (05)
  | tolerantFreeze (p : Fin 16) (cyc : Nat)
  | freezeEnd (p : Fin 16)
  | lateOperandResume (p : Fin 16) (waited : Nat) (up : Upset)
  | lateLimit (p : Fin 16)
  -- arbiters (06)
  | arbiterGrant (arb : ArbId) (cyc : Nat) (reqs : List ArbReq) (up : Upset)
  | arbShadow (a : Fin 16) (k : Fin 26) (w : SeqWrite)
  | chipArbShadow (k : Fin 82) (w : SeqWrite)
  | chipImageSwap
  | arbFreeze (arb : ArbId)
  | arbUnfreeze (arb : ArbId)
  -- access streams (06)
  | accessRead (acc : Fin 16) (e : Fin 2) (cyc idx : Nat) (ins : AccessInstr) (obs : List ReadObs)
  | accessWrite (acc : Fin 16) (e : Fin 2) (cyc idx : Nat) (ins : AccessInstr) (up : Upset)
  | accessSignal (acc : Fin 16) (e : Fin 2) (cyc idx : Nat) (ins : AccessInstr)
  | accessWait (acc : Fin 16) (e : Fin 2) (cyc idx : Nat) (ins : AccessInstr) (up : Upset)
  | accessPhaseEnd (acc : Fin 16) (e : Fin 2) (cyc idx : Nat) (vacc : Nat)
  | readLanded (acc : Fin 16) (e : Fin 2) (cyc : Nat)
  | writeVisible (acc : Fin 16) (e : Fin 2) (cyc : Nat)
  -- DMA channels (06)
  | move (acc : Fin 16) (c : Fin 8) (cyc : Nat) (up : Upset) (obs : List ReadObs)
  | loop (acc : Fin 16) (c : Fin 8) (cyc : Nat) (up : Upset)
  | dmaWait (acc : Fin 16) (c : Fin 8) (cyc : Nat) (up : Upset)
  | dmaSignal (acc : Fin 16) (c : Fin 8) (cyc : Nat) (up : Upset)
  | dmaEnd (acc : Fin 16) (c : Fin 8) (cyc : Nat) (up : Upset)
  | dmaWaitEnd (acc : Fin 16) (c : Fin 8) (cyc : Nat) (up : Upset)
  | dmaResume (acc : Fin 16) (c : Fin 8) (cyc : Nat)
  | dmaDisable (acc : Fin 16) (c : Fin 8) (cause : Option (Nat × Nat))
  | dmaDrained (acc : Fin 16) (c : Fin 8)
  | dmaEnable (acc : Fin 16) (c : Fin 8)
  | qreset (acc : Fin 16) (q : Fin 32)
  -- memory tiers (07)
  | tierRead (t : Tier) (addr : Nat) (who : Requester) (obs : ReadObs)
  | tierWrite (t : Tier) (addr : Nat) (data : List Byte) (who : Requester) (obs : List ReadObs)
  | fillComplete (t : Tier) (granule : Nat)
  | bucketLeak (t : Tier) (ch : Nat) (incr : Option (Nat × List Nat))
  | correctedWriteBack (t : Tier) (cw : Nat)
  | scrubVisit (t : Tier) (ch : Nat) (granted : Bool) (obs : List ReadObs)
  | vmapDiscard (value : W64)
  | memoryLoopback (value : W32)
  | memoryLoopbackDone (errors : Nat)
  -- the Nose (08)
  | monCfg (e : Fin 4096) (value : W64)
  -- contexts, partitions, tenants, queues (09)
  | partMask (p : Fin 16) (mask : BitVec 16)
  | tctData (data : List Byte)
  | tctDataRead
  | ctxCfg (c : Fin 256) (w : SeqWrite)
  | queueTailWrite (q : Fin 16384) (tail : W32)
  | queueHeadWrite (q : Fin 16384) (head : W32)
  | completionRelease (q : Fin 16384)
  | preempt (c : Fin 256)
  | saveComplete (c : Fin 256) (ups : List (Fin 16 × Fin 4 × Upset))
  | resume (c : Fin 256)
  | restoreComplete (c : Fin 256)
  | teardown (c : Fin 256)
  | abortReq (value : W64)
  -- launch (10)
  | start (c : Fin 256)
  | stop (c : Fin 256) (setgen : Bool) (gen : Fin 16)
  | drydown (c : Fin 256)
  | snapshot (c : Fin 256)
  | testWindow (c : Fin 256)
  | switchWeights (c : Fin 256)
  | launchLate (c : Fin 256) (a : LaunchAct)
  | selfLaunch (c : Fin 256)
  | launchEntry (e : Fin 64) (value : W128) (via : Option Packet)
  | holdWrite (value : W128) (via : Option Packet)
  | counterClear (value : W32)
  -- time base (10)
  | syncPulse (offsetEc : Int)
  | timeBeacon (port : Fin 16) (stampEc : Nat) (master hops : Nat)
  | beaconSend
  | syncHoldover
  | syncLost
  | grandmasterFailover
  | thermalReport (pos : Fin 16) (value : W128)
  | sensorRead (temps : List Int)
  | clockRestored
  -- fabric (11)
  | frameReceive (p : Fin 16) (f : Frame)
  | negativeAck (p : Fin 16) (lseq : Nat)
  | write (pkt : Packet) (fromBridge : Bool) (obs : List ReadObs)
  | readReq (pkt : Packet) (obs : List ReadObs)
  | readRsp (pkt : Packet)
  | queuePush (pkt : Packet)
  | odRead (pkt : Packet) (accepted : Bool)
  | treeReduce (pkt : Packet) (obs : List ReadObs)
  -- sillage, drydown, replicas (12)
  | flowDigest (pkt : Packet) (obs : List ReadObs)
  | verdict (pkt : Packet) (obs : List ReadObs)
  | xchTimeout (c : Fin 256) (row : XchRow)
  | commit (c : Fin 256)
  | closure (c : Fin 256) (pkt : Packet) (obs : List ReadObs)
  | closureEnd (c : Fin 256) (pkt : Packet) (obs : List ReadObs)
  | cmpTimeout (c : Fin 256)
  | digestSeal (c : Fin 256)
  -- port slots and flows (11)
  | scheduledSlot (p : Fin 16)
  | slotShadow (p : Fin 16) (w : SeqWrite)
  | slotImageSwap (p : Fin 16)
  | flowData (value : W128) (obs : List ReadObs)
  | flowFetch (flow : Nat)
  | linkTraining (p : Fin 16) (ok : Bool) (flight : Nat)
  | portLoopback (p : Fin 16) (value : W32)
  | portLoopbackDone (p : Fin 16) (errors : Nat)
  -- host bridge (11)
  | hostTransmit (r : Fin 64) (pkt : Packet) (host : List HostAccess)
  | hostReceive (r : Fin 64)
  | rxRingTail (r : Fin 64) (tail : W32) (host : List HostAccess)
  | msixRaise (v : BitVec 16)
  | functionLevelReset
  -- cross-checks, audit, checkpoints (12, 13)
  | xcheckRelease (value : W32)
  | xcheckReport (data : List Byte)
  | auditReq (data : List Byte)
  | auditDone
  | checkpointCopyDone (c : Fin 256)
  -- blotter, recovery, fencing, tests (13)
  | blotterAppend
  | recoveryWindowEnd (sc : Scope)
  | recovery (masks : List Nat)
  | fenceReq (unit : BitVec 16)
  | unfenceReq (unit : BitVec 16)
  | unfenceTestDone (mask : Nat)
  | testReq (mask : BitVec 16)
  | accordTestDue (a : Fin 16)
  | testForced (a : Fin 16)
  | accordTestDone (a : Fin 16) (mask : Nat)
  -- flacons and attestation (14)
  | verify (set : Fin 16)
  | flaconLoad (set : Fin 16) (layer : Nat)
  | seal (set : Fin 16)
  | sealDone (set : Fin 16)
  | decant (set : Fin 16)
  | decantCopyStart (set : Fin 16)
  | layerCopyDone (set : Fin 16) (obs : ReadObs)
  | gateLimit (set : Fin 16)
  | release (set : Fin 16)
  | epochPending (c : Fin 256) (data : List Byte)
  | keyslotWrite (w : SeqWrite)
  | attestReq (nonce : List Byte)
  | attestDone
  -- firmware (15)
  | fwNop (r : Fin 8) (env : FwEnv)
  | load (r : Fin 8) (env : FwEnv) (bin : BinImage) (fallback : Option BinImage) (peers : List Nat)
  | unload (r : Fin 8) (env : FwEnv)
  | fwStage (r : Fin 8) (env : FwEnv) (flashOk : Bool)
  | fwActivate (r : Fin 8) (env : FwEnv) (recordBefore : Bool) (faultDuring : Option (Fin 64))
  | restart (r : Fin 8) (env : FwEnv)
  | taskFault (task : Fin 64)
  | kernelFault (core : Fin 6)
  | watchdogExpiry (core : Fin 6)
  | flashWindowOpen (busFree : Nat) (startSeen : Bool)
  | flashWindowClose
  | statusWriteDone (readBackOk : Bool)
  | startUp (env : StartEnv)
  | startLimit
  -- object dictionary and management (16)
  | entryWrite (a : OdAddr) (data : List Byte) (accepted : Bool)
  | oobRead (a : OdAddr) (len : Nat) (accepted : Bool)
  | busyTimeout (a : OdAddr) (write : Bool)
  | configCommit (value : Byte)
  | configSweep (crc : Option W32) (mirror : Upset)
  | errStatusClear (area : Fin 18) (v : W32)
  | eventIrqHoldoff
  | setEndpointId (eid : Byte)
  | getEndpointId
  | getMctpVersionSupport
  | getMessageTypeSupport
  | getVendorDefinedMsgSupport
  | rstdaa
  | entdaa (addr : BitVec 7)
  | setdasa (addr : BitVec 7)
  | setaasa
  | enec (events : Byte)
  | disec (events : Byte)
  | rstact (action : Byte)
  | setmwl (v : BitVec 16)
  | getmwl
  | setmrl (v : BitVec 16)
  | getmrl
  -- pins and power (17)
  | resetAssert (pwrgoodFalls : Bool)
  | strapLatch (straps : BitVec 16) (glitch : Bool) (testEn : Bool)
  | phaseSwitch
  | phaseDrive
  | syncOutPulse
  | heartbeat
  | dumpCycle (badFrames : List Nat)
  | railRead (mv : List Nat)
  | d2dLoopback (value : W32)
  | d2dLoopbackDone (errors : Nat)
  -- rows at the table's end
  | portDown (p : Fin 16)
  | freeWireTime (p : Fin 16)
  | launchRepeat
  | d2dTraining (ok : Bool)
  | verifyDone (set : Fin 16)
  | vmapDiscardDone
  | dramTemperatureReport (t : Tier) (unit : Nat) (hot : Bool)
  | ceWindowExpiry (kind : MemKind) (unit : Nat)
  | fwMalformedCommand (r : Fin 8) (env : FwEnv)
  | pcieLinkDown
  | perstN
  -- the last I3C rows of the management section, which carry no operand
  | getpid
  | getbcr
  | getdcr
  | getstatus
  | getmxds
deriving DecidableEq, Repr

end Sys2Proof
end

