-- ==== Sys2Proof/Machine/SMap.lean ====
section
/-!
DEFINITION. Sparse maps: a list of key and value pairs, keys strictly rising, no entry equal to what an unlisted key
reads as. The default is a definition passed to every operation, never a part of the state.
-/
namespace Sys2Proof.Machine

/-- A sparse map from natural numbers: plain data. -/
abbrev SMap (α : Type) := List (Nat × α)

/-- The value at key `k`; an unlisted key reads `d k`. -/
def SMap.get {α : Type} (d : Nat → α) : SMap α → Nat → α
  | [], k => d k
  | (i, v) :: r, k => if i = k then v else SMap.get d r k

/-- Insert a key that the map does not hold, keeping the keys rising. -/
def SMap.insert {α : Type} (k : Nat) (v : α) : SMap α → SMap α
  | [] => [(k, v)]
  | (i, x) :: r => if k < i then (k, v) :: (i, x) :: r else (i, x) :: SMap.insert k v r

/-- Drop a key. -/
def SMap.erase {α : Type} (k : Nat) : SMap α → SMap α
  | [] => []
  | (i, x) :: r => if i = k then SMap.erase k r else (i, x) :: SMap.erase k r

/-- Set key `k` to `v`; a value equal to the default removes the entry. -/
def SMap.set {α : Type} [DecidableEq α] (d : Nat → α) (m : SMap α) (k : Nat) (v : α) : SMap α :=
  if v = d k then SMap.erase k m else SMap.insert k v (SMap.erase k m)

/-- Apply `f` to the value at key `k`. -/
def SMap.modify {α : Type} [DecidableEq α] (d : Nat → α) (m : SMap α) (k : Nat) (f : α → α) : SMap α :=
  SMap.set d m k (f (SMap.get d m k))

/-- Write a list of values at consecutive keys from `k`. -/
def SMap.setList {α : Type} [DecidableEq α] (d : Nat → α) : SMap α → Nat → List α → SMap α
  | m, _, [] => m
  | m, k, v :: vs => SMap.setList d (SMap.set d m k v) (k + 1) vs

/-- The values at `n` consecutive keys from `k`. -/
def SMap.getList {α : Type} (d : Nat → α) (m : SMap α) (k : Nat) : Nat → List α
  | 0 => []
  | n + 1 => SMap.get d m k :: SMap.getList d m (k + 1) n

/-- Drop every key of the range `lo`, …, `lo + n - 1`: those keys read as the default again. -/
def SMap.clearRange {α : Type} (m : SMap α) (lo n : Nat) : SMap α :=
  m.filter fun e => ¬ (lo ≤ e.1 ∧ e.1 < lo + n)

/-- The keys rise strictly and no listed value is the default. -/
def SMap.wf {α : Type} [DecidableEq α] (d : Nat → α) : SMap α → Bool
  | [] => true
  | [(i, v)] => decide (v ≠ d i)
  | (i, v) :: (j, w) :: r => decide (v ≠ d i) && decide (i < j) && SMap.wf d ((j, w) :: r)

/-- Byte memory: every unlisted address reads zero. -/
abbrev Memory := SMap Byte

/-- What a byte that nothing has written reads as (R155 for the tiers; log entry 3 for the top tier). -/
def zeroByte : Nat → Byte := fun _ => 0

/-- Read one byte. -/
def Memory.read (m : Memory) (a : Nat) : Byte := SMap.get zeroByte m a
/-- Write one byte. -/
def Memory.write (m : Memory) (a : Nat) (b : Byte) : Memory := SMap.set zeroByte m a b
/-- Read `n` bytes. -/
def Memory.readN (m : Memory) (a n : Nat) : List Byte := SMap.getList zeroByte m a n
/-- Write bytes at consecutive addresses. -/
def Memory.writeN (m : Memory) (a : Nat) (bs : List Byte) : Memory := SMap.setList zeroByte m a bs
/-- The canonical form of byte memory. -/
def Memory.wf (m : Memory) : Bool := SMap.wf zeroByte m

/-- A little-endian number from its bytes (R9). -/
def leNat : List Byte → Nat
  | [] => 0
  | b :: bs => b.toNat + 256 * leNat bs

/-- The `n` little-endian bytes of a number (R9). -/
def leBytes : Nat → Nat → List Byte
  | 0, _ => []
  | n + 1, v => BitVec.ofNat 8 v :: leBytes n (v / 256)

/-- Read an `n`-byte little-endian number. -/
def Memory.readLE (m : Memory) (a n : Nat) : Nat := leNat (m.readN a n)
/-- Write an `n`-byte little-endian number. -/
def Memory.writeLE (m : Memory) (a n v : Nat) : Memory := m.writeN a (leBytes n v)

/-- A little-endian field of a byte list. -/
def field (bs : List Byte) (off n : Nat) : Nat := leNat ((bs.drop off).take n)
/-- Bits `[hi:lo]` of a number (R8). -/
def bits (v hi lo : Nat) : Nat := v / 2 ^ lo % 2 ^ (hi + 1 - lo)
/-- Bit `n` of a number. -/
def bit (v n : Nat) : Bool := v / 2 ^ n % 2 == 1
/-- The number with bits `[hi:lo]` replaced by `x`. -/
def setBits (v hi lo x : Nat) : Nat :=
  v % 2 ^ lo + 2 ^ lo * (x % 2 ^ (hi + 1 - lo)) + 2 ^ (hi + 1) * (v / 2 ^ (hi + 1))
/-- The number with bit `n` set. -/
def setBit (v n : Nat) : Nat := if bit v n then v else v + 2 ^ n
/-- The number with bit `n` cleared. -/
def clearBit (v n : Nat) : Nat := if bit v n then v - 2 ^ n else v
/-- Insert into a rising list. -/
def insertRising (x : Nat) : List Nat → List Nat
  | [] => [x]
  | y :: r => if x < y then x :: y :: r else if x = y then y :: r else y :: insertRising x r
/-- The union of a rising list with further elements. -/
def unionRising (l : List Nat) (xs : List Nat) : List Nat := xs.foldl (fun m x => insertRising x m) l

/-- 1 for true. -/
def b2n (b : Bool) : Nat := if b then 1 else 0

end Sys2Proof.Machine
end

