-- ==== Sys2Proof/Machine/Hash.lean ====
section
/-!
DEFINITION. Digests and checks: GF(2^128) and the sillage digest (R263 to R266), SHA3-256 (FIPS 202), CRC-32C (R241).
A 16-byte block or digest is a number with byte 0 most significant.
-/
namespace Sys2Proof.Machine

/-- A big-endian number from its bytes. -/
def beNat (l : List Byte) : Nat := l.foldl (fun a b => 256 * a + b.toNat) 0
/-- The `n` big-endian bytes of a number. -/
def beBytes (n v : Nat) : List Byte := (leBytes n v).reverse

/-- The reduction constant of the field (R265). -/
def gmulR : Nat := 0xE1 * 2 ^ 120
/-- The steps of the block multiplication: `z` the sum, `v` the shifted operand, the bits of `x` from the top. -/
def gmulGo (x : Nat) : Nat → Nat → Nat → Nat
  | 0, z, _ => z
  | k + 1, z, v =>
    gmulGo x k (if x / 2 ^ k % 2 = 1 then z ^^^ v else z) (v / 2 ^ 1 ^^^ (if v % 2 = 1 then gmulR else 0))
/-- Multiplication of the field (R263, SP 800-38D Algorithm 1). -/
def gmul (x y : Nat) : Nat := gmulGo x 128 0 y
/-- The element 1. -/
def gone : Nat := 0x80 * 2 ^ 120
/-- Powers by repeated squaring over the low `f` bits of the exponent. -/
def gpowGo (f : Nat) (b e acc : Nat) : Nat :=
  match f with
  | 0 => acc
  | f + 1 => gpowGo f (gmul b b) (e / 2) (if e % 2 = 1 then gmul acc b else acc)
/-- `h` to the power `e`. -/
def gpow (h e : Nat) : Nat := gpowGo (Nat.log2 e + 1) h e gone
/-- Two 64-bit big-endian halves (R265). -/
def lenblock (a b : Nat) : Nat := a % 2 ^ 64 * 2 ^ 64 + b % 2 ^ 64

/-- The 16-byte blocks of a stream, the last padded with zero bytes. -/
def blocksGo : Nat → List Byte → List Nat
  | 0, _ => []
  | n + 1, l => match l with
    | [] => []
    | l => beNat ((l.take 16) ++ List.replicate (16 - l.length) 0) :: blocksGo n (l.drop 16)
/-- The blocks of a stream. -/
def blocks (l : List Byte) : List Nat := blocksGo l.length l

/-- The weighted sum of blocks, the first weighted by `p` (R265). -/
def foldBlocks (h : Nat) : List Nat → Nat → Nat
  | [], _ => 0
  | b :: bs, p => gmul b p ^^^ foldBlocks h bs (gmul p h)
/-- The digest of one byte stream (R265). -/
def digest (stream : List Byte) (h : Nat) : Nat :=
  foldBlocks h (blocks stream) (gmul h h) ^^^ gmul (lenblock 0 (8 * stream.length)) h
/-- The digest of a tensor over its tiles (R265). -/
def tensorDigest (tiles : List (List Byte)) (h : Nat) : Nat :=
  foldBlocks h (tiles.map fun t => digest t h) (gmul h h)
    ^^^ gmul (lenblock tiles.length (8 * (tiles.map List.length).sum)) h

/-! SHA3-256 of FIPS 202, which the spec names and does not restate (log entry 171). The state is the 1600-bit string S as
one number: bit z of the lane at (x, y) is bit 64 (5 y + x) + z. -/

/-- A number of `w` bits turned left by `n` places. -/
def turn (w n v : Nat) : Nat := (v <<< (n % w)) % 2 ^ w ||| v >>> (w - n % w)
/-- The lane at `p = (x, y)`. -/
def laneAt (s : Nat) (p : Nat × Nat) : Nat := s >>> (64 * (5 * p.2 + p.1)) % 2 ^ 64
/-- A lane's bits at their place in S. -/
def laneTo (p : Nat × Nat) (v : Nat) : Nat := v <<< (64 * (5 * p.2 + p.1))
/-- The five lanes of one y, 320 bits. -/
def plane (s y : Nat) : Nat := s >>> (320 * y) % 2 ^ 320
/-- The five planes joined again. -/
def ofPlanes (f : Nat → Nat) : Nat := (List.range 5).foldl (fun s y => s ||| f y <<< (320 * y)) 0
/-- Every lane of a plane turned by one bit. -/
def turnEach (c : Nat) : Nat :=
  (List.range 5).foldl (fun d x => d ||| laneTo (x, 0) (turn 64 1 (laneAt c (x, 0)))) 0
/-- Step theta: each bit takes the parities of the columns beside it. -/
def kTheta (s : Nat) : Nat :=
  let c := (List.range 5).foldl (fun c y => c ^^^ plane s y) 0
  let d := turn 320 64 c ^^^ turn 320 256 (turnEach c)
  ofPlanes fun y => plane s y ^^^ d
/-- The walk of step rho, which is also the move of step pi. -/
def kWalk (p : Nat × Nat) : Nat × Nat := (p.2, (2 * p.1 + 3 * p.2) % 5)
/-- Steps rho and pi from the `t`-th place of the walk on, `n` places left: the lane there, turned by (t + 1)(t + 2) / 2,
comes to the walk's next place. -/
def kRhoPi (s : Nat) : Nat → Nat → Nat × Nat → Nat
  | 0, _, _ => laneAt s (0, 0)
  | n + 1, t, p => laneTo (kWalk p) (turn 64 ((t + 1) * (t + 2) / 2) (laneAt s p)) ||| kRhoPi s n (t + 1) (kWalk p)
/-- Step chi, plane by plane. -/
def kChi (s : Nat) : Nat :=
  ofPlanes fun y =>
    let r := plane s y
    r ^^^ ((2 ^ 320 - 1 - turn 320 256 r) &&& turn 320 192 r)
/-- One step of the register that gives the bits rc(t). -/
def kLfsr (r : Nat) : Nat := if r < 128 then 2 * r else 2 * r ^^^ 0x171
/-- The bits of a round constant that are still to come, from bit 2 ^ j - 1 on, and the register after them. -/
def kConst : Nat → Nat → Nat → Nat × Nat
  | 0, _, r => (0, r)
  | n + 1, j, r =>
    let q := kConst n (j + 1) (kLfsr r)
    (q.1 + r % 2 * 2 ^ (2 ^ j - 1), q.2)
/-- `n` rounds, the register standing at `r`. -/
def kRounds : Nat → Nat → Nat → Nat
  | 0, _, s => s
  | n + 1, r, s =>
    let q := kConst 7 0 r
    kRounds n q.2 (kChi (kRhoPi (kTheta s) 24 0 (1, 0)) ^^^ q.1)
/-- The permutation of 24 rounds. -/
def keccakP (s : Nat) : Nat := kRounds 24 1 s
/-- The message in blocks of 136 bytes, the last with the suffix 01 and the padding 10*1. -/
def sha3Blocks : Nat → List Byte → List Nat
  | 0, _ => []
  | n + 1, m =>
    if m.length < 136 then [leNat m ^^^ 6 * 256 ^ m.length ^^^ 2 ^ 1087]
    else leNat (m.take 136) :: sha3Blocks n (m.drop 136)
/-- SHA3-256 (FIPS 202): rate 1088, the first 32 bytes of the state after the last block. -/
def sha3 (m : List Byte) : List Byte :=
  leBytes 32 ((sha3Blocks (m.length / 136 + 1) m).foldl (fun s b => keccakP (s ^^^ b)) 0)

/-- The key of a sillage digest (R264): bytes 0 to 15 of SHA3-256 of the label and its context; zero gives the element
1. -/
def sillageKey (label : Byte) (ctx : List Byte) : Nat :=
  let k := beNat ((sha3 (label :: ctx)).take 16)
  if k = 0 then gone else k
/-- The step key (Table 12-1). -/
def stepKey (nonce : List Byte) (step : Nat) : Nat := sillageKey 1 (nonce ++ leBytes 8 step)
/-- The epoch key. -/
def epochKey (owner version : Nat) : Nat := sillageKey 2 (leBytes 4 owner ++ leBytes 8 version)
/-- The output key. -/
def outputKey (owner version : Nat) : Nat := sillageKey 3 (leBytes 4 owner ++ leBytes 8 version)

/-- Eight shifts of the reflected CRC-32C register. -/
def crc32cShift : Nat → Nat → Nat
  | 0, c => c
  | n + 1, c => crc32cShift n (if c % 2 = 1 then c / 2 ^^^ 0x82F63B78 else c / 2)
/-- One byte through CRC-32C. -/
def crc32cByte (c : Nat) (b : Byte) : Nat := crc32cShift 8 (c ^^^ b.toNat)
/-- CRC-32C (R241): polynomial 0x1EDC6F41 reflected, initial value and final XOR all ones. -/
def crc32c (l : List Byte) : Nat := l.foldl crc32cByte 0xFFFFFFFF ^^^ 0xFFFFFFFF

end Sys2Proof.Machine
end

