-- ==== Sys2Proof/Config.lean ====
section
/-!
DEFINITION. The free values: what the manual leaves open and the machine nevertheless goes on with. Each is an opaque
constant without a body, so that no proof can see a value of it. A claim about it holds for every value.
-/
namespace Sys2Proof.Config

/-- The free choice behind a class G operation (R45): it picks between the FP32 neighbours of the exact value that the bound of
one ulp leaves. `op` numbers the operation (0 exp, 1 log, 2 rsqrt, 3 reciprocal, 4 tanh, 5 erf); see log entry 10. -/
opaque classG : (op : Nat) → (x : W32) → W32
/-- A free word: drawn with the counter `State.free`, which every draw advances (log entry 2). -/
opaque freeWord : Nat → W32
/-- A free bit, drawn as `freeWord`. -/
opaque freeBool : Nat → Bool
/-- A free natural number, drawn as `freeWord`. -/
opaque freeNat : Nat → Nat
/-- The 64 bytes of the running-batch header, whose layout the manual does not give (R199; log entry 22):
a function of the step counter, the sequence count and the tenant count it holds. -/
opaque batchHeader : (step nseq nten : Nat) → List Byte
/-- The two primes of the device's RSA-3072 identity key, which production generates and no interface reads (R333; log entry 11). -/
opaque idRsaPrimes : Nat × Nat
/-- The secret seed, the randomiser's secret and the public seed of the device's SLH-DSA identity key, 24 bytes each (R333; log entry
11). -/
opaque idSlhSeeds : List Byte
/-- Pormen's root public keys, in the layout of a key slot (R321, R333, R348): a boot ROM constant of which the manual gives the name of
its digest alone (log entry 6). -/
opaque rootKeys : List Byte
/-- What production writes into the flash descriptor and the golden image (R345; log entry 7): a byte by its flash offset. -/
opaque productionFlash : Nat → Byte
/-- The core of a task of an image, by FW_IMAGE and the task's number, none for a task that the image has not; the first ten tasks are
those of the first five rows of Table 15-2 (R338; log entry 234). -/
opaque taskCore : (image task : Nat) → Option Nat
/-- The PMP regions of a task of an image, that its kernel sets (R338; log entry 234): configuration and address of each. -/
opaque taskPmp : (image task : Nat) → List (Nat × Nat)
/-- The sections of a handoff block in a schema, whose layout the manual does not give (R356; log entry 235), from what they carry: the
configuration entries, the CRC reference, the ring positions, the queued flash writes, the D of the holds, the states of the weight
sets and of the checkpoints, the log SEQ, and the tasks of the task faults with their times, in this order. -/
opaque handoffBytes : (schema : Nat) → (sections : List (List Nat)) → List Byte
/-- The identity certificates, set at production (Table 14-6; log entry 6). -/
opaque idCerts : List Byte
/-- The digest of the program record that opens a context's audit chain, whose layout the manual does not give
(R291; log entry 23): a function of the SHA3-256 of the CLASSMARKS section. -/
opaque programRecordDigest : Nat → Nat
/-- The chip id of the organ's bridge chip, as seen from a chip id (R260): the manual does not say how a chip learns it
(log entry 25). -/
opaque bridgeChipId : Nat → Nat
/-- The chip ids of the other chips of the organ, as seen from a chip id: the manual does not say how a chip learns them
(log entry 25). -/
opaque organChips : Nat → List Nat
/-- TILE_BYTES of the region that the manager registers for a state image (R270), which the manual does not give
(log entry 30). -/
opaque imageTileBytes : Nat
/-- TENSOR_ID of that region (log entry 30). -/
opaque imageTensorId : Nat
/-- The bytes of one token in a sequence's token bytes (R291), which the manual does not give (log entry 31). -/
opaque tokenSize : Nat
/-- The version entries of Get MCTP Version Support (R370), which the manual does not give (log entry 14). -/
opaque mctpVersions : List Byte
/-- The command-set version of Get Vendor Defined Message Support (R370), which the manual does not give (log entry 14). -/
opaque mctpVendorVersion : List Byte

/-- The digest of an update for whose image no region closed, a function of the tenant and the update number (log entry 33). -/
opaque openDigest : (tenant update : Nat) → Nat

/-- A byte of the identity page of BAR0, which mirrors the entries of OD 0x4300 in a layout that the manual does not give (R258,
log entry 12). -/
opaque barIdentity : List Nat → Nat → Byte
/-- A byte of the endpoint's PCI Express configuration space that neither Table 11-9 nor the header's layout fixes (R258, log
entry 12). -/
opaque pcieConfig : Nat → Byte
/-- The offset of a PCI Express capability in the endpoint's configuration space, by its id; the manual gives no chain (R258, log entry
12). -/
opaque pcieCap : (id : Nat) → Nat

/-- The bytes that an in-field test leaves in the tile and scratchpad stores of an accord (log entry 231): local addresses with their bytes. -/
opaque testTop : Nat → List (Nat × Byte)
/-- The words that an in-field test leaves in the accumulator stores of an accord (log entry 231), by their place there. -/
opaque testAccum : Nat → List (Nat × W32)
/-- AUX of the TREE_REDUCE packets as which a MOVE on a flow sends what it reads, when that is a node of the canonical tree (R273, log
entry 227): a function of the binary's digest, the flow and the cursor, which the compiler assigns; none for a WRITE. -/
opaque nodeAux : (program flow cursor : Nat) → Option Nat
/-- A tensor of a program belongs to a tenant although its rows carry no sequence (R44, log entry 216): a function of the binary's
digest and the tensor id, which the compiler assigns. -/
opaque tenantTensor : (program tensor : Nat) → Bool
end Sys2Proof.Config
end

