-- ==== Sys2Proof/Machine/Arith.lean ====
section
/-!
DEFINITION. Absolute arithmetic (chapter 02). A value is exact (a dyadic number, an infinity or a NaN); every operation
computes exactly and narrows once, at the points the rules name.
-/
namespace Sys2Proof.Machine

/-- An exact value: NaN, an infinity, or `(-1)^neg * m * 2^e`. A zero keeps its sign. -/
inductive FVal | nan | inf (neg : Bool) | fin (neg : Bool) (m : Nat) (e : Int)
deriving DecidableEq, Repr

/-- The layout of a floating-point format of Table 2-1 with the encodings of Tables 2-2 and 2-3: `inf` the encoding of
+infinity if it has one, `nan` the canonical NaN if it has one. -/
structure FSpec where
  width : Nat
  mbits : Nat
  bias : Nat
  maxFin : Nat
  inf : Option Nat
  nan : Option Nat
deriving DecidableEq, Repr

/-- Tables 2-1 to 2-3. The integer formats and the E8M0 scale have no row of their own here. -/
def fspec : Fmt → FSpec
  | .fp32 => ⟨32, 23, 127, 0x7F7FFFFF, some 0x7F800000, some 0x7FC00000⟩
  | .bf16 => ⟨16, 7, 127, 0x7F7F, some 0x7F80, some 0x7FC0⟩
  | .fp16 => ⟨16, 10, 15, 0x7BFF, some 0x7C00, some 0x7E00⟩
  | .e4m3 => ⟨8, 3, 7, 0x7E, none, some 0x7F⟩
  | .e5m2 => ⟨8, 2, 15, 0x7B, some 0x7C, some 0x7E⟩
  | .e3m2 => ⟨6, 2, 3, 0x1F, none, none⟩
  | .e2m3 => ⟨6, 3, 1, 0x1F, none, none⟩
  | .e2m1 => ⟨4, 1, 1, 0x7, none, none⟩
  | .e8m0 => ⟨8, 0, 127, 0xFE, none, some 0xFF⟩
  | .int8 => ⟨8, 0, 0, 0x7F, none, none⟩
  | .int32 => ⟨32, 0, 0, 0x7FFFFFFF, none, none⟩

/-- The width in bits of an element (Table 2-1). -/
def fmtWidth (f : Fmt) : Nat := (fspec f).width
/-- The three MX element formats that need a block scale. -/
def fmtMx : Fmt → Bool
  | .e3m2 | .e2m3 | .e2m1 => true
  | _ => false
/-- The two FP8 formats. -/
def fmtFp8 : Fmt → Bool
  | .e4m3 | .e5m2 => true
  | _ => false
/-- The two integer formats. -/
def fmtInt : Fmt → Bool
  | .int8 | .int32 => true
  | _ => false
/-- The formats a matrix engine accepts as input (R23). -/
def fmtMeInput : Fmt → Bool
  | .bf16 | .fp16 | .e4m3 | .e5m2 | .e3m2 | .e2m3 | .e2m1 => true
  | _ => false

/-- The two's complement value of the low `w` bits. -/
def signedOf (w v : Nat) : Int :=
  if v % 2 ^ w < 2 ^ (w - 1) then (v % 2 ^ w : Nat) else ((v % 2 ^ w : Nat) : Int) - (2 ^ w : Nat)

/-- The exact value an integer has. -/
def FVal.ofInt (i : Int) : FVal := .fin (decide (i < 0)) i.natAbs 0

/-- The value an encoding represents (R23, R24, R33); every NaN encoding reads as NaN. -/
def decodeFloat (s : FSpec) (v : Nat) : FVal :=
  let mag := v % 2 ^ (s.width - 1)
  let neg := bit v (s.width - 1)
  let e := mag / 2 ^ s.mbits
  let f := mag % 2 ^ s.mbits
  if mag > s.maxFin then
    (if s.inf = some mag then .inf neg else .nan)
  else if e = 0 then .fin neg f (1 - (s.bias : Int) - (s.mbits : Int))
  else .fin neg (2 ^ s.mbits + f) ((e : Int) - (s.bias : Int) - (s.mbits : Int))

/-- The value of an element encoding in any format. -/
def decodeVal (f : Fmt) (v : Nat) : FVal :=
  match f with
  | .int8 => FVal.ofInt (signedOf 8 v)
  | .int32 => FVal.ofInt (signedOf 32 v)
  | .e8m0 => if v % 256 = 255 then .nan else .fin false 1 ((v % 256 : Nat) - 127)
  | f => decodeFloat (fspec f) v

/-- The exponent of an E8M0 scale; `none` is the NaN scale (R25). -/
def scaleExp (v : Nat) : Option Int := if v % 256 = 255 then none else some ((v % 256 : Nat) - 127)
/-- The E8M0 byte of a scale exponent from -127 to 127. -/
def scaleByte (x : Int) : Nat := (x + 127).toNat % 256

/-- Apply a power of two exactly. -/
def FVal.scale (x : FVal) (k : Int) : FVal :=
  match x with
  | .fin n m e => .fin n m (e + k)
  | y => y
/-- Apply an E8M0 scale: the NaN scale makes every element NaN (R25). -/
def FVal.scaleBy (x : FVal) (v : Nat) : FVal :=
  match scaleExp v with
  | none => .nan
  | some k => x.scale k
/-- The sign bit of a value; a NaN counts as positive. -/
def FVal.neg? : FVal → Bool
  | .nan => false
  | .inf n => n
  | .fin n _ _ => n
/-- Change the sign. -/
def FVal.negate : FVal → FVal
  | .nan => .nan
  | .inf n => .inf (!n)
  | .fin n m e => .fin (!n) m e
/-- An exact zero of either sign. -/
def FVal.isZero : FVal → Bool
  | .fin _ 0 _ => true
  | _ => false
/-- Neither infinite nor NaN. -/
def FVal.isFinite : FVal → Bool
  | .fin .. => true
  | _ => false
/-- NaN. -/
def FVal.isNan : FVal → Bool
  | .nan => true
  | _ => false
/-- An infinity. -/
def FVal.isInf : FVal → Bool
  | .inf _ => true
  | _ => false

/-- `m * 2^k` rounded to an integer count of units `2^q`: quotient, remainder and the unit in the same scale. -/
def quantum (m : Nat) (e q : Int) : Nat × Nat × Nat :=
  if q ≤ e then (m * 2 ^ (e - q).toNat, 0, 1)
  else (m / 2 ^ (q - e).toNat, m % 2 ^ (q - e).toNat, 2 ^ (q - e).toNat)

/-- One rounding of a quotient with remainder (R26, R36, R43); `w` is the element's random word. -/
def roundQ (r : Round) (w : Nat) (p : Nat × Nat × Nat) : Nat :=
  match r with
  | .rtz => p.1
  | .rne =>
    if 2 * p.2.1 < p.2.2 then p.1
    else if p.2.2 < 2 * p.2.1 then p.1 + 1
    else if p.2.1 = 0 then p.1
    else p.1 + p.1 % 2
  | .sr => if w < p.2.1 * 2 ^ 32 / p.2.2 then p.1 + 1 else p.1

/-- The magnitude `m * 2^e` rounded once to a format with its exponent range unbounded above, as an encoding that goes
on past the format's largest finite one. -/
def roundMag (s : FSpec) (r : Round) (w m : Nat) (e : Int) : Nat :=
  if m = 0 then 0 else
  let emin : Int := 1 - (s.bias : Int)
  let top : Int := (Nat.log2 m : Int) + e
  let b : Int := if top < emin then emin else top
  let n := roundQ r w (quantum m e (b - (s.mbits : Int)))
  (b - emin).toNat * 2 ^ s.mbits + n

/-- An encoding with its sign bit. -/
def withSignBit (s : FSpec) (neg : Bool) (mag : Nat) : Nat := if neg then mag + 2 ^ (s.width - 1) else mag

/-- What an overflow or an infinity writes (R37): the largest finite value when saturating, else infinity, else the
canonical NaN of a format without infinity. -/
def overflowEnc (s : FSpec) (sat neg : Bool) : Nat :=
  if sat then withSignBit s neg s.maxFin
  else match s.inf with
    | some i => withSignBit s neg i
    | none => s.nan.getD 0

/-- A finite value overflows the target (R37). -/
def overflows (s : FSpec) (r : Round) (w : Nat) (x : FVal) : Bool :=
  match x with
  | .fin _ m e => decide (s.maxFin < roundMag s r w m e)
  | _ => false

/-- A narrowing conversion to a floating-point format, rounded once (R36, R37). -/
def convFloat (s : FSpec) (r : Round) (sat : Bool) (w : Nat) (x : FVal) : Nat :=
  match x with
  | .nan => s.nan.getD 0
  | .inf n => overflowEnc s sat n
  | .fin n m e =>
    let v := roundMag s r w m e
    if s.maxFin < v then overflowEnc s sat n else withSignBit s n v

/-- A conversion to a two's complement integer of `w` bits: rounds in the mode and saturates (R39). -/
def convInt (bitsN : Nat) (r : Round) (w : Nat) (x : FVal) : Nat :=
  match x with
  | .nan => 0
  | .inf n => if n then 2 ^ (bitsN - 1) else 2 ^ (bitsN - 1) - 1
  | .fin n m e =>
    let q := roundQ r w (quantum m e 0)
    if n then (if q ≥ 2 ^ (bitsN - 1) then 2 ^ (bitsN - 1) else (2 ^ bitsN - q) % 2 ^ bitsN)
    else (if q ≥ 2 ^ (bitsN - 1) then 2 ^ (bitsN - 1) - 1 else q)

/-- A conversion to a non-MX target (R36, R37, R39). -/
def convElem (f : Fmt) (r : Round) (sat : Bool) (w : Nat) (x : FVal) : Nat :=
  match f with
  | .int8 => convInt 8 r w x
  | .int32 => convInt 32 r w x
  | f => convFloat (fspec f) r sat w x

/-- The pairs that Table 4-3 marks exact, and the identities: the target holds every value of the source (R36). -/
def exactPair (src tgt : Fmt) : Bool :=
  src == tgt || match tgt with
    | .fp32 => src != .int32
    | .bf16 | .fp16 => fmtFp8 src || fmtMx src || src == .int8
    | .e4m3 => fmtMx src
    | .e5m2 => src == .e3m2 || src == .e2m1
    | .int32 => src == .int8
    | _ => false

/-- RNE32 of an exact value as a lane (R26, R35). -/
def rne32 (x : FVal) : W32 := BitVec.ofNat 32 (convFloat (fspec .fp32) .rne false 0 x)
/-- The value of a lane. -/
def dec32 (x : W32) : FVal := decodeVal .fp32 x.toNat
/-- +0.0. -/
def posZero : W32 := 0
/-- Canonical NaN of FP32 (R34). -/
def canonNan : W32 := 0x7FC00000#32

/-- The exact product (R34, R35): infinity times zero is NaN, the sign is the exclusive OR. -/
def FVal.mul : FVal → FVal → FVal
  | .nan, _ => .nan
  | _, .nan => .nan
  | .inf s, .inf t => .inf (s ^^ t)
  | .inf s, .fin t m _ => if m = 0 then .nan else .inf (s ^^ t)
  | .fin s m _, .inf t => if m = 0 then .nan else .inf (s ^^ t)
  | .fin s m e, .fin t n f => .fin (s ^^ t) (m * n) (e + f)

/-- The signed integer value of a finite magnitude at exponent `q`, which must not exceed its own. -/
def signedAt (n : Bool) (m : Nat) (e q : Int) : Int :=
  let v : Int := (m * 2 ^ (e - q).toNat : Nat)
  if n then -v else v

/-- The exact sum (R34, R35): opposite infinities give NaN, two zeros give -0.0 only when both are. -/
def FVal.add : FVal → FVal → FVal
  | .nan, _ => .nan
  | _, .nan => .nan
  | .inf s, .inf t => if s = t then .inf s else .nan
  | .inf s, .fin .. => .inf s
  | .fin .., .inf t => .inf t
  | .fin s m e, .fin t n f =>
    let q := if e ≤ f then e else f
    let v := signedAt s m e q + signedAt t n f q
    if v = 0 then .fin (s && t && m == 0 && n == 0) 0 q
    else .fin (decide (v < 0)) v.natAbs q

/-- Round-down square root by bits. -/
def isqrtGo (n : Nat) : Nat → Nat → Nat
  | 0, r => r
  | k + 1, r => if (r + 2 ^ k) * (r + 2 ^ k) ≤ n then isqrtGo n k (r + 2 ^ k) else isqrtGo n k r
/-- The largest natural number whose square is at most `n`. -/
def isqrt (n : Nat) : Nat := isqrtGo n (Nat.log2 n / 2 + 1) 0

/-- The quotient of two non-zero finite magnitudes to more bits than binary64 keeps, the rest in a sticky bit. -/
def divFin (s : Bool) (m : Nat) (e : Int) (n : Nat) (f : Int) : FVal :=
  let k := Nat.log2 n + 70
  let a := m * 2 ^ k
  .fin s (2 * (a / n) + b2n (a % n != 0)) (e - f - k - 1)

/-- The quotient (R34, R35). A finite value over zero is an infinity, over an infinity an exact zero. -/
def FVal.div : FVal → FVal → FVal
  | .nan, _ => .nan
  | _, .nan => .nan
  | .inf _, .inf _ => .nan
  | .inf s, .fin t _ _ => .inf (s ^^ t)
  | .fin s _ _, .inf t => .fin (s ^^ t) 0 0
  | .fin s m e, .fin t n f =>
    if n = 0 then (if m = 0 then .nan else .inf (s ^^ t))
    else if m = 0 then .fin (s ^^ t) 0 0
    else divFin (s ^^ t) m e n f

/-- The square root to more bits than binary64 keeps, the rest in a sticky bit; the root of a negative number is NaN and
the root of a zero is that zero (R34; IEEE-754). -/
def FVal.sqrt : FVal → FVal
  | .nan => .nan
  | .inf n => if n then .nan else .inf false
  | .fin n m e =>
    if m = 0 then .fin n 0 e
    else if n then .nan
    else
      let odd : Nat := (e % 2).toNat
      let a := m * 2 ^ (120 + odd)
      let r := isqrt a
      .fin false (2 * r + b2n (r * r != a)) ((e - odd) / 2 - 61)

/-- Binary32 addition (R30, R35). -/
def add32 (a b : W32) : W32 := rne32 ((dec32 a).add (dec32 b))
/-- Binary32 subtraction: the sum with the second operand's sign changed. -/
def sub32 (a b : W32) : W32 := rne32 ((dec32 a).add (dec32 b).negate)
/-- Binary32 multiplication. -/
def mul32 (a b : W32) : W32 := rne32 ((dec32 a).mul (dec32 b))
/-- Fused multiply-add, one rounding (Table 4-2). -/
def fma32 (a b c : W32) : W32 := rne32 (((dec32 a).mul (dec32 b)).add (dec32 c))
/-- Binary32 division, correctly rounded (R79). -/
def div32 (a b : W32) : W32 := rne32 ((dec32 a).div (dec32 b))
/-- Binary32 square root, correctly rounded (R79). -/
def sqrt32 (a : W32) : W32 := rne32 (dec32 a).sqrt

/-- The exact order of two finite or infinite values; a NaN is below nothing and above nothing. -/
def FVal.lt : FVal → FVal → Bool
  | .nan, _ => false
  | _, .nan => false
  | .inf s, .inf t => s && !t
  | .inf s, .fin .. => s
  | .fin .., .inf t => !t
  | .fin s m e, .fin t n f =>
    let q := if e ≤ f then e else f
    decide (signedAt s m e q < signedAt t n f q)
/-- Equality of values: the two zeros are equal, a NaN equals nothing. -/
def FVal.eqv (a b : FVal) : Bool := !a.isNan && !b.isNan && !a.lt b && !b.lt a

/-- Minimum (R47): NaN if either is; of two zeros the negative one. -/
def min32 (a b : W32) : W32 :=
  let x := dec32 a; let y := dec32 b
  if x.isNan || y.isNan then canonNan
  else if x.lt y then a else if y.lt x then b else a ||| b
/-- Maximum (R47): NaN if either is; of two zeros the positive one. -/
def max32 (a b : W32) : W32 :=
  let x := dec32 a; let y := dec32 b
  if x.isNan || y.isNan then canonNan
  else if x.lt y then b else if y.lt x then a else a &&& b
/-- Absolute value; a NaN gives the canonical NaN (R24). -/
def abs32 (a : W32) : W32 := if (dec32 a).isNan then canonNan else a &&& 0x7FFFFFFF#32
/-- Negation; a NaN gives the canonical NaN (R24). -/
def neg32 (a : W32) : W32 := if (dec32 a).isNan then canonNan else a ^^^ 0x80000000#32

/-- One level of the canonical tree: adjacent pairs added, a last odd element passed on (R30). -/
def treeLevel : List W32 → List W32
  | a :: b :: r => add32 a b :: treeLevel r
  | l => l
/-- The levels of the canonical tree, at most `fuel` of them. -/
def treeGo : Nat → List W32 → List W32
  | 0, l => l
  | n + 1, l => match l with
    | [] => []
    | [x] => [x]
    | l => treeGo n (treeLevel l)
/-- The canonical tree over a list of leaves (R30); the empty list gives +0.0. -/
def canonicalTree (l : List W32) : W32 := (treeGo l.length l).headD posZero

/-- A product at rounding point P1 (R26): exact, scaled by both scales, rounded once. -/
def product (fa : Fmt) (a sa : Nat) (fb : Fmt) (b sb : Nat) : W32 :=
  rne32 (((decodeVal fa a).scaleBy sa).mul ((decodeVal fb b).scaleBy sb))

/-- The smallest integer `x` with `m * 2^(e-x)` at most `n * 2^f` (R38, R41), for non-zero magnitudes. -/
def minShift (m : Nat) (e : Int) (n : Nat) (f : Int) : Int :=
  let x : Int := (Nat.log2 m : Int) + e - ((Nat.log2 n : Int) + f)
  let q := if e - x ≤ f then e - x else f
  if m * 2 ^ (e - x - q).toNat ≤ n * 2 ^ (f - q).toNat then x else x + 1

/-- The magnitude of the largest finite value of a format as `m * 2^e`. -/
def maxFinVal (f : Fmt) : Nat × Int :=
  match decodeVal f (fspec f).maxFin with
  | .fin _ m e => (m, e)
  | _ => (0, 0)

/-- The larger of two finite magnitudes; infinities and NaN never enter (R42). -/
def amaxStep (acc : Nat × Int) (x : FVal) : Nat × Int :=
  match x with
  | .fin _ m e => if (FVal.fin false acc.1 acc.2).lt (.fin false m e) then (m, e) else acc
  | _ => acc
/-- The largest finite magnitude of a list, +0 when there is none (R42). -/
def amaxOf (l : List FVal) : Nat × Int := l.foldl amaxStep (0, 0)

/-- The block scale exponent of 32 values (R38). -/
def blockScale (f : Fmt) (l : List FVal) : Int :=
  let a := amaxOf l
  if a.1 = 0 then -127
  else
    let x := minShift a.1 a.2 (maxFinVal f).1 (maxFinVal f).2
    if x < -127 then -127 else if 127 < x then 127 else x

/-- One block converted to an MX element format: the scale byte and the element encodings (R37, R38). An overflow in
the non-saturating mode, or any infinity or NaN, makes the whole block NaN. -/
def convBlock (f : Fmt) (r : Round) (sat : Bool) (ws : List Nat) (l : List FVal) : Nat × List Nat :=
  let s := fspec f
  let x := blockScale f l
  let ys := l.map fun v => v.scale (-x)
  if l.any (fun v => !v.isFinite) then (0xFF, l.map fun _ => 0)
  else if !sat && (ys.zip ws).any (fun p => overflows s r p.2 p.1) then (0xFF, l.map fun _ => 0)
  else (scaleByte x, (ys.zip ws).map fun p => convFloat s r true p.2 p.1)

/-- The inputs of one Philox word (Table 2-6). -/
structure PhiloxIn where
  seed : Nat
  domain : Nat
  tensorId : Nat
  row : Nat
  col : Nat
deriving DecidableEq, Repr

/-- One round of Philox4x32 (Table 2-7). -/
def philoxRound (k : Nat × Nat) (x : Nat × Nat × Nat × Nat) : Nat × Nat × Nat × Nat :=
  let p0 := 0xD2511F53 * x.1
  let p1 := 0xCD9E8D57 * x.2.2.1
  (p1 / 2 ^ 32 ^^^ x.2.1 ^^^ k.1, p1 % 2 ^ 32, p0 / 2 ^ 32 ^^^ x.2.2.2 ^^^ k.2, p0 % 2 ^ 32)
/-- `n` rounds with the key schedule between them. -/
def philoxGo : Nat → Nat × Nat → Nat × Nat × Nat × Nat → Nat × Nat × Nat × Nat
  | 0, _, x => x
  | n + 1, k, x => philoxGo n ((k.1 + 0x9E3779B9) % 2 ^ 32, (k.2 + 0xBB67AE85) % 2 ^ 32) (philoxRound k x)
/-- Philox4x32-10: counter words c0 to c3 and key words k0, k1. -/
def philox (c : Nat × Nat × Nat × Nat) (k : Nat × Nat) : Nat × Nat × Nat × Nat := philoxGo 10 k c
/-- The random word of an element (R44): word `col & 3` under the counter of Table 2-6. -/
def philoxWord (p : PhiloxIn) : Nat :=
  let x := philox (p.col / 4 % 2 ^ 32, p.row % 2 ^ 32, p.row / 2 ^ 32 % 2 ^ 32,
    p.domain % 256 * 2 ^ 24 + p.tensorId % 2 ^ 24) (p.seed % 2 ^ 32, p.seed / 2 ^ 32 % 2 ^ 32)
  match p.col % 4 with
  | 0 => x.1
  | 1 => x.2.1
  | 2 => x.2.2.1
  | _ => x.2.2.2

end Sys2Proof.Machine
end

