-- ==== Sys2Proof/Machine/OdMap.lean ====
section
/-!
DEFINITION. The object dictionary (chapter 16): its entries, their types, rights, clock domains and defaults, from the
tables of every chapter, and the keys by which the rest of the model names them. The key of an entry is
`index * 256 + subindex`; its value is the little-endian number of its bytes.
-/
namespace Sys2Proof.Machine

/-- How the bytes of an entry are checked (Table 16-1): a BOOL, an F32, a DOMAIN, or any other type. -/
inductive OdTy | plain | bool | f32 | domain
deriving DecidableEq, Repr

/-- Access rights (Table 16-2). -/
inductive OdAcc | ro | rw | wo | cfg | seqclr | cmt
deriving DecidableEq, Repr

/-- Clock domains. -/
inductive OdDom | mclk | uclk | eclk | tclk
deriving DecidableEq, Repr

/-- One row of a chapter's table: a rectangle of indices and subindices, the size in bytes (a DOMAIN: its bound), type,
right, domain, default and the ranges a written value must lie in (none: any). -/
structure OdRow where
  i0 : Nat
  i1 : Nat
  s0 : Nat
  s1 : Nat
  size : Nat
  ty : OdTy
  acc : OdAcc
  dom : OdDom
  dflt : Nat
  ranges : List (Nat × Nat)
deriving DecidableEq, Repr

/-- The key of unit `c` of a family of two or more indices with 128 subindices each. -/
def ctxKey (index c : Nat) : Nat := (index + c / 128) * 256 + c % 128 + 1

/-- The default slot-table image (Table 6-2): LEN_LOG2 4, every burst limit 16, no owned entry. -/
def defaultArbImage : Nat := leNat ([4#8] ++ List.replicate 15 0#8 ++ List.replicate 64 15#8 ++ List.replicate 16 0#8)
/-- BASE_DIMM of a 256 GiB MRDIMM of two package ranks at 8800 (log entry 8). -/
def defaultDimm : Nat := 2 * 2 ^ 30 + 1 * 2 ^ 28 + 8800 * 2 ^ 14 + 256
/-- Eight virtual lanes of 480 credits. -/
def defaultCredits : Nat := leNat ((List.replicate 8 [0xE0#8, 0x01#8]).flatten)

/-- Entries 0x1000 to 0x10FF. -/
def odRowsIdentity : List OdRow := [
  ⟨0x1000, 0x1000, 0x01, 0x01, 16, .plain, .ro, .mclk, 0x6E656D726F50, []⟩,
  ⟨0x1000, 0x1000, 0x02, 0x02, 16, .plain, .ro, .mclk, 0x726F64696C6152, []⟩,
  ⟨0x1000, 0x1000, 0x03, 0x03, 1, .plain, .ro, .mclk, 0, []⟩,
  ⟨0x1000, 0x1000, 0x04, 0x04, 1, .plain, .ro, .mclk, 1, []⟩,
  ⟨0x1000, 0x1000, 0x05, 0x05, 1, .plain, .ro, .mclk, 1, []⟩,
  ⟨0x1000, 0x1000, 0x06, 0x06, 2, .plain, .ro, .mclk, 0x0100, []⟩,
  ⟨0x1000, 0x1000, 0x07, 0x07, 4, .plain, .ro, .mclk, 0, []⟩,
  ⟨0x1000, 0x1000, 0x08, 0x08, 6, .plain, .ro, .mclk, 0x0640 * 2 ^ 16, []⟩,
  ⟨0x1000, 0x1000, 0x09, 0x09, 1, .plain, .ro, .mclk, 0, []⟩,
  ⟨0x1000, 0x1000, 0x0A, 0x0A, 1, .plain, .ro, .mclk, 16, []⟩,
  ⟨0x1001, 0x1001, 0x01, 0x10, 1, .plain, .ro, .mclk, 0, []⟩]

/-- Entries 0x1100 to 0x11FF. -/
def odRowsTime : List OdRow := [
  ⟨0x1100, 0x1100, 0x01, 0x01, 8, .plain, .ro, .tclk, 0, []⟩,
  ⟨0x1100, 0x1100, 0x02, 0x02, 1, .plain, .ro, .mclk, 0, []⟩,
  ⟨0x1100, 0x1100, 0x03, 0x03, 1, .plain, .cfg, .mclk, 0, []⟩,
  ⟨0x1100, 0x1100, 0x04, 0x04, 1, .plain, .ro, .tclk, 0, []⟩,
  ⟨0x1100, 0x1100, 0x05, 0x05, 4, .plain, .ro, .tclk, 0, []⟩,
  ⟨0x1100, 0x1100, 0x06, 0x06, 1, .plain, .ro, .tclk, 0, []⟩,
  ⟨0x1100, 0x1100, 0x07, 0x07, 4, .plain, .ro, .tclk, 0, []⟩,
  ⟨0x1100, 0x1100, 0x08, 0x08, 4, .plain, .ro, .tclk, 0, []⟩,
  ⟨0x1100, 0x1100, 0x09, 0x09, 4, .plain, .cfg, .mclk, 4750, []⟩,
  ⟨0x1100, 0x1100, 0x0A, 0x0A, 4, .plain, .cfg, .mclk, 9500, []⟩,
  ⟨0x1100, 0x1100, 0x0B, 0x0B, 4, .plain, .ro, .tclk, 0, []⟩,
  ⟨0x1100, 0x1100, 0x0C, 0x0C, 4, .plain, .ro, .tclk, 0, []⟩,
  ⟨0x1100, 0x1100, 0x0D, 0x0D, 16, .plain, .wo, .tclk, 0, []⟩,
  ⟨0x1100, 0x1100, 0x0E, 0x0E, 1, .plain, .ro, .tclk, 0, []⟩,
  ⟨0x1100, 0x1100, 0x0F, 0x0F, 1, .plain, .cfg, .mclk, 95, []⟩,
  ⟨0x1100, 0x1100, 0x10, 0x10, 1, .plain, .cfg, .mclk, 90, []⟩,
  ⟨0x1100, 0x1100, 0x11, 0x11, 1, .plain, .cfg, .mclk, 102, [(0, 104)]⟩,
  ⟨0x1100, 0x1100, 0x12, 0x12, 4, .plain, .ro, .tclk, 0, []⟩,
  ⟨0x1100, 0x1100, 0x13, 0x13, 4, .plain, .ro, .tclk, 0, []⟩,
  ⟨0x1100, 0x1100, 0x14, 0x14, 1, .plain, .ro, .tclk, 0, []⟩,
  ⟨0x1100, 0x1100, 0x15, 0x15, 4, .plain, .wo, .mclk, 0, []⟩,
  ⟨0x1100, 0x1100, 0x16, 0x16, 4, .plain, .ro, .mclk, 0, []⟩,
  ⟨0x1100, 0x1100, 0x17, 0x17, 4, .plain, .seqclr, .mclk, 0, []⟩,
  ⟨0x1100, 0x1100, 0x18, 0x18, 4, .plain, .ro, .mclk, 0, []⟩,
  ⟨0x1101, 0x1101, 0x01, 0x40, 16, .plain, .rw, .tclk, 0, []⟩,
  ⟨0x1102, 0x1102, 0x01, 0x10, 16, .plain, .rw, .mclk, 0, []⟩,
  ⟨0x1103, 0x1103, 0x01, 0x0F, 2, .plain, .cfg, .mclk, 0xFFFF, []⟩]

/-- Entries 0x1200 to 0x12FF. -/
def odRowsPins : List OdRow := [
  ⟨0x1200, 0x1200, 0x01, 0x01, 1, .plain, .ro, .mclk, 2, []⟩,
  ⟨0x1200, 0x1200, 0x02, 0x02, 2, .plain, .ro, .mclk, 0, []⟩,
  ⟨0x1200, 0x1200, 0x03, 0x03, 1, .bool, .ro, .mclk, 0, []⟩,
  ⟨0x1200, 0x1200, 0x04, 0x04, 4, .plain, .ro, .mclk, 0, []⟩,
  ⟨0x1200, 0x1200, 0x05, 0x05, 2, .plain, .ro, .mclk, 0, []⟩,
  ⟨0x1200, 0x1200, 0x06, 0x06, 4, .plain, .ro, .tclk, 0, []⟩,
  ⟨0x1200, 0x1200, 0x07, 0x07, 4, .plain, .ro, .mclk, 0, []⟩,
  ⟨0x1200, 0x1200, 0x08, 0x08, 1, .plain, .ro, .mclk, 110, []⟩,
  ⟨0x1200, 0x1200, 0x09, 0x09, 4, .plain, .ro, .mclk, 0, []⟩,
  ⟨0x1200, 0x1200, 0x0A, 0x0A, 4, .plain, .rw, .mclk, 0, []⟩,
  ⟨0x1200, 0x1200, 0x0B, 0x0B, 4, .plain, .ro, .mclk, 0, []⟩,
  ⟨0x1200, 0x1200, 0x0C, 0x0C, 1, .bool, .ro, .mclk, 0, []⟩,
  ⟨0x1200, 0x1200, 0x0D, 0x0D, 4, .plain, .seqclr, .mclk, 0, []⟩,
  ⟨0x1200, 0x1200, 0x0E, 0x0E, 4, .plain, .ro, .mclk, 0, []⟩,
  ⟨0x1200, 0x1200, 0x10, 0x1F, 4, .plain, .ro, .mclk, 0, []⟩,
  ⟨0x1200, 0x1200, 0x20, 0x2D, 2, .plain, .ro, .mclk, 0, []⟩,
  ⟨0x1200, 0x1200, 0x30, 0x3D, 4, .plain, .ro, .mclk, 0, []⟩]

/-- Entries 0x1F00 to 0x1FFF. -/
def odRowsDict : List OdRow := [
  ⟨0x1F00, 0x1F00, 0x01, 0x01, 4, .plain, .rw, .mclk, 0, []⟩,
  ⟨0x1F00, 0x1F00, 0x02, 0x02, 1, .plain, .cmt, .mclk, 0, []⟩,
  ⟨0x1F00, 0x1F00, 0x03, 0x03, 1, .plain, .ro, .mclk, 0, []⟩,
  ⟨0x1F00, 0x1F00, 0x04, 0x04, 4, .plain, .ro, .mclk, 0, []⟩,
  ⟨0x1F00, 0x1F00, 0x05, 0x05, 1, .plain, .cfg, .mclk, 0, [(0, 1)]⟩,
  ⟨0x1F00, 0x1F00, 0x06, 0x06, 2, .plain, .ro, .mclk, 0, []⟩,
  ⟨0x1F00, 0x1F00, 0x07, 0x07, 4, .plain, .ro, .mclk, 0, []⟩,
  ⟨0x1F00, 0x1F00, 0x08, 0x08, 4, .plain, .ro, .mclk, 0, []⟩,
  ⟨0x1F00, 0x1F00, 0x09, 0x09, 4, .plain, .ro, .mclk, 0, []⟩,
  ⟨0x1F00, 0x1F00, 0x0A, 0x0A, 2, .plain, .cfg, .mclk, 0, []⟩,
  ⟨0x1F00, 0x1F00, 0x0B, 0x0B, 4, .plain, .cfg, .mclk, 47500, []⟩,
  ⟨0x1F00, 0x1F00, 0x0C, 0x0C, 1, .bool, .rw, .mclk, 1, []⟩,
  ⟨0x1F00, 0x1F00, 0x0D, 0x0D, 4, .plain, .ro, .mclk, 0, []⟩,
  ⟨0x1F00, 0x1F00, 0x0E, 0x0E, 4, .plain, .ro, .mclk, 0, []⟩,
  ⟨0x1F00, 0x1F00, 0x0F, 0x0F, 4, .plain, .ro, .mclk, 0, []⟩,
  ⟨0x1F00, 0x1F00, 0x10, 0x10, 4, .plain, .seqclr, .mclk, 0, []⟩,
  ⟨0x1F00, 0x1F00, 0x11, 0x11, 4, .plain, .ro, .mclk, 0, []⟩]

/-- Entries 0x2000 to 0x21FF. -/
def odRowsMe : List OdRow := [
  ⟨0x2100, 0x2100, 0x01, 0x01, 1, .plain, .ro, .mclk, 64, []⟩,
  ⟨0x2100, 0x2100, 0x02, 0x02, 8, .plain, .ro, .mclk, 2 ^ 64 - 1, []⟩,
  ⟨0x2100, 0x2100, 0x03, 0x03, 8, .plain, .ro, .mclk, 0, []⟩,
  ⟨0x2100, 0x2100, 0x04, 0x04, 1, .plain, .ro, .mclk, 6, []⟩,
  ⟨0x2100, 0x2100, 0x05, 0x05, 4, .plain, .ro, .eclk, 0, []⟩,
  ⟨0x2100, 0x2100, 0x06, 0x06, 4, .plain, .ro, .eclk, 0, []⟩,
  ⟨0x2100, 0x2100, 0x07, 0x07, 4, .plain, .ro, .eclk, 0, []⟩,
  ⟨0x2100, 0x2100, 0x08, 0x08, 2, .plain, .cfg, .mclk, 256, []⟩,
  ⟨0x2100, 0x2100, 0x09, 0x09, 4, .plain, .cfg, .mclk, 475000000, []⟩,
  ⟨0x2100, 0x2100, 0x0A, 0x0A, 8, .plain, .seqclr, .mclk, 0, []⟩,
  ⟨0x2100, 0x2100, 0x0B, 0x0B, 4, .plain, .ro, .mclk, 0, []⟩,
  ⟨0x2101, 0x2101, 0x01, 0x40, 8, .plain, .ro, .eclk, 0, []⟩,
  ⟨0x2102, 0x2102, 0x01, 0x40, 4, .plain, .ro, .eclk, 0, []⟩,
  ⟨0x2103, 0x2103, 0x01, 0x40, 1, .plain, .ro, .mclk, 0, []⟩,
  ⟨0x2104, 0x2104, 0x01, 0x40, 4, .plain, .ro, .eclk, 0, []⟩]

/-- Entries 0x2200 to 0x22FF. -/
def odRowsVe : List OdRow := [
  ⟨0x2200, 0x2200, 0x01, 0x01, 1, .plain, .ro, .mclk, 16, []⟩,
  ⟨0x2200, 0x2200, 0x02, 0x02, 2, .plain, .ro, .mclk, 0xFFFF, []⟩,
  ⟨0x2200, 0x2200, 0x03, 0x03, 2, .plain, .ro, .mclk, 0, []⟩,
  ⟨0x2200, 0x2200, 0x04, 0x04, 4, .plain, .ro, .eclk, 0, []⟩,
  ⟨0x2200, 0x2200, 0x05, 0x05, 2, .plain, .cfg, .mclk, 256, []⟩,
  ⟨0x2200, 0x2200, 0x06, 0x06, 4, .plain, .cfg, .mclk, 475000000, []⟩,
  ⟨0x2200, 0x2200, 0x07, 0x07, 4, .plain, .ro, .eclk, 0, []⟩,
  ⟨0x2200, 0x2200, 0x08, 0x08, 4, .plain, .ro, .eclk, 0, []⟩,
  ⟨0x2200, 0x2200, 0x09, 0x09, 4, .plain, .ro, .eclk, 0, []⟩,
  ⟨0x2200, 0x2200, 0x0A, 0x0A, 4, .plain, .seqclr, .mclk, 0, []⟩,
  ⟨0x2200, 0x2200, 0x0B, 0x0B, 4, .plain, .ro, .mclk, 0, []⟩,
  ⟨0x2201, 0x2201, 0x01, 0x10, 8, .plain, .ro, .eclk, 0, []⟩,
  ⟨0x2202, 0x2202, 0x01, 0x10, 4, .plain, .ro, .eclk, 0, []⟩,
  ⟨0x2203, 0x2203, 0x01, 0x10, 1, .plain, .ro, .mclk, 0, []⟩]

/-- Entries 0x2300 to 0x23FF. -/
def odRowsPc : List OdRow := [
  ⟨0x2300, 0x2300, 0x01, 0x01, 1, .plain, .ro, .mclk, 64, []⟩,
  ⟨0x2300, 0x2300, 0x02, 0x02, 8, .plain, .ro, .mclk, 2 ^ 64 - 1, []⟩,
  ⟨0x2300, 0x2300, 0x03, 0x03, 8, .plain, .ro, .mclk, 0, []⟩,
  ⟨0x2300, 0x2300, 0x04, 0x04, 8, .plain, .ro, .mclk, 0x800000000030112D, []⟩,
  ⟨0x2300, 0x2300, 0x05, 0x05, 2, .plain, .ro, .mclk, 512, []⟩,
  ⟨0x2300, 0x2300, 0x06, 0x06, 4, .plain, .ro, .eclk, 0, []⟩,
  ⟨0x2300, 0x2300, 0x07, 0x07, 4, .plain, .ro, .eclk, 0, []⟩,
  ⟨0x2300, 0x2300, 0x08, 0x08, 4, .plain, .ro, .eclk, 0, []⟩,
  ⟨0x2300, 0x2300, 0x09, 0x09, 4, .plain, .ro, .eclk, 0, []⟩,
  ⟨0x2300, 0x2300, 0x0A, 0x0A, 4, .plain, .ro, .eclk, 0, []⟩,
  ⟨0x2300, 0x2300, 0x0B, 0x0B, 8, .plain, .seqclr, .mclk, 0, []⟩,
  ⟨0x2300, 0x2300, 0x0C, 0x0C, 4, .plain, .ro, .mclk, 0, []⟩,
  ⟨0x2301, 0x2301, 0x01, 0x40, 8, .plain, .ro, .eclk, 0, []⟩,
  ⟨0x2302, 0x2302, 0x01, 0x40, 4, .plain, .ro, .eclk, 0, []⟩,
  ⟨0x2303, 0x2303, 0x01, 0x40, 1, .plain, .ro, .mclk, 0, []⟩]

/-- Entries 0x2400 to 0x25FF. -/
def odRowsTop : List OdRow := [
  ⟨0x2400, 0x2400, 0x01, 0x01, 1, .plain, .ro, .mclk, 26, []⟩,
  ⟨0x2400, 0x2400, 0x02, 0x02, 1, .plain, .ro, .mclk, 82, []⟩,
  ⟨0x2400, 0x2400, 0x03, 0x03, 4, .plain, .ro, .eclk, 0, []⟩,
  ⟨0x2400, 0x2400, 0x04, 0x04, 2, .plain, .cfg, .mclk, 256, []⟩,
  ⟨0x2400, 0x2400, 0x05, 0x05, 4, .plain, .cfg, .mclk, 475000000, []⟩,
  ⟨0x2400, 0x2400, 0x06, 0x06, 4, .plain, .ro, .eclk, 0, []⟩,
  ⟨0x2400, 0x2400, 0x07, 0x07, 4, .plain, .ro, .eclk, 0, []⟩,
  ⟨0x2400, 0x2400, 0x08, 0x08, 4, .plain, .ro, .eclk, 0, []⟩,
  ⟨0x2400, 0x2400, 0x09, 0x09, 4, .plain, .ro, .eclk, 0, []⟩,
  ⟨0x2400, 0x2400, 0x0A, 0x0A, 4, .plain, .seqclr, .mclk, 0, []⟩,
  ⟨0x2400, 0x2400, 0x0B, 0x0B, 4, .plain, .ro, .mclk, 0, []⟩,
  ⟨0x2410, 0x241F, 0x01, 0x1A, 1104, .domain, .rw, .mclk, defaultArbImage, []⟩,
  ⟨0x2420, 0x242F, 0x01, 0x1A, 1104, .domain, .ro, .mclk, defaultArbImage, []⟩,
  ⟨0x2430, 0x243F, 0x01, 0x1A, 4, .plain, .rw, .eclk, 0, []⟩,
  ⟨0x2440, 0x244F, 0x01, 0x08, 4, .plain, .rw, .mclk, 0x00080000, []⟩,
  ⟨0x2450, 0x245F, 0x01, 0x08, 4, .plain, .rw, .eclk, 0x80000000, []⟩,
  ⟨0x2460, 0x246F, 0x01, 0x08, 8192, .domain, .rw, .mclk, 0, []⟩,
  ⟨0x2470, 0x247F, 0x01, 0x20, 4, .plain, .rw, .eclk, 0x00000002, []⟩,
  ⟨0x2480, 0x248F, 0x01, 0x20, 1, .plain, .ro, .eclk, 0, []⟩,
  ⟨0x2490, 0x249F, 0x01, 0x08, 8, .plain, .ro, .eclk, 0, []⟩,
  ⟨0x2500, 0x2500, 0x01, 0x01, 8, .plain, .rw, .tclk, 0, []⟩,
  ⟨0x2500, 0x2500, 0x02, 0x02, 4, .plain, .ro, .uclk, 0, []⟩,
  ⟨0x2510, 0x2510, 0x01, 0x52, 4176, .domain, .rw, .mclk, defaultArbImage, []⟩,
  ⟨0x2520, 0x2520, 0x01, 0x52, 4176, .domain, .ro, .mclk, defaultArbImage, []⟩,
  ⟨0x2530, 0x2530, 0x01, 0x52, 4, .plain, .rw, .uclk, 0, []⟩]

/-- Entries 0x2600 to 0x26FF. -/
def odRowsGuard : List OdRow := [
  ⟨0x2600, 0x2600, 0x01, 0x01, 65536, .domain, .ro, .mclk, 0, []⟩,
  ⟨0x2600, 0x2600, 0x02, 0x02, 1, .bool, .cfg, .mclk, 0, []⟩,
  ⟨0x2600, 0x2600, 0x03, 0x03, 1, .bool, .cfg, .mclk, 0, []⟩,
  ⟨0x2600, 0x2600, 0x04, 0x04, 4, .plain, .cfg, .mclk, 47500, []⟩,
  ⟨0x2600, 0x2600, 0x05, 0x05, 4, .plain, .ro, .mclk, 0, []⟩,
  ⟨0x2600, 0x2600, 0x06, 0x06, 4, .plain, .ro, .mclk, 0, []⟩,
  ⟨0x2600, 0x2600, 0x07, 0x07, 4, .plain, .ro, .eclk, 0, []⟩,
  ⟨0x2600, 0x2600, 0x08, 0x08, 4, .plain, .ro, .eclk, 0, []⟩,
  ⟨0x2600, 0x2600, 0x09, 0x09, 4, .plain, .ro, .eclk, 0, []⟩,
  ⟨0x2600, 0x2600, 0x0A, 0x0A, 4, .plain, .ro, .eclk, 0, []⟩,
  ⟨0x2600, 0x2600, 0x0B, 0x0B, 4, .plain, .ro, .eclk, 0, []⟩,
  ⟨0x2600, 0x2600, 0x0C, 0x0C, 4, .plain, .seqclr, .mclk, 0, []⟩,
  ⟨0x2600, 0x2600, 0x0D, 0x0D, 4, .plain, .ro, .mclk, 0, []⟩,
  ⟨0x2610, 0x2611, 0x01, 0x80, 4, .plain, .ro, .mclk, 0, []⟩,
  ⟨0x2612, 0x2613, 0x01, 0x80, 8, .plain, .ro, .eclk, 0, []⟩,
  ⟨0x2614, 0x2615, 0x01, 0x80, 32, .plain, .ro, .mclk, 0, []⟩]

/-- Entries 0x3000 to 0x3FFF. -/
def odRowsMem : List OdRow := [
  ⟨0x3000, 0x3000, 0x01, 0x01, 1, .plain, .ro, .mclk, 0xFF, []⟩,
  ⟨0x3000, 0x3000, 0x02, 0x02, 1, .plain, .cfg, .mclk, 10, [(8, 10)]⟩,
  ⟨0x3000, 0x3000, 0x03, 0x03, 8, .plain, .ro, .mclk, 2 ^ 40, []⟩,
  ⟨0x3000, 0x3000, 0x04, 0x04, 4, .plain, .ro, .mclk, 0, []⟩,
  ⟨0x3000, 0x3000, 0x05, 0x05, 1, .plain, .ro, .uclk, 0, []⟩,
  ⟨0x3010, 0x3017, 0x01, 0x20, 4, .plain, .ro, .uclk, 0, []⟩,
  ⟨0x3020, 0x3027, 0x01, 0x20, 4, .plain, .ro, .uclk, 0, []⟩,
  ⟨0x3030, 0x3037, 0x01, 0x20, 2, .plain, .ro, .uclk, 0, []⟩,
  ⟨0x3100, 0x3100, 0x01, 0x01, 2, .plain, .ro, .mclk, 0xFFFF, []⟩,
  ⟨0x3100, 0x3100, 0x02, 0x02, 2, .plain, .cfg, .mclk, 8800, [(4800, 4800), (5600, 5600), (6400, 6400), (8000, 8000), (8800, 8800)]⟩,
  ⟨0x3100, 0x3100, 0x03, 0x03, 8, .plain, .ro, .mclk, 2 ^ 42, []⟩,
  ⟨0x3100, 0x3100, 0x04, 0x04, 1, .plain, .ro, .mclk, 0, []⟩,
  ⟨0x3101, 0x3101, 0x01, 0x10, 4, .plain, .ro, .mclk, defaultDimm, []⟩,
  ⟨0x3102, 0x3102, 0x01, 0x10, 4, .plain, .ro, .uclk, 0, []⟩,
  ⟨0x3103, 0x3103, 0x01, 0x10, 4, .plain, .ro, .uclk, 0, []⟩,
  ⟨0x3104, 0x3104, 0x01, 0x10, 2, .plain, .ro, .uclk, 0, []⟩,
  ⟨0x3200, 0x3200, 0x01, 0x01, 2, .plain, .cfg, .mclk, 256, []⟩,
  ⟨0x3200, 0x3200, 0x02, 0x02, 4, .plain, .cfg, .mclk, 2850000000, []⟩,
  ⟨0x3200, 0x3200, 0x03, 0x03, 2, .plain, .cfg, .mclk, 256, []⟩,
  ⟨0x3200, 0x3200, 0x04, 0x04, 4, .plain, .cfg, .mclk, 2850000000, []⟩,
  ⟨0x3200, 0x3200, 0x05, 0x05, 2, .plain, .cfg, .mclk, 24, [(1, 8760)]⟩,
  ⟨0x3200, 0x3200, 0x06, 0x06, 2, .plain, .cfg, .mclk, 72, [(1, 8760)]⟩,
  ⟨0x3200, 0x3200, 0x07, 0x07, 4, .plain, .ro, .mclk, 4892349, []⟩,
  ⟨0x3200, 0x3200, 0x08, 0x08, 4, .plain, .ro, .mclk, 229328, []⟩,
  ⟨0x3200, 0x3200, 0x09, 0x09, 4, .plain, .ro, .uclk, 0, []⟩,
  ⟨0x3200, 0x3200, 0x0A, 0x0A, 8, .plain, .cfg, .mclk, 41040000000000, []⟩,
  ⟨0x3200, 0x3200, 0x0B, 0x0B, 16384, .domain, .ro, .mclk, 0, []⟩,
  ⟨0x3200, 0x3200, 0x0C, 0x0C, 8, .plain, .wo, .mclk, 0, []⟩,
  ⟨0x3200, 0x3200, 0x0D, 0x0D, 1, .plain, .ro, .mclk, 0, []⟩,
  ⟨0x3200, 0x3200, 0x0E, 0x0E, 4, .plain, .rw, .mclk, 0, []⟩,
  ⟨0x3200, 0x3200, 0x0F, 0x0F, 4, .plain, .ro, .mclk, 0, []⟩,
  ⟨0x3200, 0x3200, 0x10, 0x10, 8, .plain, .ro, .uclk, 0, []⟩,
  ⟨0x3200, 0x3200, 0x11, 0x11, 4, .plain, .ro, .uclk, 0, []⟩,
  ⟨0x3200, 0x3200, 0x12, 0x12, 4, .plain, .seqclr, .mclk, 0, []⟩,
  ⟨0x3200, 0x3200, 0x13, 0x13, 4, .plain, .ro, .mclk, 0, []⟩]

/-- Entries 0x4000 to 0x4FFF, part 1. -/
def odRowsFabric1 : List OdRow := [
  ⟨0x4000, 0x4000, 0x01, 0x01, 2, .plain, .cfg, .mclk, 0, []⟩,
  ⟨0x4000, 0x4000, 0x02, 0x02, 8, .plain, .cfg, .mclk, 0, []⟩,
  ⟨0x4000, 0x4000, 0x03, 0x03, 4, .plain, .rw, .mclk, 0, []⟩,
  ⟨0x4000, 0x4000, 0x04, 0x04, 16, .plain, .rw, .uclk, 0, []⟩,
  ⟨0x4000, 0x4000, 0x05, 0x05, 1, .plain, .ro, .mclk, 0, []⟩,
  ⟨0x4000, 0x4000, 0x06, 0x06, 2, .plain, .ro, .uclk, 0, []⟩,
  ⟨0x4000, 0x4000, 0x07, 0x07, 4, .plain, .ro, .uclk, 0, []⟩,
  ⟨0x4000, 0x4000, 0x08, 0x08, 4, .plain, .ro, .uclk, 0, []⟩,
  ⟨0x4000, 0x4000, 0x09, 0x09, 4, .plain, .ro, .uclk, 0, []⟩,
  ⟨0x4000, 0x4000, 0x0A, 0x0A, 4, .plain, .ro, .uclk, 0, []⟩,
  ⟨0x4000, 0x4000, 0x0B, 0x0B, 4, .plain, .ro, .uclk, 0, []⟩,
  ⟨0x4000, 0x4000, 0x0C, 0x0C, 4, .plain, .ro, .uclk, 0, []⟩,
  ⟨0x4000, 0x4000, 0x0D, 0x0D, 4, .plain, .ro, .uclk, 0, []⟩,
  ⟨0x4000, 0x4000, 0x0E, 0x0E, 1, .plain, .cfg, .mclk, 0xFF, []⟩,
  ⟨0x4000, 0x4000, 0x0F, 0x0F, 4, .plain, .seqclr, .mclk, 0, []⟩,
  ⟨0x4000, 0x4000, 0x10, 0x10, 4, .plain, .ro, .mclk, 0, []⟩,
  ⟨0x4010, 0x401F, 0x01, 0x01, 4, .plain, .cfg, .mclk, 0x40000000, []⟩,
  ⟨0x4010, 0x401F, 0x02, 0x02, 1, .plain, .ro, .uclk, 0, []⟩,
  ⟨0x4010, 0x401F, 0x03, 0x03, 2, .plain, .ro, .uclk, 0, []⟩,
  ⟨0x4010, 0x401F, 0x04, 0x04, 1, .bool, .ro, .uclk, 0, []⟩,
  ⟨0x4010, 0x401F, 0x05, 0x05, 16, .domain, .cfg, .mclk, defaultCredits, []⟩,
  ⟨0x4010, 0x401F, 0x06, 0x06, 8, .plain, .ro, .uclk, 0, []⟩,
  ⟨0x4010, 0x401F, 0x07, 0x07, 4, .plain, .ro, .uclk, 0, []⟩,
  ⟨0x4010, 0x401F, 0x08, 0x08, 4, .plain, .ro, .uclk, 0, []⟩,
  ⟨0x4010, 0x401F, 0x09, 0x09, 1, .plain, .cfg, .mclk, 8, []⟩,
  ⟨0x4010, 0x401F, 0x0A, 0x0A, 4, .plain, .ro, .uclk, 0, []⟩,
  ⟨0x4010, 0x401F, 0x0B, 0x0B, 4, .plain, .ro, .uclk, 0, []⟩,
  ⟨0x4010, 0x401F, 0x0C, 0x0C, 4, .plain, .ro, .uclk, 0, []⟩,
  ⟨0x4010, 0x401F, 0x0D, 0x0D, 16384, .domain, .rw, .mclk, 0, []⟩,
  ⟨0x4010, 0x401F, 0x0E, 0x0E, 16384, .domain, .ro, .mclk, 0, []⟩,
  ⟨0x4010, 0x401F, 0x0F, 0x0F, 8, .plain, .rw, .tclk, 0, []⟩,
  ⟨0x4010, 0x401F, 0x10, 0x10, 4, .plain, .ro, .tclk, 0, []⟩,
  ⟨0x4010, 0x401F, 0x11, 0x11, 4, .plain, .rw, .mclk, 0, []⟩,
  ⟨0x4010, 0x401F, 0x12, 0x12, 4, .plain, .ro, .mclk, 0, []⟩,
  ⟨0x4010, 0x401F, 0x13, 0x13, 8, .plain, .ro, .uclk, 0, []⟩,
  ⟨0x4010, 0x401F, 0x14, 0x14, 8, .plain, .ro, .uclk, 0, []⟩,
  ⟨0x4010, 0x401F, 0x15, 0x15, 4, .plain, .cfg, .mclk, 0, []⟩,
  ⟨0x4100, 0x410F, 0x00, 0xFF, 2, .plain, .cfg, .mclk, 0, []⟩,
  ⟨0x4110, 0x4113, 0x00, 0xFF, 4, .plain, .cfg, .mclk, 0, []⟩,
  ⟨0x4120, 0x4120, 0x01, 0x10, 1, .plain, .cfg, .mclk, 0xFF, []⟩]

/-- Entries 0x4000 to 0x4FFF, part 2. -/
def odRowsFabric2 : List OdRow := [
  ⟨0x4300, 0x4300, 0x01, 0x01, 1, .bool, .ro, .mclk, 0, []⟩,
  ⟨0x4300, 0x4300, 0x02, 0x02, 2, .plain, .ro, .mclk, 0, []⟩,
  ⟨0x4300, 0x4300, 0x03, 0x03, 1, .plain, .cfg, .mclk, 16, [(8, 8), (16, 16)]⟩,
  ⟨0x4300, 0x4300, 0x04, 0x04, 1, .plain, .cfg, .mclk, 64, [(16, 16), (32, 32), (64, 64)]⟩,
  ⟨0x4300, 0x4300, 0x05, 0x05, 2, .plain, .wo, .uclk, 0, []⟩,
  ⟨0x4300, 0x4300, 0x06, 0x06, 8, .plain, .ro, .uclk, 0, []⟩,
  ⟨0x4300, 0x4300, 0x07, 0x07, 8, .plain, .ro, .uclk, 0, []⟩,
  ⟨0x4300, 0x4300, 0x08, 0x08, 4, .plain, .ro, .uclk, 0, []⟩,
  ⟨0x4300, 0x4300, 0x09, 0x09, 4, .plain, .ro, .uclk, 0, []⟩,
  ⟨0x4300, 0x4300, 0x0A, 0x0A, 2, .plain, .ro, .mclk, 0, []⟩,
  ⟨0x4300, 0x4300, 0x0B, 0x0B, 4, .plain, .seqclr, .mclk, 0, []⟩,
  ⟨0x4300, 0x4300, 0x0C, 0x0C, 4, .plain, .ro, .mclk, 0, []⟩]

/-- Entries 0x4000 to 0x4FFF. -/
def odRowsFabric : List OdRow := odRowsFabric1 ++ odRowsFabric2

/-- Entries 0x5000 to 0x5FFF. -/
def odRowsCtx : List OdRow := [
  ⟨0x5000, 0x5000, 0x01, 0x01, 2, .plain, .ro, .mclk, 256, []⟩,
  ⟨0x5000, 0x5000, 0x02, 0x02, 8, .plain, .cfg, .mclk, 0, []⟩,
  ⟨0x5000, 0x5000, 0x03, 0x03, 4, .plain, .rw, .mclk, 0, []⟩,
  ⟨0x5000, 0x5000, 0x04, 0x04, 128, .plain, .rw, .uclk, 0, []⟩,
  ⟨0x5000, 0x5000, 0x05, 0x05, 1, .plain, .ro, .mclk, 0, []⟩,
  ⟨0x5000, 0x5000, 0x06, 0x06, 2, .plain, .ro, .uclk, 0, []⟩,
  ⟨0x5000, 0x5000, 0x07, 0x07, 4, .plain, .ro, .mclk, 16384, []⟩,
  ⟨0x5000, 0x5000, 0x08, 0x08, 4, .plain, .ro, .uclk, 0, []⟩,
  ⟨0x5000, 0x5000, 0x09, 0x09, 4, .plain, .ro, .uclk, 0, []⟩,
  ⟨0x5000, 0x5000, 0x0A, 0x0A, 8, .plain, .wo, .uclk, 0, []⟩,
  ⟨0x5000, 0x5000, 0x0B, 0x0B, 8, .plain, .ro, .uclk, 0, []⟩,
  ⟨0x5000, 0x5000, 0x0C, 0x0C, 4, .plain, .ro, .uclk, 0, []⟩,
  ⟨0x5000, 0x5000, 0x0D, 0x0D, 4, .plain, .ro, .uclk, 0, []⟩,
  ⟨0x5000, 0x5000, 0x0E, 0x0E, 4, .plain, .ro, .uclk, 0, []⟩,
  ⟨0x5000, 0x5000, 0x0F, 0x0F, 4, .plain, .ro, .uclk, 0, []⟩,
  ⟨0x5000, 0x5000, 0x10, 0x10, 4, .plain, .seqclr, .mclk, 0, []⟩,
  ⟨0x5000, 0x5000, 0x11, 0x11, 4, .plain, .ro, .mclk, 0, []⟩,
  ⟨0x5001, 0x5001, 0x01, 0x10, 2, .plain, .rw, .mclk, 0, []⟩,
  ⟨0x5002, 0x5002, 0x01, 0x10, 1, .plain, .ro, .mclk, 0, []⟩,
  ⟨0x5010, 0x5011, 0x01, 0x80, 4, .plain, .rw, .uclk, 0, []⟩,
  ⟨0x5012, 0x5013, 0x01, 0x80, 4, .plain, .ro, .uclk, 0, []⟩,
  ⟨0x5014, 0x5015, 0x01, 0x80, 32, .domain, .cfg, .mclk, 0, []⟩,
  ⟨0x5016, 0x5017, 0x01, 0x80, 8, .plain, .ro, .uclk, 0, []⟩,
  ⟨0x5100, 0x513F, 0x00, 0xFF, 32, .plain, .rw, .uclk, 4 * 2 ^ 217, []⟩,
  ⟨0x5210, 0x5211, 0x01, 0x80, 64, .domain, .rw, .mclk, 57000000000 * 2 ^ 64, []⟩,
  ⟨0x5212, 0x5213, 0x01, 0x80, 8, .plain, .ro, .uclk, 0, []⟩]

/-- Entries 0x6000 to 0x6FFF. -/
def odRowsBlot : List OdRow := [
  ⟨0x6000, 0x6000, 0x01, 0x01, 1048576, .domain, .ro, .mclk, 0, []⟩,
  ⟨0x6000, 0x6000, 0x02, 0x02, 4, .plain, .ro, .uclk, 0, []⟩,
  ⟨0x6000, 0x6000, 0x03, 0x03, 4, .plain, .ro, .uclk, 0, []⟩,
  ⟨0x6000, 0x6000, 0x04, 0x04, 4, .plain, .ro, .uclk, 0, []⟩,
  ⟨0x6000, 0x6000, 0x05, 0x05, 4, .plain, .cfg, .mclk, 4750000, []⟩,
  ⟨0x6000, 0x6000, 0x06, 0x06, 4, .plain, .cfg, .mclk, 47500000, []⟩,
  ⟨0x6000, 0x6000, 0x07, 0x07, 4, .plain, .cfg, .mclk, 475000000, []⟩,
  ⟨0x6000, 0x6000, 0x08, 0x08, 8, .plain, .cfg, .mclk, 41040000000000, []⟩,
  ⟨0x6000, 0x6000, 0x09, 0x09, 4, .plain, .ro, .uclk, 0, []⟩,
  ⟨0x6000, 0x6000, 0x0A, 0x0A, 1, .plain, .ro, .uclk, 0, []⟩,
  ⟨0x6000, 0x6000, 0x0B, 0x0B, 1, .plain, .ro, .mclk, 0, []⟩,
  ⟨0x6000, 0x6000, 0x0C, 0x0C, 2, .plain, .wo, .mclk, 0, []⟩,
  ⟨0x6000, 0x6000, 0x0D, 0x0D, 2, .plain, .wo, .mclk, 0, []⟩,
  ⟨0x6000, 0x6000, 0x0E, 0x0E, 1, .plain, .ro, .mclk, 0, []⟩,
  ⟨0x6000, 0x6000, 0x0F, 0x0F, 512, .domain, .ro, .mclk, 0, []⟩,
  ⟨0x6000, 0x6000, 0x10, 0x10, 8, .plain, .cfg, .mclk, 6840000000000, []⟩,
  ⟨0x6000, 0x6000, 0x11, 0x11, 8, .plain, .cfg, .mclk, 855000000000, []⟩,
  ⟨0x6000, 0x6000, 0x12, 0x12, 4, .plain, .ro, .mclk, 950000, []⟩,
  ⟨0x6000, 0x6000, 0x13, 0x13, 4, .plain, .cfg, .mclk, 47500, []⟩,
  ⟨0x6000, 0x6000, 0x14, 0x14, 2, .plain, .wo, .mclk, 0, []⟩,
  ⟨0x6000, 0x6000, 0x15, 0x15, 4, .plain, .ro, .uclk, 0, []⟩,
  ⟨0x6000, 0x6000, 0x16, 0x16, 1, .plain, .ro, .mclk, 0, []⟩,
  ⟨0x6000, 0x6000, 0x17, 0x17, 1, .plain, .cfg, .mclk, 2, []⟩,
  ⟨0x6000, 0x6000, 0x18, 0x18, 8, .plain, .cfg, .mclk, 1231200000000000, []⟩,
  ⟨0x6000, 0x6000, 0x19, 0x19, 4, .plain, .seqclr, .mclk, 0, []⟩,
  ⟨0x6000, 0x6000, 0x1A, 0x1A, 4, .plain, .ro, .mclk, 0, []⟩,
  ⟨0x6010, 0x6010, 0x01, 0x10, 8, .plain, .ro, .mclk, 0, []⟩,
  ⟨0x6011, 0x6011, 0x01, 0x10, 8, .plain, .ro, .mclk, 0, []⟩,
  ⟨0x6020, 0x6021, 0x01, 0x80, 16, .plain, .cfg, .mclk, 0, []⟩,
  ⟨0x6022, 0x6023, 0x01, 0x80, 8, .plain, .ro, .uclk, 0, []⟩]

/-- Entries 0x7000 to 0x7FFF. -/
def odRowsNose : List OdRow := [
  ⟨0x7000, 0x7000, 0x01, 0x01, 2, .plain, .ro, .mclk, 4096, []⟩,
  ⟨0x7000, 0x7000, 0x02, 0x02, 2, .plain, .cfg, .mclk, 64, []⟩,
  ⟨0x7000, 0x7000, 0x03, 0x03, 2, .plain, .cfg, .mclk, 32768, []⟩,
  ⟨0x7000, 0x7000, 0x04, 0x04, 4, .plain, .cfg, .mclk, 1, []⟩,
  ⟨0x7000, 0x7000, 0x05, 0x05, 4, .f32, .cfg, .mclk, 0x40800000, []⟩,
  ⟨0x7000, 0x7000, 0x06, 0x06, 4, .f32, .cfg, .mclk, 0x3D000000, []⟩,
  ⟨0x7000, 0x7000, 0x07, 0x07, 2, .plain, .cfg, .mclk, 32, []⟩,
  ⟨0x7000, 0x7000, 0x08, 0x08, 131072, .domain, .ro, .mclk, 0, []⟩,
  ⟨0x7000, 0x7000, 0x09, 0x09, 4, .plain, .ro, .uclk, 0, []⟩,
  ⟨0x7000, 0x7000, 0x0A, 0x0A, 4, .plain, .ro, .uclk, 0, []⟩,
  ⟨0x7000, 0x7000, 0x0B, 0x0B, 8, .plain, .ro, .uclk, 0, []⟩,
  ⟨0x7000, 0x7000, 0x0C, 0x0C, 8, .plain, .ro, .uclk, 0, []⟩,
  ⟨0x7000, 0x7000, 0x0D, 0x0D, 4, .plain, .ro, .uclk, 0, []⟩,
  ⟨0x7000, 0x7000, 0x0E, 0x0E, 4, .plain, .ro, .uclk, 0, []⟩,
  ⟨0x7000, 0x7000, 0x0F, 0x0F, 4, .plain, .seqclr, .mclk, 0, []⟩,
  ⟨0x7000, 0x7000, 0x10, 0x10, 4, .plain, .ro, .mclk, 0, []⟩,
  ⟨0x7100, 0x711F, 0x01, 0x80, 8, .plain, .rw, .mclk, 0, []⟩,
  ⟨0x7120, 0x713F, 0x01, 0x80, 128, .domain, .ro, .uclk, 0, []⟩]

/-- Entries 0x8000 to 0x8FFF. -/
def odRowsSil : List OdRow := [
  ⟨0x8000, 0x8000, 0x01, 0x01, 4, .plain, .cfg, .mclk, 23750, []⟩,
  ⟨0x8000, 0x8000, 0x02, 0x02, 4, .plain, .cfg, .mclk, 475000, []⟩,
  ⟨0x8000, 0x8000, 0x03, 0x03, 1, .plain, .cfg, .mclk, 2, []⟩,
  ⟨0x8000, 0x8000, 0x04, 0x04, 1, .plain, .cfg, .mclk, 2, []⟩,
  ⟨0x8000, 0x8000, 0x05, 0x05, 1, .plain, .cfg, .mclk, 6, [(0, 16), (255, 255)]⟩,
  ⟨0x8000, 0x8000, 0x06, 0x06, 16, .plain, .cfg, .mclk, 0, []⟩,
  ⟨0x8000, 0x8000, 0x07, 0x07, 4, .plain, .wo, .mclk, 0, []⟩,
  ⟨0x8000, 0x8000, 0x08, 0x08, 32, .plain, .wo, .mclk, 0, []⟩,
  ⟨0x8000, 0x8000, 0x09, 0x09, 4, .plain, .ro, .uclk, 0, []⟩,
  ⟨0x8000, 0x8000, 0x0A, 0x0A, 4, .plain, .ro, .uclk, 0, []⟩,
  ⟨0x8000, 0x8000, 0x0B, 0x0B, 4, .plain, .ro, .uclk, 0, []⟩,
  ⟨0x8000, 0x8000, 0x0C, 0x0C, 4, .plain, .ro, .uclk, 0, []⟩,
  ⟨0x8000, 0x8000, 0x0D, 0x0D, 4, .plain, .ro, .uclk, 0, []⟩,
  ⟨0x8000, 0x8000, 0x0E, 0x0E, 4, .plain, .ro, .uclk, 0, []⟩,
  ⟨0x8000, 0x8000, 0x0F, 0x0F, 4, .plain, .ro, .uclk, 0, []⟩,
  ⟨0x8000, 0x8000, 0x10, 0x10, 1310720, .domain, .ro, .mclk, 0, []⟩,
  ⟨0x8000, 0x8000, 0x11, 0x11, 4, .plain, .ro, .uclk, 0, []⟩,
  ⟨0x8000, 0x8000, 0x12, 0x12, 32, .plain, .ro, .uclk, 0, []⟩,
  ⟨0x8000, 0x8000, 0x13, 0x13, 32, .plain, .wo, .mclk, 0, []⟩,
  ⟨0x8000, 0x8000, 0x14, 0x14, 32, .plain, .ro, .uclk, 0, []⟩,
  ⟨0x8000, 0x8000, 0x15, 0x15, 1, .plain, .ro, .uclk, 0, []⟩,
  ⟨0x8000, 0x8000, 0x16, 0x16, 4, .plain, .seqclr, .mclk, 0, []⟩,
  ⟨0x8000, 0x8000, 0x17, 0x17, 4, .plain, .ro, .mclk, 0, []⟩,
  ⟨0x8010, 0x8011, 0x01, 0x80, 48, .domain, .cfg, .mclk, 0, []⟩,
  ⟨0x8012, 0x8013, 0x01, 0x80, 16, .domain, .cfg, .mclk, 0, []⟩,
  ⟨0x8014, 0x8015, 0x01, 0x80, 16, .plain, .ro, .uclk, 0, []⟩,
  ⟨0x8016, 0x8017, 0x01, 0x80, 4, .plain, .ro, .uclk, 0, []⟩]

/-- Entries 0x9000 to 0x9FFF. -/
def odRowsFw : List OdRow := [
  ⟨0x9000, 0x9000, 0x01, 0x01, 4, .plain, .ro, .mclk, 0, []⟩,
  ⟨0x9000, 0x9000, 0x02, 0x02, 1, .plain, .ro, .mclk, 0, []⟩,
  ⟨0x9000, 0x9000, 0x03, 0x03, 48, .plain, .ro, .mclk, 0, []⟩,
  ⟨0x9000, 0x9000, 0x04, 0x04, 1, .plain, .ro, .mclk, 0, []⟩,
  ⟨0x9000, 0x9000, 0x05, 0x05, 4, .plain, .ro, .mclk, 0, []⟩,
  ⟨0x9000, 0x9000, 0x06, 0x06, 1, .plain, .ro, .mclk, 0, []⟩,
  ⟨0x9000, 0x9000, 0x07, 0x07, 4, .plain, .cfg, .mclk, 57000000000, []⟩,
  ⟨0x9000, 0x9000, 0x08, 0x08, 4, .plain, .cfg, .mclk, 4750000000, []⟩,
  ⟨0x9000, 0x9000, 0x09, 0x09, 4, .plain, .cfg, .mclk, 47500000, []⟩,
  ⟨0x9000, 0x9000, 0x0A, 0x0A, 1, .plain, .cfg, .mclk, 1, []⟩,
  ⟨0x9000, 0x9000, 0x0B, 0x0B, 2, .plain, .cfg, .mclk, 0x0000, []⟩,
  ⟨0x9000, 0x9000, 0x0C, 0x0C, 524288, .domain, .ro, .mclk, 0, []⟩,
  ⟨0x9000, 0x9000, 0x0D, 0x0D, 4, .plain, .ro, .uclk, 0, []⟩,
  ⟨0x9000, 0x9000, 0x0E, 0x0E, 4, .plain, .ro, .uclk, 0, []⟩,
  ⟨0x9000, 0x9000, 0x0F, 0x0F, 4, .plain, .ro, .uclk, 0, []⟩,
  ⟨0x9000, 0x9000, 0x10, 0x10, 4, .plain, .ro, .uclk, 0, []⟩,
  ⟨0x9000, 0x9000, 0x11, 0x11, 1, .plain, .ro, .mclk, 0, []⟩,
  ⟨0x9000, 0x9000, 0x12, 0x12, 4, .plain, .seqclr, .mclk, 0, []⟩,
  ⟨0x9000, 0x9000, 0x13, 0x13, 4, .plain, .ro, .mclk, 0, []⟩,
  ⟨0x9010, 0x9010, 0x01, 0x08, 8, .plain, .rw, .uclk, 0, []⟩,
  ⟨0x9011, 0x9011, 0x01, 0x40, 4, .plain, .ro, .uclk, 0, []⟩]

/-- Entries 0xA000 to 0xAFFF. -/
def odRowsSec : List OdRow := [
  ⟨0xA000, 0xA000, 0x01, 0x01, 388, .domain, .ro, .mclk, 0, []⟩,
  ⟨0xA000, 0xA000, 0x02, 0x02, 48, .plain, .ro, .mclk, 0, []⟩,
  ⟨0xA000, 0xA000, 0x03, 0x03, 65536, .domain, .ro, .mclk, 0, []⟩,
  ⟨0xA000, 0xA000, 0x04, 0x04, 32, .plain, .ro, .mclk, 0, []⟩,
  ⟨0xA000, 0xA000, 0x05, 0x05, 16, .plain, .ro, .mclk, 0, []⟩,
  ⟨0xA000, 0xA000, 0x06, 0x06, 3584, .domain, .ro, .mclk, 0, []⟩,
  ⟨0xA000, 0xA000, 0x07, 0x07, 17072, .domain, .wo, .mclk, 0, []⟩,
  ⟨0xA000, 0xA000, 0x08, 0x08, 1, .plain, .ro, .mclk, 0, []⟩,
  ⟨0xA000, 0xA000, 0x09, 0x09, 32, .plain, .wo, .mclk, 0, []⟩,
  ⟨0xA000, 0xA000, 0x0A, 0x0A, 16864, .domain, .ro, .mclk, 0, []⟩,
  ⟨0xA000, 0xA000, 0x0B, 0x0B, 1, .plain, .ro, .mclk, 0, []⟩,
  ⟨0xA000, 0xA000, 0x0C, 0x0C, 4, .plain, .ro, .mclk, 0, []⟩,
  ⟨0xA000, 0xA000, 0x0D, 0x0D, 4, .plain, .seqclr, .mclk, 0, []⟩,
  ⟨0xA000, 0xA000, 0x0E, 0x0E, 4, .plain, .ro, .mclk, 0, []⟩,
  ⟨0xA100, 0xA100, 0x01, 0x01, 1, .plain, .ro, .mclk, 16, []⟩,
  ⟨0xA100, 0xA100, 0x02, 0x02, 4, .plain, .wo, .mclk, 0, []⟩,
  ⟨0xA100, 0xA100, 0x03, 0x03, 2, .plain, .ro, .mclk, 0, []⟩,
  ⟨0xA100, 0xA100, 0x04, 0x04, 2, .plain, .cfg, .mclk, 128, [(1, 65535)]⟩,
  ⟨0xA100, 0xA100, 0x05, 0x05, 4, .plain, .cfg, .mclk, 475000000, []⟩,
  ⟨0xA100, 0xA100, 0x06, 0x06, 4, .plain, .ro, .uclk, 0, []⟩,
  ⟨0xA100, 0xA100, 0x07, 0x07, 4, .plain, .ro, .uclk, 0, []⟩,
  ⟨0xA100, 0xA100, 0x08, 0x08, 4, .plain, .ro, .uclk, 0, []⟩,
  ⟨0xA100, 0xA100, 0x09, 0x09, 4, .plain, .seqclr, .mclk, 0, []⟩,
  ⟨0xA100, 0xA100, 0x0A, 0x0A, 4, .plain, .ro, .mclk, 0, []⟩,
  ⟨0xA101, 0xA101, 0x01, 0x10, 48, .domain, .cfg, .mclk, 0, []⟩,
  ⟨0xA102, 0xA102, 0x01, 0x10, 48, .plain, .ro, .uclk, 0, []⟩,
  ⟨0xA103, 0xA103, 0x01, 0x10, 4096, .domain, .ro, .uclk, 0, []⟩,
  ⟨0xA110, 0xA111, 0x01, 0x80, 32, .plain, .ro, .uclk, 0, []⟩,
  ⟨0xA112, 0xA113, 0x01, 0x80, 32, .plain, .rw, .uclk, 0, []⟩,
  ⟨0xA114, 0xA115, 0x01, 0x80, 4, .plain, .ro, .uclk, 0, []⟩,
  ⟨0xA116, 0xA117, 0x01, 0x80, 8, .plain, .cfg, .mclk, 0, []⟩]

/-- The rows of the area that holds an index (Table 16-8). -/
def odArea (index : Nat) : List OdRow :=
  if index ≤ 0x10FF then odRowsIdentity else
  if index ≤ 0x11FF then odRowsTime else
  if index ≤ 0x12FF then odRowsPins else
  if index ≤ 0x1FFF then odRowsDict else
  if index ≤ 0x21FF then odRowsMe else
  if index ≤ 0x22FF then odRowsVe else
  if index ≤ 0x23FF then odRowsPc else
  if index ≤ 0x25FF then odRowsTop else
  if index ≤ 0x26FF then odRowsGuard else
  if index ≤ 0x3FFF then odRowsMem else
  if index ≤ 0x4FFF then odRowsFabric else
  if index ≤ 0x5FFF then odRowsCtx else
  if index ≤ 0x6FFF then odRowsBlot else
  if index ≤ 0x7FFF then odRowsNose else
  if index ≤ 0x8FFF then odRowsSil else
  if index ≤ 0x9FFF then odRowsFw else
  if index ≤ 0xAFFF then odRowsSec else
  []

/-- The row that lists an entry. -/
def odFind (index sub : Nat) : Option OdRow :=
  (odArea index).find? fun r => r.i0 ≤ index && index ≤ r.i1 && r.s0 ≤ sub && sub ≤ r.s1

/-- The operating range of rail `r` in mV (Table 17-8): upper limit in [31:16], lower in [15:0]. -/
def railRange (r : Nat) : Nat :=
  let p := [(773, 727), (773, 727), (824, 776), (824, 776), (773, 727), (824, 776), (927, 873), (1890, 1710),
    (1133, 1067), (773, 727), (1236, 1164), (773, 727), (1082, 1018), (1890, 1710)].getD r (0, 0)
  p.1 * 2 ^ 16 + p.2

/-- The default of an entry: its table's, and for ACCORD_PHYS and RAIL_RANGE the value of the unit. -/
def odDefault (k : Nat) : Nat :=
  if 0x100101 ≤ k ∧ k ≤ 0x100110 then (k - 0x100101) / 8 * 128 + (k - 0x100101) % 8
  else if 0x120030 ≤ k ∧ k ≤ 0x12003D then railRange (k - 0x120030)
  else match odFind (k / 256) (k % 256) with
    | some r => r.dflt
    | none => 0

/-! ### Keys -/
/-- ME_COUNT, OD 0x2100.01. -/
def kMeCount : Nat := 0x210001
/-- ME_PRESENT, OD 0x2100.02. -/
def kMePresent : Nat := 0x210002
/-- ME_FENCED, OD 0x2100.03. -/
def kMeFenced : Nat := 0x210003
/-- ACC_READ_LAT, OD 0x2100.04. -/
def kAccReadLat : Nat := 0x210004
/-- RESCALE_EVENTS, OD 0x2100.05. -/
def kRescaleEvents : Nat := 0x210005
/-- DOUBLE_BOOKINGS, OD 0x2100.06. -/
def kMeDoubleBookings : Nat := 0x210006
/-- STORE_CE_COUNT, OD 0x2100.07. -/
def kStoreCeCount : Nat := 0x210007
/-- STORE_CE_THRESHOLD, OD 0x2100.08. -/
def kStoreCeThreshold : Nat := 0x210008
/-- STORE_CE_WINDOW, OD 0x2100.09. -/
def kStoreCeWindow : Nat := 0x210009
/-- ERR_STATUS, OD 0x2100.0A. -/
def kMeErrStatus : Nat := 0x21000A
/-- ERR_SEQ, OD 0x2100.0B. -/
def kMeErrSeq : Nat := 0x21000B
/-- BUSY_EC, OD 0x2101.01 to .40. -/
def kMeBusyEc (n : Nat) : Nat := 0x210101 + n
/-- NONFINITE_OUT, OD 0x2102.01 to .40. -/
def kMeNonfiniteOut (n : Nat) : Nat := 0x210201 + n
/-- ENGINE_STATE, OD 0x2103.01 to .40. -/
def kMeEngineState (n : Nat) : Nat := 0x210301 + n
/-- STORE_CE, OD 0x2104.01 to .40. -/
def kStoreCe (n : Nat) : Nat := 0x210401 + n
/-- VE_COUNT, OD 0x2200.01. -/
def kVeCount : Nat := 0x220001
/-- VE_PRESENT, OD 0x2200.02. -/
def kVePresent : Nat := 0x220002
/-- VE_FENCED, OD 0x2200.03. -/
def kVeFenced : Nat := 0x220003
/-- REG_CE_COUNT, OD 0x2200.04. -/
def kRegCeCount : Nat := 0x220004
/-- REG_CE_THRESHOLD, OD 0x2200.05. -/
def kRegCeThreshold : Nat := 0x220005
/-- REG_CE_WINDOW, OD 0x2200.06. -/
def kRegCeWindow : Nat := 0x220006
/-- NOT_READY, OD 0x2200.07. -/
def kNotReady : Nat := 0x220007
/-- DOUBLE_BOOKINGS, OD 0x2200.08. -/
def kVeDoubleBookings : Nat := 0x220008
/-- ENTROPY_READS, OD 0x2200.09. -/
def kEntropyReads : Nat := 0x220009
/-- ERR_STATUS, OD 0x2200.0A. -/
def kVeErrStatus : Nat := 0x22000A
/-- ERR_SEQ, OD 0x2200.0B. -/
def kVeErrSeq : Nat := 0x22000B
/-- BUSY_EC, OD 0x2201.01 to .10. -/
def kVeBusyEc (n : Nat) : Nat := 0x220101 + n
/-- NONFINITE_OUT, OD 0x2202.01 to .10. -/
def kVeNonfiniteOut (n : Nat) : Nat := 0x220201 + n
/-- ENGINE_STATE, OD 0x2203.01 to .10. -/
def kVeEngineState (n : Nat) : Nat := 0x220301 + n
/-- PC_COUNT, OD 0x2300.01. -/
def kPcCount : Nat := 0x230001
/-- PC_PRESENT, OD 0x2300.02. -/
def kPcPresent : Nat := 0x230002
/-- PC_FENCED, OD 0x2300.03. -/
def kPcFenced : Nat := 0x230003
/-- MISA, OD 0x2300.04. -/
def kMisa : Nat := 0x230004
/-- VLEN, OD 0x2300.05. -/
def kVlen : Nat := 0x230005
/-- TASKS_DISPATCHED, OD 0x2300.06. -/
def kTasksDispatched : Nat := 0x230006
/-- TASK_OVERRUNS, OD 0x2300.07. -/
def kTaskOverruns : Nat := 0x230007
/-- QUEUE_FULL, OD 0x2300.08. -/
def kQueueFull : Nat := 0x230008
/-- MAX_DISPATCH_WAIT, OD 0x2300.09. -/
def kMaxDispatchWait : Nat := 0x230009
/-- CACHE_PARITY_COUNT, OD 0x2300.0A. -/
def kCacheParityCount : Nat := 0x23000A
/-- ERR_STATUS, OD 0x2300.0B. -/
def kPcErrStatus : Nat := 0x23000B
/-- ERR_SEQ, OD 0x2300.0C. -/
def kPcErrSeq : Nat := 0x23000C
/-- BUSY_EC, OD 0x2301.01 to .40. -/
def kPcBusyEc (n : Nat) : Nat := 0x230101 + n
/-- TASKS_RUN, OD 0x2302.01 to .40. -/
def kTasksRun (n : Nat) : Nat := 0x230201 + n
/-- CORE_STATE, OD 0x2303.01 to .40. -/
def kCoreState (n : Nat) : Nat := 0x230301 + n
/-- CHIP_MANIFEST, OD 0x2600.01. -/
def kChipManifest : Nat := 0x260001
/-- TOLERANT_ALLOW, OD 0x2600.02. -/
def kTolerantAllow : Nat := 0x260002
/-- OWN_TAGS, OD 0x2600.03. -/
def kOwnTags : Nat := 0x260003
/-- LATE_LIMIT, OD 0x2600.04. -/
def kLateLimit : Nat := 0x260004
/-- LOAD_REFUSALS, OD 0x2600.05. -/
def kLoadRefusals : Nat := 0x260005
/-- LAST_REFUSAL, OD 0x2600.06. -/
def kLastRefusal : Nat := 0x260006
/-- PROG_FAULTS, OD 0x2600.07. -/
def kProgFaults : Nat := 0x260007
/-- LATE_OPERAND_EVENTS, OD 0x2600.08. -/
def kLateOperandEvents : Nat := 0x260008
/-- LATE_OPERAND_MAX, OD 0x2600.09. -/
def kLateOperandMax : Nat := 0x260009
/-- STAMP_MISMATCHES, OD 0x2600.0A. -/
def kStampMismatches : Nat := 0x26000A
/-- TAG_MISMATCHES, OD 0x2600.0B. -/
def kTagMismatches : Nat := 0x26000B
/-- ERR_STATUS, OD 0x2600.0C. -/
def kGuardErrStatus : Nat := 0x26000C
/-- ERR_SEQ, OD 0x2600.0D. -/
def kGuardErrSeq : Nat := 0x26000D
/-- CTX_MODE, OD 0x2610.01 to 0x2611.80. -/
def kCtxMode (c : Nat) : Nat := ctxKey 0x2610 c
/-- CTX_FREEZE_EC, OD 0x2612.01 to 0x2613.80. -/
def kCtxFreezeEc (c : Nat) : Nat := ctxKey 0x2612 c
/-- CTX_BINARY, OD 0x2614.01 to 0x2615.80. -/
def kCtxBinary (c : Nat) : Nat := ctxKey 0x2614 c
/-- ACC_ARB_COUNT, OD 0x2400.01. -/
def kAccArbCount : Nat := 0x240001
/-- CHIP_ARB_COUNT, OD 0x2400.02. -/
def kChipArbCount : Nat := 0x240002
/-- SP_CE_COUNT, OD 0x2400.03. -/
def kSpCeCount : Nat := 0x240003
/-- SP_CE_THRESHOLD, OD 0x2400.04. -/
def kSpCeThreshold : Nat := 0x240004
/-- SP_CE_WINDOW, OD 0x2400.05. -/
def kSpCeWindow : Nat := 0x240005
/-- SCHED_DENIED, OD 0x2400.06. -/
def kSchedDenied : Nat := 0x240006
/-- SWAP_MISSED, OD 0x2400.07. -/
def kSwapMissed : Nat := 0x240007
/-- DMA_FAULTS, OD 0x2400.08. -/
def kDmaFaults : Nat := 0x240008
/-- DMA_DISABLES, OD 0x2400.09. -/
def kDmaDisables : Nat := 0x240009
/-- ERR_STATUS, OD 0x2400.0A. -/
def kTopErrStatus : Nat := 0x24000A
/-- ERR_SEQ, OD 0x2400.0B. -/
def kTopErrSeq : Nat := 0x24000B
/-- ARB_SHADOW, OD 0x2410 + a, .01 to .1A. -/
def kArbShadow (u n : Nat) : Nat := (0x2410 + u) * 256 + 0x01 + n
/-- ARB_ACTIVE, OD 0x2420 + a, .01 to .1A. -/
def kArbActive (u n : Nat) : Nat := (0x2420 + u) * 256 + 0x01 + n
/-- ARB_CTRL, OD 0x2430 + a, .01 to .1A. -/
def kArbCtrl (u n : Nat) : Nat := (0x2430 + u) * 256 + 0x01 + n
/-- DMA_CFG, OD 0x2440 + a, .01 to .08. -/
def kDmaCfg (u n : Nat) : Nat := (0x2440 + u) * 256 + 0x01 + n
/-- DMA_CTRL, OD 0x2450 + a, .01 to .08. -/
def kDmaCtrl (u n : Nat) : Nat := (0x2450 + u) * 256 + 0x01 + n
/-- DMA_PROGRAM, OD 0x2460 + a, .01 to .08. -/
def kDmaProgram (u n : Nat) : Nat := (0x2460 + u) * 256 + 0x01 + n
/-- TOKQ_CFG, OD 0x2470 + a, .01 to .20. -/
def kTokqCfg (u n : Nat) : Nat := (0x2470 + u) * 256 + 0x01 + n
/-- TOKQ_LEVEL, OD 0x2480 + a, .01 to .20. -/
def kTokqLevel (u n : Nat) : Nat := (0x2480 + u) * 256 + 0x01 + n
/-- DMA_BYTES, OD 0x2490 + a, .01 to .08. -/
def kDmaBytes (u n : Nat) : Nat := (0x2490 + u) * 256 + 0x01 + n
/-- SWAP_COUNT, OD 0x2500.01. -/
def kSwapCount : Nat := 0x250001
/-- CHIP_SWAPS, OD 0x2500.02. -/
def kChipSwaps : Nat := 0x250002
/-- CHIP_ARB_SHADOW, OD 0x2510.01 to .52. -/
def kChipArbShadow (n : Nat) : Nat := 0x251001 + n
/-- CHIP_ARB_ACTIVE, OD 0x2520.01 to .52. -/
def kChipArbActive (n : Nat) : Nat := 0x252001 + n
/-- CHIP_ARB_CTRL, OD 0x2530.01 to .52. -/
def kChipArbCtrl (n : Nat) : Nat := 0x253001 + n
/-- HEART_POSITIONS, OD 0x3000.01. -/
def kHeartPositions : Nat := 0x300001
/-- HEART_RATE, OD 0x3000.02. -/
def kHeartRate : Nat := 0x300002
/-- HEART_CAPACITY, OD 0x3000.03. -/
def kHeartCapacity : Nat := 0x300003
/-- HEART_FENCED_SLICES, OD 0x3000.04. -/
def kHeartFencedSlices : Nat := 0x300004
/-- HEART_HOT, OD 0x3000.05. -/
def kHeartHot : Nat := 0x300005
/-- HEART_CE, OD 0x3010 + s, .01 to .20. -/
def kHeartCe (u n : Nat) : Nat := (0x3010 + u) * 256 + 0x01 + n
/-- HEART_UCE, OD 0x3020 + s, .01 to .20. -/
def kHeartUce (u n : Nat) : Nat := (0x3020 + u) * 256 + 0x01 + n
/-- HEART_BUCKET, OD 0x3030 + s, .01 to .20. -/
def kHeartBucket (u n : Nat) : Nat := (0x3030 + u) * 256 + 0x01 + n
/-- BASE_CHANNELS, OD 0x3100.01. -/
def kBaseChannels : Nat := 0x310001
/-- BASE_RATE_MAX, OD 0x3100.02. -/
def kBaseRateMax : Nat := 0x310002
/-- BASE_CAPACITY, OD 0x3100.03. -/
def kBaseCapacity : Nat := 0x310003
/-- BASE_CONFIG_ERROR, OD 0x3100.04. -/
def kBaseConfigError : Nat := 0x310004
/-- BASE_DIMM, OD 0x3101.01 to .10. -/
def kBaseDimm (n : Nat) : Nat := 0x310101 + n
/-- BASE_CE, OD 0x3102.01 to .10. -/
def kBaseCe (n : Nat) : Nat := 0x310201 + n
/-- BASE_UCE, OD 0x3103.01 to .10. -/
def kBaseUce (n : Nat) : Nat := 0x310301 + n
/-- BASE_BUCKET, OD 0x3104.01 to .10. -/
def kBaseBucket (n : Nat) : Nat := 0x310401 + n
/-- HEART_BUCKET_THRESHOLD, OD 0x3200.01. -/
def kHeartBucketThreshold : Nat := 0x320001
/-- HEART_BUCKET_LEAK, OD 0x3200.02. -/
def kHeartBucketLeak : Nat := 0x320002
/-- BASE_BUCKET_THRESHOLD, OD 0x3200.03. -/
def kBaseBucketThreshold : Nat := 0x320003
/-- BASE_BUCKET_LEAK, OD 0x3200.04. -/
def kBaseBucketLeak : Nat := 0x320004
/-- HEART_SCRUB_PERIOD, OD 0x3200.05. -/
def kHeartScrubPeriod : Nat := 0x320005
/-- BASE_SCRUB_PERIOD, OD 0x3200.06. -/
def kBaseScrubPeriod : Nat := 0x320006
/-- HEART_SCRUB_INTERVAL, OD 0x3200.07. -/
def kHeartScrubInterval : Nat := 0x320007
/-- BASE_SCRUB_INTERVAL, OD 0x3200.08. -/
def kBaseScrubInterval : Nat := 0x320008
/-- SCRUB_LAG, OD 0x3200.09. -/
def kScrubLag : Nat := 0x320009
/-- UCE_RECUR_WINDOW, OD 0x3200.0A. -/
def kUceRecurWindow : Nat := 0x32000A
/-- FENCE_LIST, OD 0x3200.0B. -/
def kMemFenceList : Nat := 0x32000B
/-- VMAP_DISCARD, OD 0x3200.0C. -/
def kVmapDiscard : Nat := 0x32000C
/-- VMAP_DISCARD_STATUS, OD 0x3200.0D. -/
def kVmapDiscardStatus : Nat := 0x32000D
/-- LOOPBACK_CTRL, OD 0x3200.0E. -/
def kMemLoopbackCtrl : Nat := 0x32000E
/-- LOOPBACK_ERRORS, OD 0x3200.0F. -/
def kMemLoopbackErrors : Nat := 0x32000F
/-- LAST_CE, OD 0x3200.10. -/
def kLastCe : Nat := 0x320010
/-- VMAP_CACHE_MISSES, OD 0x3200.11. What it counts up to the manual leaves open with the cache's replacement (R155): the model's
never misses, and the entry reads 0 (DESIGN CHOICE, log entry 225). -/
def kVmapCacheMisses : Nat := 0x320011
/-- ERR_STATUS, OD 0x3200.12. -/
def kMemErrStatus : Nat := 0x320012
/-- ERR_SEQ, OD 0x3200.13. -/
def kMemErrSeq : Nat := 0x320013
/-- MON_COUNT, OD 0x7000.01. -/
def kMonCount : Nat := 0x700001
/-- ZERO_RUN_THRESHOLD, OD 0x7000.02. -/
def kZeroRunThreshold : Nat := 0x700002
/-- UNDERFLOW_RATIO, OD 0x7000.03. -/
def kUnderflowRatio : Nat := 0x700003
/-- NONFINITE_THRESHOLD, OD 0x7000.04. -/
def kNonfiniteThreshold : Nat := 0x700004
/-- SPIKE_K, OD 0x7000.05. -/
def kSpikeK : Nat := 0x700005
/-- SPIKE_ALPHA, OD 0x7000.06. -/
def kSpikeAlpha : Nat := 0x700006
/-- SPIKE_WARMUP, OD 0x7000.07. -/
def kSpikeWarmup : Nat := 0x700007
/-- EVENT_RING, OD 0x7000.08. -/
def kEventRing : Nat := 0x700008
/-- EVENT_HEAD, OD 0x7000.09. -/
def kEventHead : Nat := 0x700009
/-- EVENT_OVERRUN, OD 0x7000.0A. -/
def kEventOverrun : Nat := 0x70000A
/-- CODEC_RAW_BYTES, OD 0x7000.0B. -/
def kCodecRawBytes : Nat := 0x70000B
/-- CODEC_CODED_BYTES, OD 0x7000.0C. -/
def kCodecCodedBytes : Nat := 0x70000C
/-- CODEC_RAW_BLOCKS, OD 0x7000.0D. -/
def kCodecRawBlocks : Nat := 0x70000D
/-- CODEC_FAULTS, OD 0x7000.0E. -/
def kCodecFaults : Nat := 0x70000E
/-- ERR_STATUS, OD 0x7000.0F. -/
def kNoseErrStatus : Nat := 0x70000F
/-- ERR_SEQ, OD 0x7000.10. -/
def kNoseErrSeq : Nat := 0x700010
/-- MON_CFG, OD 0x7100 to 0x711F, .01 to .80. -/
def kMonCfg (n : Nat) : Nat := ctxKey 0x7100 n
/-- MON_STATE, OD 0x7120 to 0x713F, .01 to .80. -/
def kMonState (n : Nat) : Nat := ctxKey 0x7120 n
/-- CTX_COUNT, OD 0x5000.01. -/
def kCtxCount : Nat := 0x500001
/-- TCT_BASE, OD 0x5000.02. -/
def kTctBase : Nat := 0x500002
/-- TCT_SELECT, OD 0x5000.03. -/
def kTctSelect : Nat := 0x500003
/-- TCT_DATA, OD 0x5000.04. -/
def kTctData : Nat := 0x500004
/-- TCT_STATUS, OD 0x5000.05. -/
def kTctStatus : Nat := 0x500005
/-- CACHE_PINNED, OD 0x5000.06. -/
def kCachePinned : Nat := 0x500006
/-- ADMIT_TIME, OD 0x5000.07. -/
def kAdmitTime : Nat := 0x500007
/-- ADMIT_LATE, OD 0x5000.08. -/
def kAdmitLate : Nat := 0x500008
/-- CACHE_FULL, OD 0x5000.09. -/
def kCacheFull : Nat := 0x500009
/-- ABORT_REQ, OD 0x5000.0A. -/
def kAbortReq : Nat := 0x50000A
/-- ABORT_RESULT, OD 0x5000.0B. -/
def kAbortResult : Nat := 0x50000B
/-- ABORT_SEQ, OD 0x5000.0C. -/
def kAbortSeq : Nat := 0x50000C
/-- QUEUE_OVERFLOW, OD 0x5000.0D. -/
def kQueueOverflow : Nat := 0x50000D
/-- CQ_STALL, OD 0x5000.0E. -/
def kCqStall : Nat := 0x50000E
/-- PREEMPTIONS, OD 0x5000.0F. -/
def kPreemptions : Nat := 0x50000F
/-- ERR_STATUS, OD 0x5000.10. -/
def kCtxErrStatus : Nat := 0x500010
/-- ERR_SEQ, OD 0x5000.11. -/
def kCtxErrSeq : Nat := 0x500011
/-- PART_MASK, OD 0x5001.01 to .10. -/
def kPartMask (n : Nat) : Nat := 0x500101 + n
/-- PART_STATE, OD 0x5002.01 to .10. -/
def kPartState (n : Nat) : Nat := 0x500201 + n
/-- CTX_CTRL, OD 0x5010.01 to 0x5011.80. -/
def kCtxCtrl (c : Nat) : Nat := ctxKey 0x5010 c
/-- CTX_STATE, OD 0x5012.01 to 0x5013.80. -/
def kCtxState (c : Nat) : Nat := ctxKey 0x5012 c
/-- CTX_CFG, OD 0x5014.01 to 0x5015.80. -/
def kCtxCfg (c : Nat) : Nat := ctxKey 0x5014 c
/-- CTX_STEP, OD 0x5016.01 to 0x5017.80. -/
def kCtxStep (c : Nat) : Nat := ctxKey 0x5016 c
/-- QUEUE_DESC, OD 0x5100 to 0x513F, .00 to .FF. -/
def kQueueDesc (n : Nat) : Nat := 0x510000 + n
/-- DL_CFG, OD 0x5210.01 to 0x5211.80. -/
def kDlCfg (c : Nat) : Nat := ctxKey 0x5210 c
/-- DL_SLACK, OD 0x5212.01 to 0x5213.80. -/
def kDlSlack (c : Nat) : Nat := ctxKey 0x5212 c
/-- GLOBAL_COUNT, OD 0x1100.01. -/
def kGlobalCount : Nat := 0x110001
/-- SYNC_ROLE, OD 0x1100.02. -/
def kSyncRole : Nat := 0x110002
/-- MASTER_PRIORITY, OD 0x1100.03. -/
def kMasterPriority : Nat := 0x110003
/-- SYNC_STATE, OD 0x1100.04. -/
def kSyncState : Nat := 0x110004
/-- SYNC_OFFSET, OD 0x1100.05. -/
def kSyncOffset : Nat := 0x110005
/-- SYNC_HOPS, OD 0x1100.06. -/
def kSyncHops : Nat := 0x110006
/-- CORRECTIONS, OD 0x1100.07. -/
def kCorrections : Nat := 0x110007
/-- RATE_PPB, OD 0x1100.08. -/
def kRatePpb : Nat := 0x110008
/-- LAUNCH_GUARD, OD 0x1100.09. -/
def kLaunchGuard : Nat := 0x110009
/-- STOP_LEAD, OD 0x1100.0A. -/
def kStopLead : Nat := 0x11000A
/-- LAUNCH_LATE, OD 0x1100.0B. -/
def kLaunchLate : Nat := 0x11000B
/-- LAUNCH_REFUSED, OD 0x1100.0C. -/
def kLaunchRefused : Nat := 0x11000C
/-- HOLD_WRITE, OD 0x1100.0D. -/
def kHoldWrite : Nat := 0x11000D
/-- HOLD_STATUS, OD 0x1100.0E. -/
def kHoldStatus : Nat := 0x11000E
/-- HOLD_ENTER, OD 0x1100.0F. -/
def kHoldEnter : Nat := 0x11000F
/-- HOLD_EXIT, OD 0x1100.10. -/
def kHoldExit : Nat := 0x110010
/-- TRIP_TEMP, OD 0x1100.11. -/
def kTripTemp : Nat := 0x110011
/-- HOLDS, OD 0x1100.12. -/
def kHolds : Nat := 0x110012
/-- TRIPS, OD 0x1100.13. -/
def kTrips : Nat := 0x110013
/-- CLOCK_STATE, OD 0x1100.14. -/
def kClockState : Nat := 0x110014
/-- COUNTER_CLEAR, OD 0x1100.15. -/
def kCounterClear : Nat := 0x110015
/-- LAST_SAT, OD 0x1100.16. -/
def kLastSat : Nat := 0x110016
/-- ERR_STATUS, OD 0x1100.17. -/
def kTimeErrStatus : Nat := 0x110017
/-- ERR_SEQ, OD 0x1100.18. -/
def kTimeErrSeq : Nat := 0x110018
/-- LAUNCH_ENTRY, OD 0x1101.01 to .40. -/
def kLaunchEntry (n : Nat) : Nat := 0x110101 + n
/-- THERM_REPORT, OD 0x1102.01 to .10. -/
def kThermReport (n : Nat) : Nat := 0x110201 + n
/-- PEER_MASTERS, OD 0x1103.01 to .0F. -/
def kPeerMasters (n : Nat) : Nat := 0x110301 + n
/-- CHIP_ID, OD 0x4000.01. -/
def kChipId : Nat := 0x400001
/-- FLOW_BASE, OD 0x4000.02. -/
def kFlowBase : Nat := 0x400002
/-- FLOW_SELECT, OD 0x4000.03. -/
def kFlowSelect : Nat := 0x400003
/-- FLOW_DATA, OD 0x4000.04. -/
def kFlowData : Nat := 0x400004
/-- FLOW_STATUS, OD 0x4000.05. -/
def kFlowStatus : Nat := 0x400005
/-- FLOWS_PINNED, OD 0x4000.06. -/
def kFlowsPinned : Nat := 0x400006
/-- FLOW_MISSES, OD 0x4000.07. -/
def kFlowMisses : Nat := 0x400007
/-- MALFORMED, OD 0x4000.08. -/
def kMalformed : Nat := 0x400008
/-- NO_ROUTE, OD 0x4000.09. -/
def kNoRoute : Nat := 0x400009
/-- STALE_DROP, OD 0x4000.0A. -/
def kStaleDrop : Nat := 0x40000A
/-- SEQ_GAP, OD 0x4000.0B. -/
def kSeqGap : Nat := 0x40000B
/-- PAYLOAD_SUSPECT, OD 0x4000.0C. -/
def kPayloadSuspect : Nat := 0x40000C
/-- OUT_OF_REGION, OD 0x4000.0D. -/
def kOutOfRegion : Nat := 0x40000D
/-- SYNC_UPSTREAM, OD 0x4000.0E. -/
def kSyncUpstream : Nat := 0x40000E
/-- ERR_STATUS, OD 0x4000.0F. -/
def kFabricErrStatus : Nat := 0x40000F
/-- ERR_SEQ, OD 0x4000.10. -/
def kFabricErrSeq : Nat := 0x400010
/-- PORT_CFG, OD 0x4010 + p, .01. -/
def kPortCfg (p : Nat) : Nat := (0x4010 + p) * 256 + 0x01
/-- PORT_STATE, OD 0x4010 + p, .02. -/
def kPortState (p : Nat) : Nat := (0x4010 + p) * 256 + 0x02
/-- LINK_FLIGHT, OD 0x4010 + p, .03. -/
def kLinkFlight (p : Nat) : Nat := (0x4010 + p) * 256 + 0x03
/-- SCHED_OK, OD 0x4010 + p, .04. -/
def kSchedOk (p : Nat) : Nat := (0x4010 + p) * 256 + 0x04
/-- VL_CREDITS, OD 0x4010 + p, .05. -/
def kVlCredits (p : Nat) : Nat := (0x4010 + p) * 256 + 0x05
/-- FEC_CORRECTED, OD 0x4010 + p, .06. -/
def kFecCorrected (p : Nat) : Nat := (0x4010 + p) * 256 + 0x06
/-- FEC_UNCORRECTED, OD 0x4010 + p, .07. -/
def kFecUncorrected (p : Nat) : Nat := (0x4010 + p) * 256 + 0x07
/-- REPLAYS, OD 0x4010 + p, .08. -/
def kReplays (p : Nat) : Nat := (0x4010 + p) * 256 + 0x08
/-- REPLAY_LIMIT, OD 0x4010 + p, .09. -/
def kReplayLimit (p : Nat) : Nat := (0x4010 + p) * 256 + 0x09
/-- SCHED_MISS, OD 0x4010 + p, .0A. -/
def kSchedMiss (p : Nat) : Nat := (0x4010 + p) * 256 + 0x0A
/-- SCHED_OFFSLOT, OD 0x4010 + p, .0B. -/
def kSchedOffslot (p : Nat) : Nat := (0x4010 + p) * 256 + 0x0B
/-- SCHED_DROP, OD 0x4010 + p, .0C. -/
def kSchedDrop (p : Nat) : Nat := (0x4010 + p) * 256 + 0x0C
/-- SLOT_SHADOW, OD 0x4010 + p, .0D. -/
def kSlotShadow (p : Nat) : Nat := (0x4010 + p) * 256 + 0x0D
/-- SLOT_ACTIVE, OD 0x4010 + p, .0E. -/
def kSlotActive (p : Nat) : Nat := (0x4010 + p) * 256 + 0x0E
/-- SLOT_SWAP_COUNT, OD 0x4010 + p, .0F. -/
def kSlotSwapCount (p : Nat) : Nat := (0x4010 + p) * 256 + 0x0F
/-- SLOT_CTRL, OD 0x4010 + p, .10. -/
def kSlotCtrl (p : Nat) : Nat := (0x4010 + p) * 256 + 0x10
/-- LOOPBACK_CTRL, OD 0x4010 + p, .11. -/
def kFabricLoopbackCtrl (p : Nat) : Nat := (0x4010 + p) * 256 + 0x11
/-- LOOPBACK_ERRORS, OD 0x4010 + p, .12. -/
def kFabricLoopbackErrors (p : Nat) : Nat := (0x4010 + p) * 256 + 0x12
/-- TX_BYTES, OD 0x4010 + p, .13. -/
def kTxBytes (p : Nat) : Nat := (0x4010 + p) * 256 + 0x13
/-- RX_BYTES, OD 0x4010 + p, .14. -/
def kRxBytes (p : Nat) : Nat := (0x4010 + p) * 256 + 0x14
/-- TX_EQ, OD 0x4010 + p, .15. -/
def kTxEq (p : Nat) : Nat := (0x4010 + p) * 256 + 0x15
/-- ROUTE, OD 0x4100 to 0x410F, .00 to .FF. -/
def kRoute (n : Nat) : Nat := 0x410000 + n
/-- MCAST_GROUP, OD 0x4110 to 0x4113, .00 to .FF. -/
def kMcastGroup (n : Nat) : Nat := 0x411000 + n
/-- DOMAIN_PORT, OD 0x4120.01 to .10. -/
def kDomainPort (n : Nat) : Nat := 0x412001 + n
/-- BRIDGE_ENABLED, OD 0x4300.01. -/
def kBridgeEnabled : Nat := 0x430001
/-- PCIE_LINK, OD 0x4300.02. -/
def kPcieLink : Nat := 0x430002
/-- PCIE_WIDTH_MAX, OD 0x4300.03. -/
def kPcieWidthMax : Nat := 0x430003
/-- PCIE_RATE_MAX, OD 0x4300.04. -/
def kPcieRateMax : Nat := 0x430004
/-- MSIX_RAISE, OD 0x4300.05. -/
def kMsixRaise : Nat := 0x430005
/-- HOST_TX_PACKETS, OD 0x4300.06. -/
def kHostTxPackets : Nat := 0x430006
/-- HOST_RX_PACKETS, OD 0x4300.07. -/
def kHostRxPackets : Nat := 0x430007
/-- HOST_CRC_ERRORS, OD 0x4300.08. -/
def kHostCrcErrors : Nat := 0x430008
/-- HOST_RX_STALLS, OD 0x4300.09. -/
def kHostRxStalls : Nat := 0x430009
/-- DEVICE_ID, OD 0x4300.0A. -/
def kDeviceId : Nat := 0x43000A
/-- ERR_STATUS, OD 0x4300.0B. -/
def kBridgeErrStatus : Nat := 0x43000B
/-- ERR_SEQ, OD 0x4300.0C. -/
def kBridgeErrSeq : Nat := 0x43000C
/-- XCH_TIMEOUT, OD 0x8000.01. -/
def kXchTimeout : Nat := 0x800001
/-- CMP_TIMEOUT, OD 0x8000.02. -/
def kCmpTimeout : Nat := 0x800002
/-- MATCH_LIMIT, OD 0x8000.03. -/
def kMatchLimit : Nat := 0x800003
/-- DISAGREE_LIMIT, OD 0x8000.04. -/
def kDisagreeLimit : Nat := 0x800004
/-- XCHECK_RATE_LOG2, OD 0x8000.05. -/
def kXcheckRateLog2 : Nat := 0x800005
/-- XCHECK_NONCE, OD 0x8000.06. -/
def kXcheckNonce : Nat := 0x800006
/-- XCHECK_RELEASE, OD 0x8000.07. -/
def kXcheckRelease : Nat := 0x800007
/-- XCHECK_REPORT, OD 0x8000.08. -/
def kXcheckReport : Nat := 0x800008
/-- FLOW_MISMATCHES, OD 0x8000.09. -/
def kFlowMismatches : Nat := 0x800009
/-- COVERAGE_FAULTS, OD 0x8000.0A. -/
def kCoverageFaults : Nat := 0x80000A
/-- STEPS_DISCARDED, OD 0x8000.0B. -/
def kStepsDiscarded : Nat := 0x80000B
/-- RUN_REVERTS, OD 0x8000.0C. -/
def kRunReverts : Nat := 0x80000C
/-- ROLLBACKS, OD 0x8000.0D. -/
def kRollbacks : Nat := 0x80000D
/-- EXPULSIONS, OD 0x8000.0E. -/
def kExpulsions : Nat := 0x80000E
/-- XCHECK_SELECTED, OD 0x8000.0F. -/
def kXcheckSelected : Nat := 0x80000F
/-- PROV_RING, OD 0x8000.10. -/
def kProvRing : Nat := 0x800010
/-- PROV_HEAD, OD 0x8000.11. -/
def kProvHead : Nat := 0x800011
/-- AUDIT_CHAIN, OD 0x8000.12. -/
def kAuditChain : Nat := 0x800012
/-- AUDIT_REQ, OD 0x8000.13. -/
def kAuditReq : Nat := 0x800013
/-- AUDIT_RESULT, OD 0x8000.14. -/
def kAuditResult : Nat := 0x800014
/-- AUDIT_STATUS, OD 0x8000.15. -/
def kAuditStatus : Nat := 0x800015
/-- ERR_STATUS, OD 0x8000.16. -/
def kSilErrStatus : Nat := 0x800016
/-- ERR_SEQ, OD 0x8000.17. -/
def kSilErrSeq : Nat := 0x800017
/-- SIL_CFG, OD 0x8010.01 to 0x8011.80. -/
def kSilCfg (c : Nat) : Nat := ctxKey 0x8010 c
/-- REP_CFG, OD 0x8012.01 to 0x8013.80. -/
def kRepCfg (c : Nat) : Nat := ctxKey 0x8012 c
/-- DRY_STATE, OD 0x8014.01 to 0x8015.80. -/
def kDryState (c : Nat) : Nat := ctxKey 0x8014 c
/-- REP_STATE, OD 0x8016.01 to 0x8017.80. -/
def kRepState (c : Nat) : Nat := ctxKey 0x8016 c
/-- BLOTTER_RING, OD 0x6000.01. -/
def kBlotterRing : Nat := 0x600001
/-- BLOTTER_HEAD, OD 0x6000.02. -/
def kBlotterHead : Nat := 0x600002
/-- BLOTTER_OVERRUN, OD 0x6000.03. -/
def kBlotterOverrun : Nat := 0x600003
/-- BLOTTER_DROPPED, OD 0x6000.04. -/
def kBlotterDropped : Nat := 0x600004
/-- WINDOW_L1, OD 0x6000.05. -/
def kWindowL1 : Nat := 0x600005
/-- WINDOW_L2, OD 0x6000.06. -/
def kWindowL2 : Nat := 0x600006
/-- WINDOW_FW, OD 0x6000.07. -/
def kWindowFw : Nat := 0x600007
/-- UNIT_RECUR_WINDOW, OD 0x6000.08. -/
def kUnitRecurWindow : Nat := 0x600008
/-- ESCALATIONS, OD 0x6000.09. -/
def kEscalations : Nat := 0x600009
/-- RECOVERY_DEPTH, OD 0x6000.0A. -/
def kRecoveryDepth : Nat := 0x60000A
/-- CHIP_STATE, OD 0x6000.0B. -/
def kChipState : Nat := 0x60000B
/-- FENCE_REQ, OD 0x6000.0C. -/
def kFenceReq : Nat := 0x60000C
/-- UNFENCE_REQ, OD 0x6000.0D. -/
def kUnfenceReq : Nat := 0x60000D
/-- FENCE_STATUS, OD 0x6000.0E. -/
def kFenceStatus : Nat := 0x60000E
/-- FENCE_LIST, OD 0x6000.0F. -/
def kBlotFenceList : Nat := 0x60000F
/-- TEST_INTERVAL, OD 0x6000.10. -/
def kTestInterval : Nat := 0x600010
/-- TEST_GRACE, OD 0x6000.11. -/
def kTestGrace : Nat := 0x600011
/-- TEST_TIME, OD 0x6000.12. -/
def kTestTime : Nat := 0x600012
/-- TEST_MARGIN, OD 0x6000.13. -/
def kTestMargin : Nat := 0x600013
/-- TEST_REQ, OD 0x6000.14. -/
def kTestReq : Nat := 0x600014
/-- TESTS_FORCED, OD 0x6000.15. -/
def kTestsForced : Nat := 0x600015
/-- SDC_COUNT, OD 0x6000.16. -/
def kSdcCount : Nat := 0x600016
/-- SDC_LIMIT, OD 0x6000.17. -/
def kSdcLimit : Nat := 0x600017
/-- SDC_WINDOW, OD 0x6000.18. -/
def kSdcWindow : Nat := 0x600018
/-- ERR_STATUS, OD 0x6000.19. -/
def kBlotErrStatus : Nat := 0x600019
/-- ERR_SEQ, OD 0x6000.1A. -/
def kBlotErrSeq : Nat := 0x60001A
/-- TEST_LAST, OD 0x6010.01 to .10. -/
def kTestLast (n : Nat) : Nat := 0x601001 + n
/-- TEST_RESULT, OD 0x6011.01 to .10. -/
def kTestResult (n : Nat) : Nat := 0x601101 + n
/-- CKPT_CFG, OD 0x6020.01 to 0x6021.80. -/
def kCkptCfg (c : Nat) : Nat := ctxKey 0x6020 c
/-- CKPT_STATE, OD 0x6022.01 to 0x6023.80. -/
def kCkptState (c : Nat) : Nat := ctxKey 0x6022 c
/-- ID_RSA_PUB, OD 0xA000.01. -/
def kIdRsaPub : Nat := 0xA00001
/-- ID_SLH_PUB, OD 0xA000.02. -/
def kIdSlhPub : Nat := 0xA00002
/-- ID_CERTS, OD 0xA000.03. -/
def kIdCerts : Nat := 0xA00003
/-- ROOT_DIGEST, OD 0xA000.04. -/
def kRootDigest : Nat := 0xA00004
/-- SERIAL, OD 0xA000.05. -/
def kSerial : Nat := 0xA00005
/-- KEYSLOTS, OD 0xA000.06. -/
def kKeyslots : Nat := 0xA00006
/-- KEYSLOT_WRITE, OD 0xA000.07. -/
def kKeyslotWrite : Nat := 0xA00007
/-- KEYSLOT_STATUS, OD 0xA000.08. -/
def kKeyslotStatus : Nat := 0xA00008
/-- ATTEST_REQ, OD 0xA000.09. -/
def kAttestReq : Nat := 0xA00009
/-- ATTEST_RESULT, OD 0xA000.0A. -/
def kAttestResult : Nat := 0xA0000A
/-- ATTEST_STATUS, OD 0xA000.0B. -/
def kAttestStatus : Nat := 0xA0000B
/-- SIG_FAILURES, OD 0xA000.0C. -/
def kSigFailures : Nat := 0xA0000C
/-- ERR_STATUS, OD 0xA000.0D. -/
def kSecErrStatus : Nat := 0xA0000D
/-- ERR_SEQ, OD 0xA000.0E. -/
def kSecErrSeq : Nat := 0xA0000E
/-- WSET_COUNT, OD 0xA100.01. -/
def kWsetCount : Nat := 0xA10001
/-- FLACON_CMD, OD 0xA100.02. -/
def kFlaconCmd : Nat := 0xA10002
/-- FLACON_STATUS, OD 0xA100.03. -/
def kFlaconStatus : Nat := 0xA10003
/-- DRAIN_STEPS, OD 0xA100.04. -/
def kDrainSteps : Nat := 0xA10004
/-- GATE_LIMIT, OD 0xA100.05. -/
def kGateLimit : Nat := 0xA10005
/-- EPOCH_CUTS, OD 0xA100.06. -/
def kEpochCuts : Nat := 0xA10006
/-- GATE_WAITS, OD 0xA100.07. -/
def kGateWaits : Nat := 0xA10007
/-- LAYER_FAILURES, OD 0xA100.08. -/
def kLayerFailures : Nat := 0xA10008
/-- ERR_STATUS, OD 0xA100.09. -/
def kFlaconErrStatus : Nat := 0xA10009
/-- ERR_SEQ, OD 0xA100.0A. -/
def kFlaconErrSeq : Nat := 0xA1000A
/-- WSET_CFG, OD 0xA101.01 to .10. -/
def kWsetCfg (n : Nat) : Nat := 0xA10101 + n
/-- WSET_STATE, OD 0xA102.01 to .10. -/
def kWsetState (n : Nat) : Nat := 0xA10201 + n
/-- LAYER_STATE, OD 0xA103.01 to .10. -/
def kLayerState (n : Nat) : Nat := 0xA10301 + n
/-- EPOCH_ACTIVE, OD 0xA110.01 to 0xA111.80. -/
def kEpochActive (c : Nat) : Nat := ctxKey 0xA110 c
/-- EPOCH_PENDING, OD 0xA112.01 to 0xA113.80. -/
def kEpochPending (c : Nat) : Nat := ctxKey 0xA112 c
/-- EPOCH_STATUS, OD 0xA114.01 to 0xA115.80. -/
def kEpochStatus (c : Nat) : Nat := ctxKey 0xA114 c
/-- WAPERTURE, OD 0xA116.01 to 0xA117.80. -/
def kWaperture (c : Nat) : Nat := ctxKey 0xA116 c
/-- FW_VERSION, OD 0x9000.01. -/
def kFwVersion : Nat := 0x900001
/-- FW_SLOTS, OD 0x9000.02. -/
def kFwSlots : Nat := 0x900002
/-- FW_IMAGE, OD 0x9000.03. -/
def kFwImage : Nat := 0x900003
/-- START_KIND, OD 0x9000.04. -/
def kStartKind : Nat := 0x900004
/-- BOOT_COUNTERS, OD 0x9000.05. -/
def kBootCounters : Nat := 0x900005
/-- UPDATE_STATUS, OD 0x9000.06. -/
def kUpdateStatus : Nat := 0x900006
/-- START_LIMIT_COLD, OD 0x9000.07. -/
def kStartLimitCold : Nat := 0x900007
/-- START_LIMIT_WARM, OD 0x9000.08. -/
def kStartLimitWarm : Nat := 0x900008
/-- WATCHDOG_TIMEOUT, OD 0x9000.09. -/
def kWatchdogTimeout : Nat := 0x900009
/-- LOG_LEVEL, OD 0x9000.0A. -/
def kLogLevel : Nat := 0x90000A
/-- TRACE_MASK, OD 0x9000.0B. -/
def kTraceMask : Nat := 0x90000B
/-- LOG_RING, OD 0x9000.0C. -/
def kLogRing : Nat := 0x90000C
/-- LOG_HEAD, OD 0x9000.0D. -/
def kLogHead : Nat := 0x90000D
/-- LOG_OVERRUN, OD 0x9000.0E. -/
def kLogOverrun : Nat := 0x90000E
/-- TASK_FAULTS, OD 0x9000.0F. -/
def kTaskFaults : Nat := 0x90000F
/-- SRAM_CE_COUNT, OD 0x9000.10. -/
def kSramCeCount : Nat := 0x900010
/-- FLASH_PENDING, OD 0x9000.11. -/
def kFlashPending : Nat := 0x900011
/-- ERR_STATUS, OD 0x9000.12. -/
def kFwErrStatus : Nat := 0x900012
/-- ERR_SEQ, OD 0x9000.13. -/
def kFwErrSeq : Nat := 0x900013
/-- FW_RING, OD 0x9010.01 to .08. -/
def kFwRing (n : Nat) : Nat := 0x901001 + n
/-- TASK_STATE, OD 0x9011.01 to .40. -/
def kTaskState (n : Nat) : Nat := 0x901101 + n
/-- VENDOR, OD 0x1000.01. -/
def kVendor : Nat := 0x100001
/-- DEVICE, OD 0x1000.02. -/
def kDevice : Nat := 0x100002
/-- GRADE, OD 0x1000.03. -/
def kGrade : Nat := 0x100003
/-- STEPPING, OD 0x1000.04. -/
def kStepping : Nat := 0x100004
/-- GENERATION, OD 0x1000.05. -/
def kGeneration : Nat := 0x100005
/-- CONTRACT, OD 0x1000.06. -/
def kContract : Nat := 0x100006
/-- IANA_PEN, OD 0x1000.07. -/
def kIanaPen : Nat := 0x100007
/-- I3C_PID, OD 0x1000.08. -/
def kI3cPid : Nat := 0x100008
/-- MCTP_EID, OD 0x1000.09. -/
def kMctpEid : Nat := 0x100009
/-- ACCORD_COUNT, OD 0x1000.0A. -/
def kAccordCount : Nat := 0x10000A
/-- ACCORD_PHYS, OD 0x1001.01 to .10. -/
def kAccordPhys (n : Nat) : Nat := 0x100101 + n
/-- CONFIG_CRC_REF, OD 0x1F00.01. -/
def kConfigCrcRef : Nat := 0x1F0001
/-- CONFIG_COMMIT, OD 0x1F00.02. -/
def kConfigCommit : Nat := 0x1F0002
/-- CONFIG_STATE, OD 0x1F00.03. -/
def kConfigState : Nat := 0x1F0003
/-- CONFIG_CRC_LAST, OD 0x1F00.04. -/
def kConfigCrcLast : Nat := 0x1F0004
/-- CONFIG_DRIFT_ACTION, OD 0x1F00.05. -/
def kConfigDriftAction : Nat := 0x1F0005
/-- DRIFT_INDEX, OD 0x1F00.06. -/
def kDriftIndex : Nat := 0x1F0006
/-- SWEEP_MAX, OD 0x1F00.07. -/
def kSweepMax : Nat := 0x1F0007
/-- EVENT_SEQ, OD 0x1F00.08. -/
def kEventSeq : Nat := 0x1F0008
/-- EVENT_SUMMARY, OD 0x1F00.09. -/
def kEventSummary : Nat := 0x1F0009
/-- EVENT_IRQ, OD 0x1F00.0A. -/
def kEventIrq : Nat := 0x1F000A
/-- EVENT_IRQ_HOLDOFF, OD 0x1F00.0B. -/
def kEventIrqHoldoff : Nat := 0x1F000B
/-- OOB_WRITE_EN, OD 0x1F00.0C. -/
def kOobWriteEn : Nat := 0x1F000C
/-- BUSY_TIMEOUTS, OD 0x1F00.0D. -/
def kBusyTimeouts : Nat := 0x1F000D
/-- ACCESS_REFUSED, OD 0x1F00.0E. -/
def kAccessRefused : Nat := 0x1F000E
/-- MCTP_ERRORS, OD 0x1F00.0F. -/
def kMctpErrors : Nat := 0x1F000F
/-- ERR_STATUS, OD 0x1F00.10. -/
def kOdErrStatus : Nat := 0x1F0010
/-- ERR_SEQ, OD 0x1F00.11. -/
def kOdErrSeq : Nat := 0x1F0011
/-- PHASE, OD 0x1200.01. -/
def kPhase : Nat := 0x120001
/-- STRAPS, OD 0x1200.02. -/
def kStraps : Nat := 0x120002
/-- STRAP_GLITCH, OD 0x1200.03. -/
def kStrapGlitch : Nat := 0x120003
/-- FLASH_WINDOWS, OD 0x1200.04. -/
def kFlashWindows : Nat := 0x120004
/-- FLASH_WINDOW_MAX, OD 0x1200.05. -/
def kFlashWindowMax : Nat := 0x120005
/-- SYNC_SPURIOUS, OD 0x1200.06. -/
def kSyncSpurious : Nat := 0x120006
/-- TEMP_PEAK, OD 0x1200.07. -/
def kTempPeak : Nat := 0x120007
/-- CRIT_TEMP, OD 0x1200.08. -/
def kCritTemp : Nat := 0x120008
/-- RAIL_EXCURSIONS, OD 0x1200.09. -/
def kRailExcursions : Nat := 0x120009
/-- D2D_LOOPBACK_CTRL, OD 0x1200.0A. -/
def kD2dLoopbackCtrl : Nat := 0x12000A
/-- D2D_LOOPBACK_ERRORS, OD 0x1200.0B. -/
def kD2dLoopbackErrors : Nat := 0x12000B
/-- TEST_MODE, OD 0x1200.0C. -/
def kTestMode : Nat := 0x12000C
/-- ERR_STATUS, OD 0x1200.0D. -/
def kPinsErrStatus : Nat := 0x12000D
/-- ERR_SEQ, OD 0x1200.0E. -/
def kPinsErrSeq : Nat := 0x12000E
/-- SENSOR_TEMP, OD 0x1200.10 to .1F. -/
def kSensorTemp (n : Nat) : Nat := 0x120010 + n
/-- RAIL_MV, OD 0x1200.20 to .2D. -/
def kRailMv (n : Nat) : Nat := 0x120020 + n
/-- RAIL_RANGE, OD 0x1200.30 to .3D. -/
def kRailRange (n : Nat) : Nat := 0x120030 + n

end Sys2Proof.Machine
end

