-- ==== Sys2Proof/Machine/State.lean ====
section
/-!
DEFINITION. The state of the device as plain data, its faults and refusals, and the state after reset.

Every object-dictionary entry that holds a value lives in `od`, keyed `index * 256 + subindex`; what the dictionary
only shows (GLOBAL_COUNT, CTX_STATE, CTX_CTRL, TOKQ_LEVEL, RECOVERY_DEPTH, the fence lists, the rings) lives once in a
field of its own and is read through `State.odValue` (Machine/OdView.lean). The four rings of R339 live in heart memory.
-/
namespace Sys2Proof.Machine

/-- Why the machine stops with a fault: no command of this block does. Each ends with an effect, be it none. -/
inductive Fault
deriving DecidableEq, Repr

/-- Why the machine refuses a command. -/
inductive Refusal
  /-- Raised by `exec` for a command without a meaning. Safe. -/
  | notModelled (mnemonic : String)
deriving DecidableEq, Repr

/-! ### Accords (chapters 03, 04, 06) -/

/-- The last pass that wrote an accumulator half (R59): its start, row range and whether it ran at FP16. -/
structure LastPass where
  half : Nat
  start : Nat
  row0 : Nat
  rows : Nat
  fp16 : Bool
deriving DecidableEq, Repr

/-- One use of an accumulator half's write port by `rows` rows: row i in column j, for the columns of `cols`, at
`first + i * step + j` for a pass, or at `first + i` in every column for an epilogue write-back (R50, R58, R60). -/
structure PortUse where
  half : Nat
  skew : Bool
  first : Nat
  rows : Nat
  step : Nat
  cols : List Nat
deriving DecidableEq, Repr

/-- A matrix engine besides its stores (R49): the weights in the array, the shadow register's tile, the cycle in which
the active tile became active, the cycle in which the array is free, the cycle in which the epilogue unit is free. -/
structure Engine where
  weights : List (List Nat)
  shadow : List (List Nat)
  activeAt : Nat
  arrayFree : Nat
  epiFree : Nat
  last : List LastPass
  ports : List PortUse
deriving DecidableEq, Repr

/-- The latest write of a vector register (R80): issue cycle and landing cycle. -/
structure RegLand where
  issue : Nat
  land : Nat
deriving DecidableEq, Repr

/-- The vector engine (R72, R80). Register numbers of `land`: T0 to T63 are 0 to 63, S0 to S31 are 64 to 95, K0 to K7
are 96 to 103. -/
structure VecEngine where
  tiles : SMap (List W32)
  scalars : SMap W32
  masks : SMap (List Bool)
  land : SMap RegLand
  pipeFree : Nat
  loadFree : Nat
  storeFree : Nat
deriving DecidableEq, Repr

/-- A running preparer task: its descriptor and the cycle of its dispatch, counted from the START of the step in progress (below
zero for a dispatch of an earlier step). -/
structure Running where
  task : TaskDesc
  at_ : Int
deriving DecidableEq, Repr

/-- A preparer core (R83): what it runs, the integer, floating-point and vector registers by number, the program counter,
fcsr, the vector type and length, the rest of the vector control registers by CSR number, whether it is in machine mode, the
machine-mode registers by CSR number (mstatus, mtvec, mepc, mcause, mtval, the physical memory protection), the
reservation of a load-reserved (address and bytes), and the lines of 64 B that its two caches hold: of the instruction cache
the line numbers, of the data cache the bytes as they were fetched (R86, R87). -/
structure Core where
  run : Option Running
  x : SMap W64
  f : SMap W64
  v : SMap (BitVec 512)
  pc : Nat
  fcsr : Nat
  vtype : Nat
  vl : Nat
  vcsr : SMap Nat
  machine : Bool
  mcsr : SMap Nat
  resv : Option (Nat × Nat)
  icache : List Nat
  dcache : SMap (List Byte)
deriving DecidableEq, Repr

/-- A token in a queue (R132): its value, the cycle of its push (none: an earlier step), and the rank of its source among
the pushes of one cycle: 0 the compute stream, 1 and 2 the access engines, 3 to 10 the DMA channels, 11 to 14 the cores. -/
structure Token where
  value : W32
  pushed : Option Nat
  rank : Nat
deriving DecidableEq, Repr

/-- What lands in an accord's top tier: bytes, the addition of an FP32 value to a word (SCATTER_ADD), the readiness stamp or
the ownership tag of a range (R113, R114). -/
inductive LandAct
  | bytes (addr : Nat) (data : List Byte)
  | addWord (addr : Nat) (x : W32)
  | stamp (addr n : Nat) (v : Byte)
  | tag (addr n tensor : Nat)
deriving DecidableEq, Repr

/-- A write to the top tier that has been issued and has not landed: the cycle in which it lands in schedule time, and the
DMA channel it belongs to (8: none). -/
structure Landing where
  at_ : Nat
  chan : Nat
  act : LandAct
deriving DecidableEq, Repr

/-- A token queue: its tokens, oldest first, and the pops of the latest cycle, which still hold their place in it. -/
structure TokQueue where
  items : List Token
  popAt : Nat
  popped : Nat
deriving DecidableEq, Repr

/-- A transfer that an access engine has issued and that has not landed or become visible (R133): a READ with the bytes
it captured and whether they bear ownership tags, a WRITE, or a SIGNAL waiting for the earlier ones. `idx` is the instruction's
index in its stream, `ready` the cycle before which the transfer cannot be complete (R103). -/
inductive InFlight
  | read (idx : Nat) (i : AccessInstr) (data : List Byte) (tags : Bool) (ready : Nat)
  | write (idx : Nat) (i : AccessInstr) (ready : Nat)
  | signal (idx : Nat) (i : AccessInstr)
deriving DecidableEq, Repr

/-- An access engine: the cycle in which its latest instruction has issued its last request, and what is in flight. -/
structure AccessEngine where
  free : Nat
  flight : List InFlight
deriving DecidableEq, Repr

/-- A DMA channel besides its dictionary words (R135 to R141): loop indices, the program counter past the byte that
DMA_CTRL shows is the same one, the cycle its latest MOVE has issued its last request, the cycle in which the first MOVE
after arming or resumption may issue, the top-tier or window ranges written since its last completed SIGNAL, and the cycles
in which the writes still outstanding land, become visible or have been handed to their port (R138). -/
structure Channel where
  i0 : Nat
  i1 : Nat
  moveFree : Nat
  firstAt : Nat
  sinceSignal : List (Nat × Nat × Nat)
  outstanding : List Nat
deriving DecidableEq, Repr

/-- An active grant of an arbiter: the grantee and the beats it has held (R123). -/
structure Grant where
  input : Nat
  beats : Nat
deriving DecidableEq, Repr

/-- One accord: the scratchpad and tile stores by local address, the accumulator stores by
`engine * 262144 + row * 128 + column`, the row tags by `engine * 2048 + row`, the readiness stamps by granule, the writes
that have not landed in the order of their landing, its units, and the arbiters whose FREEZE bit the device has set and
software has not (R207, R301). -/
structure Accord where
  top : Memory
  accum : SMap W32
  rowTags : SMap Nat
  stamps : SMap Nat
  landing : List Landing
  eng : Vector Engine 4
  ve : VecEngine
  tasks : List (TaskDesc × Int)
  cores : Vector Core 4
  tokq : SMap TokQueue
  access : Vector AccessEngine 2
  chan : Vector Channel 8
  grants : SMap (Option Grant)
  froze : List Nat
deriving DecidableEq, Repr

/-- The schedule guard of a partition (R108 to R112). Cycles are schedule time counted from the step's START. `waiting`
holds the pops that a LATE_OPERAND freeze waits for: accord, queue, count; `frozenAt` is the count at which it began and `frozenEc`
the engine cycle; `tolEc` is the length of a freeze of R110 that falls in it. `startEc` is the engine cycle of the step's START and
`held` the engine cycles that the step has been frozen for since. -/
structure Guard where
  phase : Nat
  phaseStart : Nat
  now : Nat
  ended : List Nat
  lateFrozen : Bool
  tolFrozen : Bool
  tolWritten : Bool
  window : Bool
  waiting : List (Nat × Nat × Nat)
  frozenAt : Nat
  gateWait : Bool
  frozenEc : Nat
  tolEc : Nat
  startEc : Nat
  held : Nat
deriving DecidableEq, Repr

/-- A job that an activation codec runs (R177, R178). `op` is 1 CODE, 2 CODE_MX8, 3 DECODE. -/
structure CodecRun where
  acc : Nat
  op : Nat
  job : CodecJob
deriving DecidableEq, Repr

/-! ### Contexts (chapters 05, 09, 12) -/

/-- Context states (Table 9-1). -/
inductive CtxSt | free | loaded | ready | running | saving | saved | restoring | stopped
deriving DecidableEq, Repr

/-- A digest region latched at START (R267, R268): the entry it came from and the running digest and block count. -/
structure Region where
  entry : Nat
  base : Bool
  off : Nat
  size : Nat
  tensor : Nat
  owner : Nat
  version : Nat
  tileBytes : Nat
  kind : Nat
  acc : Nat
  blocks : Nat
deriving DecidableEq, Repr

/-- The fold of one EPCHK flow in the step (R271): payload bytes in SEQ order folded so far. -/
structure FlowFold where
  flow : Nat
  send : Bool
  acc : Nat
  pend : List Byte
  bytes : Nat
  packets : Nat
deriving DecidableEq, Repr

/-- A command in flight (R198, R202): its queue, ring index, entry and tenant, the tenant micro-batches placed and in all,
the tokens produced and consumed, whether its last result is committed, the steps that first and last held it, the flags
of its provenance record, its epoch digests, its OUTPUT region (tier, offset, size, digest), the live replicas and those
that agreed. -/
structure OpenCmd where
  queue : Nat
  seq : Nat
  op : Nat
  entry : Nat
  tenant : Nat
  tokens : Nat
  result : Option (Bool × Nat × Nat × Nat)
  live : Nat
  agreed : Nat
  seq0 : Nat
  nseq : Nat
  data : Nat
  out : Nat
  deadline : Nat
  maxNew : Nat
  placed : Nat
  total : Nat
  produced : Nat
  firstStep : Nat
  notExact : Bool
  fallback : Bool
  suspect : Bool
  replayed : Bool
  skipped : Bool
  aborted : Bool
  cut : Bool
  committed : Bool
  updateT : Nat
  lastStep : Nat
  before : Nat
  after : Nat
  base : Nat
deriving DecidableEq, Repr

/-- A sequence of the running batch (Table 9-7). -/
structure SeqEntry where
  slot : Nat
  mmb : Nat
  seqnum : Nat
  row0 : Nat
  nrows : Nat
  tokpos : Nat
  leaf : Nat
  data : Nat
  first : Bool
  last : Bool
  queue : Nat
  cmdSeq : Nat
  evalSeq : Bool
deriving DecidableEq, Repr

/-- A bound tenant's slot (Table 9-6). -/
structure SlotEntry where
  slot : Nat
  entry : Nat
deriving DecidableEq, Repr

/-- An entry of a key as another replica sent it (R283): the replica's index, the digest, the step of closure, and the number of the
comparison that it came with. -/
structure ClosureIn where
  replica : Nat
  digest : Nat
  step : Nat
  cmp : Nat
deriving DecidableEq, Repr

/-- A key that a comparison has not decided yet (R283, R284): tenant, kind, version, its own digest and committing step
once it has closed here, whether its entry was sent, the entries received from the other replicas, and the number of the comparison
that its first entry went with (0: none yet). Several results of one key, such as the weight regions of one model update (R287), stand
one after the other in the order in which they closed. -/
structure Closure where
  tenant : Nat
  kind : Nat
  version : Nat
  own : Option Nat
  step : Nat
  sent : Bool
  got : List ClosureIn
  since : Nat
deriving DecidableEq, Repr

/-- A tenant's committed update not yet confirmed (R281), in order of commit: its entry, update number, committing step, and the bytes
of the tenant context entry before it. -/
structure Unconfirmed where
  entry : Nat
  updateT : Nat
  step : Nat
  old : List Byte
deriving DecidableEq, Repr

/-- An epoch pointer latched at START (R315): set number, VERSION, digest. -/
structure EpochPtr where
  set : Nat
  version : Nat
  digest : Nat
deriving DecidableEq, Repr

/-- A run's verdict as received (R277): virtual chip, step, PASS, previous step committed. -/
structure VerdictIn where
  vchip : Nat
  step : Nat
  pass : Bool
  prevCommitted : Bool
  suspect : Bool
deriving DecidableEq, Repr

/-- What remains to do in a context's drydown (Table 12-5): not in drydown; FLOW digests outstanding; VERDICTs
outstanding; the run verdict in, commit outstanding. -/
inductive Dry | none | flow | verdict | commit
deriving DecidableEq, Repr

/-- What a START latched and what a discarded step returns to (R279). -/
structure StepSnap where
  outputs : List Region
  nose : List (Nat × Nat)
deriving DecidableEq, Repr

/-- What the latest commit replaced, kept until it is run-confirmed (R278): the batch, the open results, the OUTPUT
regions and Nose states of the step's START, the tenant entries, and the deadline configuration. -/
structure Undo where
  cmds : List OpenCmd
  seqs : List SeqEntry
  withheld : List SeqEntry
  slots : List SlotEntry
  closures : List Closure
  unconf : List Unconfirmed
  snap : StepSnap
  tct : List (Nat × List Byte)
  dl : Nat
deriving DecidableEq, Repr

/-- One context, besides its dictionary entries. `preemptFor` holds the commands, by queue and ring index, that a pre-emption
request of a dead-between-commands context waits for (R206); `cmpAt` is the count of the latest comparison's CLOSURE entries;
`withheld` the decoding sequences of tenants marked HELD (R189); `ends` the number of the latest CLOSURE_END of each other replica;
`keep` the images kept for cross-checks, by tenant entry and image (R289). `chips` is the run's chip-id list and `vchip` this chip's place
in it; `tails` holds the TAILs of its command queues at the DRYDOWN, `dryAt` its count. -/
structure Ctx where
  st : CtxSt
  part : Nat
  replay : Bool
  preempt : Bool
  preemptFor : List (Nat × Nat)
  notExact : Bool
  fallback : Bool
  fallbackNext : Bool
  prog : Option Binary
  fbProg : Option Binary
  fold : Nat
  gen : Nat
  heartBase : Nat
  heartSize : Nat
  baseBase : Nat
  baseSize : Nat
  poolHead : Nat
  started : Bool
  inStep : Bool
  phasesDone : Bool
  latched : EpochPtr
  drainCount : Nat
  draining : Bool
  snapReq : Bool
  testReq : Bool
  dry : Dry
  regions : List Region
  folds : List FlowFold
  suspect : Bool
  regionFault : Bool
  flowGot : List (Nat × Nat)
  verdicts : List VerdictIn
  prevCommitted : Bool
  runConfirmed : Nat
  snap : StepSnap
  cmds : List OpenCmd
  seqs : List SeqEntry
  withheld : List SeqEntry
  slots : List SlotEntry
  built : Bool
  closures : List Closure
  unconf : List Unconfirmed
  silent : List (Nat × Nat)
  ends : List (Nat × Nat)
  rollbacks : List (Nat × Nat)
  doRollback : List Nat
  keep : List (Nat × Nat)
  liveMask : Nat
  expelled : Bool
  auditPrev : List Byte
  savePhase : Nat
  savePtr : Bool
  saveTime : Nat
  ckpt : List (Nat × Nat × Nat)
  switchStep : Nat
  missRaised : Bool
  launchWait : List Nat
  maxStep : Nat
  again : Bool
  chips : List Nat
  vchip : Nat
  sealed_ : Bool
  dryAt : Nat
  buildPending : Bool
  tails : List (Nat × Nat)
  revert : Bool
  undo : Option Undo
  cmpNo : Nat
  cmpOpen : Bool
  cmpAt : Nat
  switchOk : Bool
deriving DecidableEq, Repr

/-! ### Faults, memory, time and the rest of the chip -/

/-- A blotter record (Table 13-1). -/
structure Rec where
  seq : Nat
  cls : Nat
  action : Nat
  level : Nat
  flags : Nat
  time : Nat
  unit : Nat
  ctx : Nat
  part : Nat
  instr : Nat
  step : Nat
  temp : Nat
  volt : Nat
  rail : Nat
  cause : Nat
  syn : List Byte
deriving DecidableEq, Repr

/-- An open recovery window (R296, R297): its level, its end and the SEQ of the record that opened it. -/
structure Window where
  level : Nat
  until_ : Nat
  seq : Nat
deriving DecidableEq, Repr

/-- What the firmware part of a recovery has to do (R299 to R302); a partition reset tears the named contexts down, those that held
the partition and those whose own teardown it has overtaken. -/
inductive RecoveryKind
  | teardown (ctx : Nat)
  | partReset (part : Nat) (ctxs : List Nat)
  | offline
  | taskRestart (task : Nat)
deriving DecidableEq, Repr

/-- An entry of the recovery queue; `time` is the count at which it entered. -/
structure Recovery where
  seq : Nat
  unit : Nat
  kind : RecoveryKind
  time : Nat
deriving DecidableEq, Repr

/-- A granule being filled (R156): tier (true: base), granule, the code words written so far in rising order. -/
structure Fill where
  base : Bool
  granule : Nat
  mask : List Nat
deriving DecidableEq, Repr

/-- What one monitor entry has received of one context in the step (R185): whether anything, status records, sum of
NONFINITE, whether its event was raised, the largest AMAX, whether any record was not all zero, zero and subnormal
elements, elements, and the owner of the latest write. -/
structure NoseIn where
  seen : Bool
  records : Nat
  nonfinite : Nat
  raised : Bool
  amax : Nat
  notZero : Bool
  z : Nat
  n : Nat
  owner : Nat
deriving DecidableEq, Repr

/-- An open write sequence (R363). -/
structure OpenSeq where
  key : Nat
  path : Path
  data : List Byte
deriving DecidableEq, Repr

/-- The time base besides its entries (chapter 10): G, the count of the latest correction, the measurements within the bound
in a row, the chip id of the grandmaster, the engine cycles counted since reset (R7), the organ positions that are hot, the counts that a hold adds when an entry
re-arms, the D of each group's latest thermal hold, and since when every sensor has been cool. -/
structure TimeBase where
  g : Nat
  lastCorr : Option Nat
  good : Nat
  master : Nat
  ec : Nat
  hot : List Nat
  holdD : List (Nat × Nat)
  holdUntil : List (Nat × Nat)
  coolSince : Option Nat
deriving DecidableEq, Repr

/-- A blotter record waits in the staging queue, at most 64 of them; `dropped` marks the next record's FLAGS bit 3;
`last` is the latest SEQ taken. -/
structure Blotter where
  staging : List Rec
  dropped : Bool
  last : Nat
deriving DecidableEq, Repr

/-- A frame that a port keeps until it is acknowledged (R239), whole: with the acknowledgement and the credit that it returns. -/
structure SentFrame where
  lseq : Nat
  pkt : Packet
  ack : LinkAck
  credit : Option (Fin 8 × Nat)
deriving DecidableEq, Repr

/-- A packet that waits for an output port: its virtual lane, the input it came from (16: local), whether SUSPECT. -/
structure QueuedPkt where
  lane : Nat
  input : Nat
  pkt : Packet
deriving DecidableEq, Repr

/-- A fabric port besides its entries (R239, R252, R253): sequence number of the next frame sent and expected, whether
frames are discarded until the negatively acknowledged one arrives, the replay buffer, the frame last replayed and how
often in succession, credits held per lane towards the partner, packets waiting on the virtual lanes, scheduled packets
waiting, the acknowledgement and the credits that its next frames return, the count at which its wire is free, the
frames put on the wire, oldest first, and PORT_CFG as of the latest training, which is in force (R262), or before any its default (DESIGN
CHOICE, log entry 229). -/
structure Port where
  txSeq : Nat
  rxSeq : Nat
  discarding : Bool
  replay : List SentFrame
  lastNak : Nat
  naks : Nat
  credits : List Nat
  waiting : List QueuedPkt
  sched : List QueuedPkt
  owe : LinkAck
  creditOut : List (Fin 8 × Nat)
  busyUntil : Nat
  wire : List Frame
  cfg : Nat
deriving DecidableEq, Repr

/-- The cursor and counters of a flow: send cursor and SEQ (R246), expected SEQ (R248). -/
structure FlowCount where
  cursor : Nat
  seq : Nat
  expect : Nat
deriving DecidableEq, Repr

/-- A host ring register block of BAR0 (R258, R259). -/
structure HostRing where
  base : Nat
  depthLog2 : Nat
  ctrl : Nat
  head : Nat
  tail : Nat
  errors : Nat
deriving DecidableEq, Repr

/-- A packet for the host that waits for a posted buffer of its ring (R259): the switch input whose credits it holds
(16: none), and whether its wait has been counted. -/
structure HeldPkt where
  ring : Nat
  input : Nat
  pkt : Packet
  stalled : Bool
deriving DecidableEq, Repr

/-- What the bridge writes into a host ring entry (Table 11-11): ring, ring index, the entry's host address, STATUS, BYTES. -/
structure HostEntry where
  ring : Nat
  index : Nat
  addr : Nat
  status : Nat
  bytes : Nat
deriving DecidableEq, Repr

/-- The bridge endpoint: transmit and receive rings, the MSI-X table and pending bits, the receive entries and packets
written to host memory and the transmit entries completed there (newest first), packets held for a buffer, vectors
signalled to the host (newest first), the address that the host gave BAR0, the bytes of the host's latest read, and of the
capabilities' registers the power state (0 D0, 3 D3hot), MSI-X Enable and Function Mask (bits 15 and 14), and the payload and
read-request sizes (bits 7 to 5 and 14 to 12). -/
structure Bridge where
  tx : SMap HostRing
  rx : SMap HostRing
  msixTable : SMap Nat
  msixPend : List Nat
  hostRx : List (HostEntry × Packet)
  hostTx : List HostEntry
  held : List HeldPkt
  signalled : List Nat
  bar0 : Nat
  readOut : List Byte
  power : Nat
  msixCtl : Nat
  devCtl : Nat
deriving DecidableEq, Repr

/-- The management target (chapter 16): I3C addresses, event enables, lengths, the latest response and interrupts. -/
structure I3c where
  dyn : Option Nat
  ibiEnabled : Bool
  mwl : Nat
  mrl : Nat
  lastOut : List Byte
  ibis : List (List Byte)
  mctpOut : List (List Byte)
deriving DecidableEq, Repr

/-- A management access: the latest answer (Table 16-4 status and bytes), the count at which the holdoff of R378 began and
whether the series advanced in it, the count of the latest IBI (R371), and the engine of the configuration check (index
references, a commit waiting, the count of the latest sweep). -/
structure Mgmt where
  answer : Nat × List Byte
  holdoff : Option Nat
  again : Bool
  ibiAt : Option Nat
  crcRefs : List (Nat × Nat)
  commitWait : Bool
  sweepAt : Option Nat
deriving DecidableEq, Repr

/-! ### Flacons, security, firmware, pins (chapters 13 to 15, 17) -/

/-- The running digest of a layer that LOAD armed or a decant copies (R324, R329). -/
structure LayerFold where
  layer : Nat
  acc : Nat
  blocks : Nat
deriving DecidableEq, Repr

/-- A weight set besides its entries (R314, R322, R329, R332): the manifest bytes its heart range and its staging range
are bound by, the manifest under verification, the sums being folded, the SEAL and the decant copy in progress, the layers of the
staging range that are not intact, and whether the set has FAILED since it was last ACTIVE. -/
structure WeightSet where
  active : List Byte
  staged : List Byte
  verifying : Option (List Byte)
  folds : List LayerFold
  sealing : Bool
  copying : Bool
  copyNext : Nat
  copyRetry : Bool
  copyBegan : Nat
  stagedIntact : Bool
  damaged : List Nat
  failed : Bool
deriving DecidableEq, Repr

/-- What a status write carries that is reported only when it is complete (R305, R310, R321, R357). -/
inductive FlashJob
  | fence (unit : Nat)
  | slice (n : Nat)
  | unfence (unit : Nat)
  | granule (base : Bool) (granule : Nat)
  | sdc
  | keyslot (blown : Bool)
  | activeSlot (slot : Nat)
deriving DecidableEq, Repr

/-- The security engines besides their entries (R321, R334): the counter of the last accepted KEYSLOT_WRITE, the blown
slot-0 fuse banks, lowest first, the nonce of the attestation in progress and the REPORT_SEQ of the latest report. -/
structure Security where
  counter : Nat
  banks : List Nat
  nonce : Option (List Byte)
  reportSeq : Nat
  locked : Bool
deriving DecidableEq, Repr

/-- A core of the firmware complex (R336): its mode, machine or user, and its 16 PMP regions, each its configuration and address. -/
structure FwCore where
  machine : Bool
  pmp : List (Nat × Nat)
deriving DecidableEq, Repr

/-- The persistent area in field form (Table 15-1): valid CRC, WARM_INTENT, TEST_LAST with the SEQ of the record of that test (R309),
the WSET_CFG and WSET_STATE of every set, the PHY calibration, and of each port its training state: PORT_STATE and the PORT_CFG in
force. -/
structure Persist where
  valid : Bool
  warmIntent : Bool
  testLast : List Nat
  passSeq : List (Nat × Nat)
  wsets : List (Nat × Nat)
  phy : List Nat
  ports : List (Nat × Nat)
deriving DecidableEq, Repr

/-- The firmware complex besides its entries (chapter 15): the SRAM and flash bytes, the status record's SEQ, ATTEMPT,
IMAGE_LAST and SDC_FIRST, the status writes queued, the task faults within WINDOW_FW, whether a watchdog has missed,
the TAILs of the response rings, the heart map's image, the persistent area, the status record as last read, the heart
rate in force (OD 0x3000.02 takes effect at the next cold start), the ring that is visited next (R341), the six cores, the calibration of
the memory PHYs, and whether stacks and DIMMs are in self-refresh (R351). -/
structure Firmware where
  sram : Memory
  flash : Memory
  recSeq : Nat
  attempt : Nat
  imageLast : Nat
  sdcFirst : Nat
  jobs : List FlashJob
  taskFaults : List (Nat × Nat)
  missed : Bool
  respTail : List Nat
  mapImage : List (Nat × Bool)
  persist : Persist
  recordRead : List Byte
  heartRate : Nat
  nextRing : Nat
  cores : List FwCore
  phy : List Nat
  selfRefresh : Bool
deriving DecidableEq, Repr

/-- The pins and power monitors (chapter 17): the phase change in progress (new phase; PHASE has changed), whether the pins are
driven in their meaning, HEARTBEAT's level, FAULT_N and THERM_N asserted, the counts of SYNC_OUT's latest edge and of
HEARTBEAT's latest toggle, of the flash window that is open or was the last, the rails outside their range, the straps seen
before the latch, whether STRAP_GLITCH's record is still to be written, and the DUMP port's cycle, frame number and entry count. -/
structure Pins where
  change : Option (Nat × Bool)
  driven : Bool
  heartbeat : Bool
  faultN : Bool
  thermN : Bool
  syncEdge : Nat
  beat : Option Nat
  window : Option Nat
  lastWindow : Option Nat
  railsOut : List Nat
  glitchRecord : Bool
  strapped : Bool
  d2dOk : Bool
  identityOnly : Bool
  shortDump : Bool
  fatalSeq : Nat
  dumpG : Nat
  dumpCycle : Nat
  dumpSeq : Nat
  dumpOut : List Byte
deriving DecidableEq, Repr

/-- Why an in-field test runs: it fell due or was asked for, or it was forced (R306, R308, R310). -/
inductive TestKind | scheduled | forced
deriving DecidableEq, Repr

/-- Tests and long jobs in progress: accord tests (accord, kind, count of the beginning), the accords that are due with the
count at which each fell due, those forced and waiting, the contexts that a forced test pre-empted, those whose live ranges a test
in a test window has saved (R307), the SEQ of each accord's
last TEST_PASS record, the accords that a quarantine has still to see pass, the unit whose fencing waits for its status write,
the unit whose unfencing is tested, the request of a running audit, and the VMAP_DISCARD value. -/
structure Jobs where
  tests : List (Nat × TestKind × Nat)
  due : List (Nat × Nat)
  forced : List Nat
  resume : List Nat
  winSaved : List Nat
  passSeq : List (Nat × Nat)
  quar : Option (List Nat)
  fencing : Option Nat
  unfence : Option Nat
  audit : Option (List Byte)
  discard : Option Nat
deriving DecidableEq, Repr

/-- The device. `unacked` holds the LAUNCH packets that await an acknowledgement, with the count of their latest sending
(R255); `outbox` packets of this chip not yet at a port, `inbox` packets delivered to it whose command has not come,
`flowCache` the pinned flow entries (R243), `heldCompl` the completion entries held back, with their queue (R198). -/
structure State where
  pending : List Instr
  free : Nat
  od : SMap Nat
  seqs : List OpenSeq
  time : TimeBase
  blot : Blotter
  windows : SMap (Option Window)
  recQ : List Recovery
  unitFences : List Nat
  granFences : List (Bool × Nat)
  granHist : SMap (List Nat)
  unitHist : SMap (List (Nat × Nat))
  ceWin : SMap Nat
  heart : Memory
  base : Memory
  heartValid : SMap Bool
  baseValid : SMap Bool
  fills : List Fill
  scrubL : SMap Nat
  scrubPend : SMap Bool
  wback : List (Bool × Nat)
  chipGrants : SMap (Option Grant)
  acc : Vector Accord 16
  codec : List CodecRun
  guard : Vector Guard 16
  ctx : SMap Ctx
  cache : List Nat
  marks : List (Nat × Nat × Nat)
  heldCompl : List (Nat × List Byte)
  noseIn : SMap NoseIn
  ports : Vector Port 16
  flows : SMap FlowCount
  flowCache : List (Nat × Nat)
  outbox : List Packet
  inbox : List Packet
  unacked : List (Packet × Nat)
  bridge : Bridge
  i3c : I3c
  mgmt : Mgmt
  wsets : Vector WeightSet 16
  sec : Security
  fw : Firmware
  pins : Pins
  jobs : Jobs
deriving DecidableEq, Repr

/-! ### Reset -/

/-- An idle matrix engine with an empty array. -/
def Engine.reset : Engine := ⟨[], [], 0, 0, 0, [], []⟩
/-- An idle vector engine. -/
def VecEngine.reset : VecEngine := ⟨[], [], [], [], 0, 0, 0⟩
/-- An idle access engine. -/
def AccessEngine.reset : AccessEngine := ⟨0, []⟩
/-- A DMA channel that has run nothing. -/
def Channel.reset : Channel := ⟨0, 0, 0, 0, [], []⟩
/-- A preparer core that has run nothing: the monitor, in machine mode, holds it (R84). -/
def Core.reset : Core := ⟨none, [], [], [], 0, 0, 2 ^ 63, 0, [], true, [], none, [], []⟩
/-- An accord with every store at zero. -/
def Accord.reset : Accord :=
  { top := [], accum := [], rowTags := [], stamps := [], landing := [], eng := Vector.replicate 4 Engine.reset, ve := VecEngine.reset,
    tasks := [], cores := Vector.replicate 4 Core.reset, tokq := [], access := Vector.replicate 2 AccessEngine.reset,
    chan := Vector.replicate 8 Channel.reset, grants := [], froze := [] }
/-- A guard between steps. -/
def Guard.reset : Guard := ⟨0, 0, 0, [], false, false, false, false, [], 0, false, 0, 0, 0, 0⟩
/-- A port before training: no credits, nothing sent. -/
def Port.reset : Port := ⟨0, 0, false, [], 0, 0, List.replicate 8 0, [], [], .none, [], 0, [], 2 ^ 30⟩
/-- An EMPTY weight set. -/
def WeightSet.reset : WeightSet := ⟨[], [], none, [], false, false, 0, false, 0, false, [], false⟩
/-- The time base at count zero. -/
def TimeBase.reset : TimeBase := ⟨0, none, 0, 0, 0, [], [], [], none⟩

/-- A firmware core after reset: machine mode, every PMP region off (log entry 234). -/
def FwCore.reset : FwCore := ⟨true, List.replicate 16 (0, 0)⟩
/-- The persistent area of zeros. -/
def Persist.reset : Persist := ⟨false, false, List.replicate 16 0, [], [], [], []⟩

/-- The device after reset (R364, R404): every object-dictionary entry at its default, every memory empty, every context
FREE, G zero, nothing pending. Values the manual does not state are named in log entries 5 to 8. -/
def State.reset : State :=
  { pending := [], free := 0, od := [], seqs := [], time := TimeBase.reset, blot := ⟨[], false, 0⟩, windows := [],
    recQ := [], unitFences := [], granFences := [], granHist := [], unitHist := [], ceWin := [],
    heart := [], base := [], heartValid := [], baseValid := [], fills := [], scrubL := [], scrubPend := [], wback := [],
    chipGrants := [], acc := Vector.replicate 16 Accord.reset, codec := [], guard := Vector.replicate 16 Guard.reset,
    ctx := [], cache := [], marks := [], heldCompl := [], noseIn := [], ports := Vector.replicate 16 Port.reset, flows := [],
    flowCache := [], outbox := [], inbox := [], unacked := [], bridge := ⟨[], [], [], [], [], [], [], [], 0, [], 0, 0, 2 ^ 13⟩,
    i3c := ⟨none, false, 64, 64, [], [], []⟩, mgmt := ⟨(0, []), none, false, none, [], false, none⟩,
    wsets := Vector.replicate 16 WeightSet.reset, sec := ⟨0, [], none, 0, false⟩,
    fw := ⟨[], [], 0, 0, 0, 0, [], [], false, List.replicate 8 0, [], Persist.reset, [], 10, 0, List.replicate 6 FwCore.reset, [], false⟩,
    pins := ⟨none, true, false, false, false, 0, none, none, none, [], false, true, true, false, false, 0, 0, 0, 0, []⟩,
    jobs := ⟨[], [], [], [], [], [], none, none, none, none, none⟩ }

end Sys2Proof.Machine
end

