-- ==== Sys2Proof/Machine/Ops.lean ====
section
/-!
DEFINITION. The named operations that every family shares: dictionary values, events and counters (chapters 10, 16),
blotter records and faults (chapter 13), free values, units, contexts and partitions.
-/
namespace Sys2Proof.Machine

/-! ### Dictionary values -/

/-- The stored value of an entry. -/
def State.odGet (s : State) (k : Nat) : Nat := SMap.get odDefault s.od k
/-- Store the value of an entry. -/
def State.odSet (s : State) (k v : Nat) : State := { s with od := SMap.set odDefault s.od k v }
/-- Bits `[hi:lo]` of an entry. -/
def State.odBits (s : State) (k hi lo : Nat) : Nat := bits (s.odGet k) hi lo
/-- Store bits `[hi:lo]` of an entry. -/
def State.odSetBits (s : State) (k hi lo v : Nat) : State := s.odSet k (setBits (s.odGet k) hi lo v)
/-- Store one bit of an entry. -/
def State.odSetBit (s : State) (k n : Nat) (b : Bool) : State := s.odSetBits k n n (b2n b)
/-- Bit `n` of an entry. -/
def State.odBit (s : State) (k n : Nat) : Bool := bit (s.odGet k) n

/-- Keep the listed bit ranges `[hi:lo]` of a value: reserved bits read as zero (R10). -/
def keepBits (v : Nat) (l : List (Nat × Nat)) : Nat := l.foldl (fun w q => setBits w q.1 q.2 (bits v q.1 q.2)) 0

/-- `n` copies of a pattern of `w` bits. -/
def repeated (n w pat : Nat) : Nat := (2 ^ (n * w) - 1) / (2 ^ w - 1) * pat

/-- The global counter G (R215). -/
def State.g (s : State) : Nat := s.time.g

/-! ### Free values -/

/-- A free word, and the state with the counter advanced (log entry 2). -/
def State.drawWord (s : State) : W32 × State := (Config.freeWord s.free, { s with free := s.free + 1 })
/-- A free number. -/
def State.drawNat (s : State) : Nat × State := (Config.freeNat s.free, { s with free := s.free + 1 })
/-- A free truth value. -/
def State.drawBool (s : State) : Bool × State := (Config.freeBool s.free, { s with free := s.free + 1 })
/-- `n` free words. -/
def freeWords (k n : Nat) : List W32 := (List.range n).map fun i => Config.freeWord (k + i)
/-- `n` free bytes. -/
def freeBytes (k n : Nat) : List Byte := (freeWords k n).map fun w => w.setWidth 8
/-- Advance the counter past `n` values. -/
def State.skipFree (s : State) (n : Nat) : State := { s with free := s.free + n }

/-! ### Grade, stepping, units -/

/-- The PMV-1632 (R2). -/
def State.reduced (s : State) : Bool := s.odGet kGrade == 1
/-- The number of accords (Table 0-1). -/
def State.accords (s : State) : Nat := if s.reduced then 12 else 16
/-- Accord `a` is a unit of the device (R3). -/
def State.hasAccord (s : State) (a : Nat) : Bool := decide (a < s.accords)
/-- The die of a logical accord: 0 west, 1 east (R4). -/
def State.dieOf (s : State) (a : Nat) : Nat := if a < s.accords / 2 then 0 else 1
/-- The stepping's accumulator read-out latency (R59). -/
def State.lrd (s : State) : Nat := if s.odGet kStepping = 0 then 4 else 6
/-- The units run: PHASE is RUN, or BOOT for the length of a flash window and its transitions, and no FATAL decision has been
taken (R303, R382, R387). -/
def State.live (s : State) : Bool :=
  match s.pins.change with
  | some (3, _) => false
  | some (2, _) => true
  | _ => s.odGet kPhase == 2 || s.pins.window.isSome
/-- The bridge-enable strap is set (R237). -/
def State.isBridge (s : State) : Bool := s.odGet kBridgeEnabled == 1

/-- The core clocks are halved (R231). -/
def State.halved (s : State) : Bool := s.odBit kClockState 0

/-- Run a body only in the RUN phase; in any other phase the units are stopped and nothing happens (R303, R382). -/
def whenLive (s : State) (f : State) : State := if s.live then f else s

/-! ### Unit ids (Table 13-2) -/

/-- A unit id from its kind and index. -/
def unitId (kind index : Nat) : Nat := kind * 1024 + index
/-- The accord a unit belongs to, for the kinds of an accord. -/
def unitAccord (u : Nat) : Option Nat :=
  let i := u % 1024
  match u / 1024 with
  | 1 => some (i / 4)
  | 2 => some i
  | 3 => some (i / 4)
  | 4 => some (i / 2)
  | 5 => some (i / 8)
  | 6 => some i
  | _ => none
/-- The junction sensor of a place on an accord (Table 17-9), from its physical position (R4). -/
def State.accordSensor (s : State) (a : Nat) : Nat :=
  let p := s.odGet (kAccordPhys a)
  p / 128 * 8 + p % 8 / 2
/-- The die of a unit, 0 for a unit of no die. -/
def State.unitDie (s : State) (u : Nat) : Nat :=
  let i := u % 1024
  match unitAccord u with
  | some a => s.odGet (kAccordPhys a) / 128
  | none =>
    match u / 1024 with
    | 7 => i / 32 / 4
    | 8 => i / 8
    | 9 => i / 8
    | 10 => i
    | 12 => if i = 4 then 1 else 0
    | _ => 0
/-- The sensor whose area holds a unit (R395, Table 17-9). Units that the table does not place are read with the die's
bridge sensor (log entry 26). -/
def State.unitSensor (s : State) (u : Nat) : Nat :=
  match unitAccord u with
  | some a => s.accordSensor a
  | none =>
    match u / 1024 with
    | 7 => s.unitDie u * 8 + 4
    | 8 => s.unitDie u * 8 + 5
    | 9 => s.unitDie u * 8 + 6
    | 11 => 7
    | 13 => 7
    | _ => s.unitDie u * 8 + 7
/-- The nearest rail of a unit (R394). -/
def State.unitRail (s : State) (u : Nat) : Nat :=
  match u / 1024 with
  | 7 => 11
  | 8 => 8
  | 9 => 9
  | 10 => 4
  | 11 => 5
  | 13 => 5
  | 0 => 5
  | _ => s.unitDie u

/-! ### Events and counters (R377, R232) -/

/-- The areas of Table 16-8, by their EVENT_SUMMARY bit. -/
inductive Area | time | pins | dict | me | ve | pc | top | guard | mem | fabric | bridge | ctx | blot | nose | sil | fw | sec
  | flacon
deriving DecidableEq, Repr

/-- The EVENT_SUMMARY bit of an area. -/
def Area.bitNo : Area → Nat
  | .time => 0 | .pins => 1 | .dict => 2 | .me => 3 | .ve => 4 | .pc => 5 | .top => 6 | .guard => 7 | .mem => 8
  | .fabric => 9 | .bridge => 10 | .ctx => 11 | .blot => 12 | .nose => 13 | .sil => 14 | .fw => 15 | .sec => 16
  | .flacon => 17
/-- The ERR_STATUS entry of an area. -/
def Area.status : Area → Nat
  | .time => kTimeErrStatus | .pins => kPinsErrStatus | .dict => kOdErrStatus | .me => kMeErrStatus
  | .ve => kVeErrStatus | .pc => kPcErrStatus | .top => kTopErrStatus | .guard => kGuardErrStatus
  | .mem => kMemErrStatus | .fabric => kFabricErrStatus | .bridge => kBridgeErrStatus | .ctx => kCtxErrStatus
  | .blot => kBlotErrStatus | .nose => kNoseErrStatus | .sil => kSilErrStatus | .fw => kFwErrStatus
  | .sec => kSecErrStatus | .flacon => kFlaconErrStatus
/-- The ERR_SEQ entry of an area. -/
def Area.seq : Area → Nat
  | .time => kTimeErrSeq | .pins => kPinsErrSeq | .dict => kOdErrSeq | .me => kMeErrSeq
  | .ve => kVeErrSeq | .pc => kPcErrSeq | .top => kTopErrSeq | .guard => kGuardErrSeq
  | .mem => kMemErrSeq | .fabric => kFabricErrSeq | .bridge => kBridgeErrSeq | .ctx => kCtxErrSeq
  | .blot => kBlotErrSeq | .nose => kNoseErrSeq | .sil => kSilErrSeq | .fw => kFwErrSeq
  | .sec => kSecErrSeq | .flacon => kFlaconErrSeq

/-- The next value of a series of R401: 32 bits, never 0. -/
def nextSeq (v : Nat) : Nat := if (v + 1) % 2 ^ 32 = 0 then 1 else (v + 1) % 2 ^ 32
/-- `a` is later than `b` (R233). -/
def laterSeq (a b : Nat) : Bool :=
  let d := (a + 2 ^ 32 - b % 2 ^ 32) % 2 ^ 32
  decide (1 ≤ d ∧ d ≤ 2 ^ 31 - 1)

/-- Bytes 0 to 27 of a packet header (Table 11-2). -/
def pktHeader (p : Packet) : List Byte :=
  leBytes 28 (p.srcChip % 2 ^ 16 * 2 ^ 2 + p.dstChip % 2 ^ 16 * 2 ^ 18 + p.dstQueue % 2 ^ 14 * 2 ^ 34
    + p.flow % 2 ^ 20 * 2 ^ 48 + p.rtag % 2 ^ 7 * 2 ^ 68 + b2n p.last * 2 ^ 75 + b2n p.ackreq * 2 ^ 76
    + b2n p.mcast * 2 ^ 77 + b2n p.fence * 2 ^ 78 + p.cls % 2 ^ 4 * 2 ^ 79 + p.len % 2 ^ 13 * 2 ^ 83
    + p.opcode % 2 ^ 4 * 2 ^ 96 + p.epoch % 2 ^ 16 * 2 ^ 100 + p.tier % 2 ^ 2 * 2 ^ 116 + p.addr % 2 ^ 42 * 2 ^ 118
    + p.aux.toNat * 2 ^ 160 + p.seq.toNat * 2 ^ 192)
/-- The payload of an opcode is covered by the packet's CRC (Table 11-3). -/
def checkedOp (op : Nat) : Bool := op != 1 && op != 3 && op != 7
/-- The CRC of a packet (R241). -/
def pktCrc (p : Packet) : Nat := crc32c (pktHeader p ++ if checkedOp p.opcode then p.payload else [])
/-- A packet with its CRC. -/
def pktSeal (p : Packet) : Packet := { p with crc := BitVec.ofNat 32 (pktCrc p) }

/-- Queue a packet for local injection on its virtual lane. -/
def State.send (s : State) (p : Packet) : State := { s with outbox := s.outbox ++ [pktSeal p] }

/-- The counters of a flow that has carried nothing. -/
def flowDefault : Nat → FlowCount := fun _ => ⟨0, 0, 0⟩
/-- Send a packet on flow 0 with the flow's next SEQ. -/
def State.sendMgmt (s : State) (p : Packet) : State :=
  let x := SMap.get flowDefault s.flows 0
  { s with flows := SMap.set flowDefault s.flows 0 { x with seq := (x.seq + 1) % 2 ^ 32 } }.send
    { p with seq := BitVec.ofNat 32 x.seq }

/-- The header fields of a management packet of the chip itself: flow 0, virtual lane 7 (R253). -/
def mgmtPacket (src dst opcode : Nat) (addr : Nat) (payload : List Byte) : Packet :=
  { crc := 0, seq := 0, aux := 0, addr := addr, tier := 2, epoch := 0, opcode := opcode, len := payload.length, cls := 7,
    fence := false, mcast := false, ackreq := false, last := false, rtag := 0, flow := 0, dstQueue := 0, dstChip := dst,
    srcChip := src, payload := payload, suspect := false }

/-- An MSI-X table entry after reset: masked, as PCI Express has it (log entry 9). -/
def msixDefault : Nat → Nat := fun _ => 2 ^ 96
/-- The endpoint may signal a vector: it is in D0, MSI-X is enabled, and neither the function nor the entry masks it (bit 0 of the
vector control word, bit 96 of the entry). PRESUMED: PCI Express, log entry 9. -/
def Bridge.msixOpen (b : Bridge) (v : Nat) : Bool :=
  b.power == 0 && bit b.msixCtl 15 && !bit b.msixCtl 14 && !bit (SMap.get msixDefault b.msixTable (v % 2048)) 96
/-- Signal a vector on the bridge chip as its MSI-X table entry prescribes (R260): masked it becomes pending, else it is signalled. -/
def State.signalVector (s : State) (v : Nat) : State :=
  let b := s.bridge
  if b.msixOpen v then { s with bridge := { b with signalled := (v % 2048) :: b.signalled } }
  else if b.msixPend.contains (v % 2048) then s
  else { s with bridge := { b with msixPend := (v % 2048) :: b.msixPend } }

/-- Raise an MSI-X vector (R260): on the bridge chip directly, else by an OD_WRITE to MSIX_RAISE of the bridge chip. -/
def State.raiseVector (s : State) (v : Nat) : State :=
  if s.isBridge then s.signalVector v
  else s.sendMgmt (mgmtPacket (s.odGet kChipId) (Config.bridgeChipId (s.odGet kChipId)) 6 kMsixRaise (leBytes 2 v))

/-- The IBI of an advance of EVENT_SEQ (R371): to a target with a dynamic address and events enabled, at most once per
EVENT_IRQ_HOLDOFF. -/
def State.raiseIbi (s : State) : State :=
  let held := match s.mgmt.ibiAt with
    | some t => decide (s.g < t + s.odGet kEventIrqHoldoff)
    | none => false
  if s.i3c.ibiEnabled && s.i3c.dyn.isSome && !held then
    { s with i3c := { s.i3c with ibis := s.i3c.ibis ++ [(0x01#8) :: leBytes 4 (s.odGet kEventSeq)] },
             mgmt := { s.mgmt with ibiAt := some s.g } }
  else s
/-- What an advance of EVENT_SEQ does outside the area (R371, R378): the vector at most once per holdoff. -/
def State.eventAdvance (s : State) : State :=
  let s1 := if s.odBit kEventIrq 15 then
      (if s.mgmt.holdoff.isSome then { s with mgmt := { s.mgmt with again := true } }
       else let s0 := s.raiseVector (s.odBits kEventIrq 10 0)
            { s0 with mgmt := { s0.mgmt with holdoff := some s.g } })
    else s
  s1.raiseIbi

/-- An event (R377): the bit of its area, the next value of the series into EVENT_SEQ and the area's ERR_SEQ, and the
area's bit of EVENT_SUMMARY. -/
def State.event (s : State) (a : Area) (n : Nat) : State :=
  let v := nextSeq (s.odGet kEventSeq)
  let s1 := (s.odSet a.status (setBit (s.odGet a.status) n)).odSet a.seq v
  let s2 := (s1.odSet kEventSeq v).odSet kEventSummary (setBit (s1.odGet kEventSummary) a.bitNo)
  s2.eventAdvance

/-- The largest value of a counter entry. -/
def counterMax (k : Nat) : Nat :=
  match odFind (k / 256) (k % 256) with
  | some r => 256 ^ r.size - 1
  | none => 0

/-- Add to an event counter (Table 10-5): it saturates, and reaching the largest value raises COUNTER_SAT once, with
LAST_SAT naming it. -/
def State.bump (s : State) (k n : Nat) : State :=
  let old := s.odGet k
  let top := counterMax k
  if top ≤ old then s
  else if old + n < top then s.odSet k (old + n)
  else ((s.odSet k top).odSet kLastSat (k / 256 * 2 ^ 16 + k % 256 * 2 ^ 8)).event .time 6

/-- Raise a maximum entry to `v`: it behaves at its largest value as `bump` does. -/
def State.raiseMax (s : State) (k v : Nat) : State := s.bump k (v - s.odGet k)

/-! ### Access statuses (R368, Table 16-4) -/

/-- The status and the bytes that the latest access returns. -/
def State.answer (s : State) (st : Nat) (bs : List Byte) : State := { s with mgmt := { s.mgmt with answer := (st, bs) } }
/-- An access ends with a status other than OK: DENIED, BAD_LENGTH and BAD_VALUE are counted (Table 16-9). -/
def State.refuse (s : State) (st : Nat) : State :=
  (if 2 ≤ st ∧ st ≤ 4 then s.bump kAccessRefused 1 else s).answer st []
/-- A write to a CFG entry (R375): the check is OPEN, but stays in DRIFT until a commit succeeds, and a commit that waits for
its sweep ends with CHANGED. -/
def State.cfgTouched (s : State) : State :=
  let s1 := if s.odGet kConfigState = 2 then s else s.odSet kConfigState 0
  if s1.mgmt.commitWait then
    ({ s1 with mgmt := { s1.mgmt with commitWait := false } }.odSet kConfigCommit 3).event .dict 1
  else s1

/-! ### Partitions and contexts -/

/-- An empty region snapshot. -/
def StepSnap.empty : StepSnap := ⟨[], []⟩

/-- A context with no binary. -/
def Ctx.empty : Ctx :=
  { st := .free, part := 0, replay := false, preempt := false, preemptFor := [], notExact := false, fallback := false,
    fallbackNext := false, prog := none, fbProg := none, fold := 0, gen := 0, heartBase := 0,
    heartSize := 0, baseBase := 0, baseSize := 0, poolHead := 0, started := false, inStep := false,
    phasesDone := false, latched := ⟨0, 0, 0⟩, drainCount := 0, draining := false,
    snapReq := false, testReq := false, dry := .none, regions := [], folds := [], 
    suspect := false, regionFault := false, flowGot := [], verdicts := [],
    prevCommitted := true, runConfirmed := 0, snap := StepSnap.empty, cmds := [], seqs := [], withheld := [], slots := [],
    built := false, closures := [], unconf := [], silent := [], ends := [], rollbacks := [], doRollback := [],
    keep := [], liveMask := 1, expelled := false, auditPrev := [], savePhase := 0, savePtr := false, saveTime := 0,
    ckpt := [], switchStep := 0, missRaised := false, launchWait := [], 
    maxStep := 0, again := false, chips := [], vchip := 0, sealed_ := false, dryAt := 0, buildPending := false, tails := [],
    revert := false, undo := none, cmpNo := 0, cmpOpen := false, cmpAt := 0, switchOk := false }

/-- What an unlisted context reads as. -/
def ctxDefault : Nat → Ctx := fun _ => Ctx.empty

/-- Context `c`. -/
def State.ctxAt (s : State) (c : Nat) : Ctx := SMap.get ctxDefault s.ctx c
/-- Replace context `c`. -/
def State.setCtx (s : State) (c : Nat) (x : Ctx) : State := { s with ctx := SMap.set ctxDefault s.ctx c x }
/-- Change context `c`. -/
def State.modCtx (s : State) (c : Nat) (f : Ctx → Ctx) : State := s.setCtx c (f (s.ctxAt c))

/-- Partition `p` is formed (R192). -/
def State.formed (s : State) (p : Nat) : Bool := s.odGet (kPartState p) == 1
/-- Accord `a` is named by partition `p`'s mask. -/
def State.inPart (s : State) (p a : Nat) : Bool := s.odBit (kPartMask p) a
/-- The partition that an accord belongs to. -/
def State.partOf (s : State) (a : Nat) : Option Nat :=
  (List.range 16).find? fun p => s.formed p && s.inPart p a
/-- The accords of a partition in increasing number. -/
def State.accordsOf (s : State) (p : Nat) : List Nat := (List.range 16).filter fun a => s.inPart p a
/-- The state of the context that holds its partition: RUNNING, SAVING or RESTORING. -/
def CtxSt.holds : CtxSt → Bool
  | .running | .saving | .restoring => true
  | _ => false
/-- The context that runs on a partition (R191: at most one). -/
def State.runningOn (s : State) (p : Nat) : Option Nat :=
  (s.ctx.find? fun e => e.2.st == .running && e.2.part == p).map Prod.fst
/-- The context that runs on an accord. -/
def State.ctxOn (s : State) (a : Nat) : Option Nat :=
  match s.partOf a with
  | some p => s.runningOn p
  | none => none
/-- A context is bound to the partition (loaded, in any state but FREE). -/
def State.boundTo (s : State) (p : Nat) : List Nat :=
  (s.ctx.filter fun e => e.2.st != .free && e.2.part == p).map Prod.fst
/-- The step counter of a context. -/
def State.stepOf (s : State) (c : Nat) : Nat := s.odGet (kCtxStep c)

/-- The guard of partition `p`. -/
def State.guardAt (s : State) (p : Nat) : Guard := s.guard[p % 16]'(Nat.mod_lt _ (by decide))
/-- Replace the guard of partition `p`. -/
def State.setGuard (s : State) (p : Nat) (x : Guard) : State :=
  { s with guard := s.guard.set (p % 16) x (Nat.mod_lt _ (by decide)) }
/-- Change the guard of partition `p`. -/
def State.modGuard (s : State) (p : Nat) (f : Guard → Guard) : State := s.setGuard p (f (s.guardAt p))
/-- Accord `a`. -/
def State.accAt (s : State) (a : Nat) : Accord := s.acc[a % 16]'(Nat.mod_lt _ (by decide))
/-- Replace accord `a`. -/
def State.setAcc (s : State) (a : Nat) (x : Accord) : State :=
  { s with acc := s.acc.set (a % 16) x (Nat.mod_lt _ (by decide)) }
/-- Change accord `a`. -/
def State.modAcc (s : State) (a : Nat) (f : Accord → Accord) : State := s.setAcc a (f (s.accAt a))

/-! ### Fences -/

/-- A unit is fenced (R304). -/
def State.isFenced (s : State) (u : Nat) : Bool := s.unitFences.contains u
/-- The units of accord `a` whose fence fences the accord (R304): all kinds but preparer cores. -/
def accordUnits (a : Nat) : List Nat :=
  (List.range 4).map (fun e => unitId 1 (4 * a + e)) ++ [unitId 2 a] ++ (List.range 2).map (fun e => unitId 4 (2 * a + e))
    ++ (List.range 8).map (fun c => unitId 5 (8 * a + c)) ++ [unitId 6 a]
/-- Accord `a` is fenced. -/
def State.accordFenced (s : State) (a : Nat) : Bool := (accordUnits a).any s.isFenced
/-- Preparer core `k` of accord `a` is fenced. -/
def State.coreFenced (s : State) (a k : Nat) : Bool := s.isFenced (unitId 3 (4 * a + k))

/-! ### Blotter (R294) -/

/-- A two's complement value in 12 bits. -/
def twos12 (v : Nat) : Nat := v % 4096

/-- The temperature field of a record for a sensor. -/
def State.tempField (s : State) (sensor : Nat) : Nat := sensor * 4096 + twos12 (s.odGet (kSensorTemp sensor))

/-- FLAGS bit 1 of a record of a context: it is raised during a replay (Table 13-1). -/
def State.replayBit (s : State) : Option Nat → Nat
  | some c => if (s.ctxAt c).again || (s.ctxAt c).replay then 2 else 0
  | none => 0
/-- A record before it enters the staging queue; the step is that of its context, temperature, voltage and rail those of
the unit (R394, R395). -/
def State.mkRec (s : State) (cls action level flags unit : Nat) (ctx part : Option Nat) (instr cause : Nat)
    (syn : List Byte) : Rec :=
  { seq := 0, cls := cls, action := action, level := level, flags := flags ||| s.replayBit ctx, time := s.g, unit := unit,
    ctx := ctx.getD 0xFF, part := part.getD 0xFF, instr := instr,
    step := match ctx with
      | some c => s.stepOf c
      | none => 0,
    temp := s.tempField (s.unitSensor unit), volt := s.odGet (kRailMv (s.unitRail unit)), rail := s.unitRail unit,
    cause := cause, syn := (syn ++ List.replicate 24 0).take 24 }

/-- Put a record into the staging queue (R294): it takes the next SEQ and the dropped mark; a full queue drops it. -/
def State.blotAdd (s : State) (r : Rec) : State :=
  if 64 ≤ s.blot.staging.length then
    ({ s with blot := { s.blot with dropped := true } }.bump kBlotterDropped 1).event .blot 9
  else
    let q := nextSeq s.blot.last
    let r' := { r with seq := q, flags := if s.blot.dropped then r.flags ||| 8 else r.flags }
    { s with blot := { staging := s.blot.staging ++ [r'], dropped := false, last := q } }

/-- The 64 bytes of a record (Table 13-1). -/
def Rec.bytes (r : Rec) : List Byte :=
  leBytes 4 r.seq ++ leBytes 1 r.cls ++ leBytes 1 r.action ++ leBytes 1 r.level ++ leBytes 1 r.flags ++ leBytes 8 r.time
    ++ leBytes 2 r.unit ++ leBytes 1 r.ctx ++ leBytes 1 r.part ++ leBytes 4 r.instr ++ leBytes 6 r.step
    ++ leBytes 2 r.temp ++ leBytes 2 r.volt ++ leBytes 1 r.rail ++ [0] ++ leBytes 4 r.cause ++ r.syn

/-! ### Faults (R295 to R303) -/

/-- The end of a LATE_OPERAND freeze of the context that runs on partition `p`, which lasted `n` ec (R111, Table 5-12). A freeze of
R110 that fell in it adds what it lasts beyond it. -/
def State.endFreeze (s : State) (p c n : Nat) : State :=
  let all := max n (s.guardAt p).tolEc
  ((s.modGuard p fun g => { g with lateFrozen := false, waiting := [], tolEc := 0, held := g.held + all }).raiseMax
    kLateOperandMax n).bump (kCtxFreezeEc c) all
/-- The ec that a LATE_OPERAND freeze has lasted: those counted since it began (R7). -/
def State.frozenFor (s : State) (p : Nat) : Nat := s.time.ec - (s.guardAt p).frozenEc
/-- The immediate hardware stop of a context (R300): it enters STOPPED, its guard issues nothing more; a freeze that it was in
ends and counts. -/
def State.stopCtx (s : State) (c : Nat) : State :=
  let x := s.ctxAt c
  if x.st = .free then s
  else
    let s1 := if x.st = .running ∧ (s.guardAt x.part).lateFrozen then (s.modGuard x.part fun g => { g with tolEc := 0 }).endFreeze x.part c (s.frozenFor x.part) else s
    s1.modCtx c fun x => { x with st := .stopped, preempt := false }
/-- Stop several contexts. -/
def State.stopAll (s : State) (l : List Nat) : State := l.foldl State.stopCtx s

/-- The contexts of a partition that hold it. -/
def State.holding (s : State) (p : Nat) : List Nat :=
  (s.ctx.filter fun e => e.2.st.holds && e.2.part == p).map Prod.fst
/-- Every context that is loaded. -/
def State.loadedCtxs (s : State) : List Nat := (s.ctx.filter fun e => e.2.st != .free).map Prod.fst

/-- Take the chip out of service at once (R302): every context stops; CHIP_STATE reads 1, and FAULT_N is asserted (R390). -/
def State.goOffline (s : State) : State :=
  let s1 := ((s.stopAll s.loadedCtxs).odSet kChipState 1).event .blot 2
  { s1 with pins := { s1.pins with faultN := true } }

/-- Port `p`. -/
def State.portAt (s : State) (p : Nat) : Port := s.ports[p % 16]'(Nat.mod_lt _ (by decide))
/-- Change port `p`. -/
def State.modPort (s : State) (p : Nat) (f : Port → Port) : State :=
  { s with ports := s.ports.set (p % 16) (f (s.portAt p)) (Nat.mod_lt _ (by decide)) }

/-- The device is in DUMP, or on its way there (R387). -/
def State.dumping (s : State) : Bool :=
  match s.pins.change with
  | some (3, _) => true
  | _ => s.odGet kPhase == 3
/-- The trigger of the change to DUMP (Table 17-5): the outputs are released and FAULT_N asserted; the frames begin anew. -/
def State.enterDump (s : State) (short identity : Bool) (seq : Nat) : State :=
  if s.dumping then s
  else { s with pins := { s.pins with
    change := some (3, false), driven := false, window := none, faultN := true, shortDump := short, identityOnly := identity,
    fatalSeq := seq, dumpG := s.g, dumpCycle := 0, dumpSeq := 0, dumpOut := [] } }

/-- FATAL (R303): every unit stops, every port goes down, the device enters DUMP phase. `seq` is the FATAL record's. -/
def State.goFatal (s : State) (seq : Nat) : State :=
  let s1 := s.stopAll s.loadedCtxs
  let s2 := (List.range 16).foldl (fun t p => (if t.odGet (kPortState p) = 4 then t else t.odSet (kPortState p) 0).odSet (kSchedOk p) 0) s1
  s2.enterDump false false seq

/-- The recovery restarts a firmware task, which no higher level overtakes. -/
def Recovery.restarts (r : Recovery) : Bool :=
  match r.kind with
  | .taskRestart _ => true
  | _ => false
/-- A recovery of one kind covers one of another: its scope holds the other's, and its level is no lower (R299). -/
def State.covers (s : State) : RecoveryKind → RecoveryKind → Bool
  | .taskRestart _, _ => false
  | _, .taskRestart _ => false
  | .offline, _ => true
  | .partReset p _, .teardown c => (s.ctxAt c).part == p && (s.ctxAt c).st != .free
  | .partReset p _, .partReset q _ => p == q
  | .teardown c, .teardown d => c == d
  | _, _ => false
/-- A recovery with one merged into it: a partition reset then tears that one's contexts down too. -/
def RecoveryKind.merge : RecoveryKind → RecoveryKind → RecoveryKind
  | .partReset p l, .teardown c => .partReset p (unionRising l [c])
  | .partReset p l, .partReset _ m => .partReset p (unionRising l m)
  | k, _ => k
/-- Enter a recovery: behind the others, but among those of one cycle by increasing UNIT (R299). A cycle is a count of G here (log
entry 230). -/
def insertRec (r : Recovery) : List Recovery → List Recovery
  | [] => [r]
  | e :: l => if e.time = r.time ∧ r.unit < e.unit then r :: e :: l else e :: insertRec r l
/-- Add a recovery to the queue (R299): it is merged into one that covers it, and those that it covers are merged into it; a
queue of 64 that is full makes the chip offline. -/
def State.enqueue (s : State) (seq unit : Nat) (k : RecoveryKind) : State :=
  if s.recQ.any fun r => s.covers r.kind k then
    { s with recQ := s.recQ.map fun r => if s.covers r.kind k then { r with kind := r.kind.merge k } else r }
  else
    let rest := s.recQ.filter fun r => !s.covers k r.kind
    let under := s.recQ.filter fun r => s.covers k r.kind
    if 64 ≤ rest.length then { s.goOffline with recQ := s.recQ.filter Recovery.restarts ++ [⟨seq, unit, .offline, s.g⟩] }
    else { s with recQ := insertRec ⟨seq, unit, under.foldl (fun q r => q.merge r.kind) k, s.g⟩ rest }

/-- What a fault source reports (Table 13-5): class, nominal action and level, unit, scope partition (none: chip, port
or unit scope), context, INSTR word, syndrome, cause, FLAGS. `window` is false for the sources that open none. -/
structure FaultIn where
  cls : Nat
  action : Nat
  level : Nat
  unit : Nat
  part : Option Nat
  ctx : Option Nat
  instr : Nat
  syn : List Byte
  cause : Nat
  flags : Nat
  window : Bool
deriving DecidableEq, Repr

/-- The action code of a level. -/
def levelAction (level action : Nat) : Nat :=
  match level with
  | 1 => 1
  | 2 => 2
  | 3 => 3
  | 4 => 4
  | _ => action

/-- The open window of a partition that a fault meets (R297). -/
def State.openWindow (s : State) (p : Nat) : Option Window :=
  match SMap.get (fun _ => (none : Option Window)) s.windows p with
  | some w => if s.g < w.until_ then some w else none
  | none => none
/-- Open a window (R296): it replaces an earlier one of the scope. -/
def State.setWindow (s : State) (p : Nat) (w : Window) : State :=
  { s with windows := SMap.set (fun _ => (none : Option Window)) s.windows p (some w) }

/-- The immediate action of a level and its queued firmware part (R299 to R303). -/
def State.applyLevel (s : State) (level unit seq : Nat) (ctx part : Option Nat) : State :=
  match level with
  | 0 => s
  | 1 => match ctx with
    | some c => ((s.stopCtx c).enqueue seq unit (.teardown c)).event .blot 0
    | none => s
  | 2 => match part with
    | some p => ((s.stopAll (s.holding p)).enqueue seq unit (.partReset p (s.holding p))).event .blot 1
    | none => s
  | 3 => s.goOffline.enqueue seq unit .offline
  | _ => s.goFatal seq

/-- The level a fault finally takes (R297): of the classes UCE_DATA and UCE_CONTROL in a partition whose window is open,
one above the window's, at most 3. -/
def State.finalLevel (s : State) (f : FaultIn) : Nat × Option Window :=
  match f.part with
  | some p =>
    if f.cls = 1 ∨ f.cls = 2 then
      match s.openWindow p with
      | some w => (min 3 (max f.level (w.level + 1)), some w)
      | none => (f.level, none)
    else (f.level, none)
  | none => (f.level, none)

/-- The window that a fault of a partition scope opens (R296, Table 13-6). -/
def State.openFor (s : State) (f : FaultIn) (level seq : Nat) : State :=
  match f.part with
  | some p =>
    if f.window ∧ (f.cls = 1 ∨ f.cls = 2) ∧ (level = 1 ∨ level = 2) then
      s.setWindow p ⟨level, s.g + s.odGet (if level = 1 then kWindowL1 else kWindowL2), seq⟩
    else s
  | none => s

/-- A fault (R295 to R300): its record, escalation, window, and the immediate action of its level. -/
def State.fault (s : State) (f : FaultIn) : State :=
  let (lv, w) := s.finalLevel f
  let act := if w.isSome then levelAction lv f.action else f.action
  let flags := if w.isSome then f.flags ||| 1 else f.flags
  let cause := match w with
    | some x => x.seq
    | none => f.cause
  let part := match f.part, f.ctx with
    | none, some c => (s.ctxAt c).part
    | p, _ => p
  let s1 := s.blotAdd (s.mkRec f.cls act lv flags f.unit f.ctx part f.instr cause f.syn)
  let seq := s1.blot.last
  let s2 := if w.isSome then (s1.bump kEscalations 1).event .blot 3 else s1
  (s2.openFor f lv seq).applyLevel lv f.unit seq f.ctx f.part

/-- A record of class NOTE (R295). -/
def State.note (s : State) (action unit flags cause : Nat) (ctx part : Option Nat) (syn : List Byte) : State :=
  s.blotAdd (s.mkRec 7 action 0 flags unit ctx part 0 cause syn)

/-- The INSTR word of a record (Table 13-1). -/
def instrWord (kind n : Nat) : Nat := kind * 2 ^ 30 + n % 2 ^ 30

/-- The PROG syndrome of Table 13-11: detection code and value. -/
def progSyn (code val : Nat) : List Byte := leBytes 2 code ++ leBytes 8 val

/-- A program fault (R108): issue stops, a PROG record with its detection code is written, the context is torn down. -/
def State.progFault (s : State) (c unit instr code val : Nat) : State :=
  let s1 := (s.bump kProgFaults 1).event .guard 1
  s1.fault { cls := 3, action := 1, level := 1, unit := unit, part := none, ctx := some c, instr := instr,
             syn := progSyn code val, cause := 0, flags := 0, window := false }

/-! ### Corrected and uncorrectable on-chip memories (R69, R73, R87, R121, R158) -/

/-- The code of a memory kind in a syndrome (Table 13-4). -/
def memCode : MemKind → Nat
  | .tileStore => 0 | .accStore => 1 | .scratchpad => 2 | .registers => 3 | .tokenQueue => 4 | .slotImage => 5
  | .channelProgram => 6 | .mapTracker => 7

/-- The counters, threshold and unit of corrected errors of a kind in an accord, the unit index `e` telling the matrix
engine, or the DMA channel of a program memory; the map and the fill trackers are chip-wide logic: chip-wide counter, threshold, unit id, area and event bit. -/
def ceEntries (k : MemKind) (a e : Nat) : Nat × Nat × Nat × Area × Nat :=
  match k with
  | .tileStore | .accStore => (kStoreCeCount, kStoreCeThreshold, unitId 1 (4 * a + e), .me, 4 * a + e)
  | .registers => (kRegCeCount, kRegCeThreshold, unitId 2 a, .ve, a)
  | .channelProgram => (kSpCeCount, kSpCeThreshold, unitId 5 (8 * a + e % 8), .top, 0)
  | .mapTracker => (kSpCeCount, kSpCeThreshold, unitId 0 0, .top, 0)
  | _ => (kSpCeCount, kSpCeThreshold, unitId 6 a, .top, 0)

/-- Corrected single-bit errors: counted; the threshold within one window raises one CE event with its record. -/
def State.corrected (s : State) (k : MemKind) (a e n : Nat) : State :=
  let (cnt, thr, u, ar, b) := ceEntries k a e
  let s1 := s.bump cnt n
  let s2 := match k with
    | .tileStore | .accStore => s1.bump (kStoreCe (4 * a + e)) n
    | _ => s1
  let old := SMap.get (fun _ => 0) s2.ceWin u
  let s3 := { s2 with ceWin := SMap.set (fun _ => 0) s2.ceWin u (old + n) }
  if old < s3.odGet thr ∧ s3.odGet thr ≤ old + n then
    (s3.event ar b).blotAdd (s3.mkRec 0 0 0 0 u none none 0 0 (leBytes 4 0 ++ leBytes 1 0 ++ leBytes 1 (memCode k)))
  else s3

/-- The class and level of an uncorrectable read of an on-chip memory (Table 13-5). -/
def uncorrectableLevel (k : MemKind) : Nat × Nat :=
  match k with
  | .tileStore | .accStore | .scratchpad | .registers => (1, 2)
  | .mapTracker => (2, 3)
  | _ => (2, 2)

/-- Remember a UCE record that names a unit, and say whether an earlier one lies within UNIT_RECUR_WINDOW
(Table 13-8). -/
def State.recur (s : State) (u dev : Nat) (distinct : Bool) : Bool × State :=
  let h := (SMap.get (fun _ => ([] : List (Nat × Nat))) s.unitHist u).filter
    fun e => s.g ≤ e.1 + s.odGet kUnitRecurWindow
  (h.any (fun e => !distinct || e.2 != dev),
   { s with unitHist := SMap.set (fun _ => ([] : List (Nat × Nat))) s.unitHist u ((s.g, dev) :: h) })

/-- Set the bits that show a fenced unit in its own entries (Table 13-8). -/
def State.markFenced (s : State) (u : Nat) : State :=
  let i := u % 1024
  match u / 1024 with
  | 1 => (s.odSet kMeFenced (setBit (s.odGet kMeFenced) i)).odSet (kMeEngineState i) 2
  | 2 => (s.odSet kVeFenced (setBit (s.odGet kVeFenced) i)).odSet (kVeEngineState i) 2
  | 3 => (s.odSet kPcFenced (setBit (s.odGet kPcFenced) i)).odSet (kCoreState i) 2
  | 9 => (s.odSet (kPortState i) 4).odSet (kSchedOk i) 0
  | _ => s

/-- Dissolve the partition that holds an accord and stop its contexts for teardown (R304, R192); those that are STOPPED have been torn
down, or are about to be. -/
def State.dissolve (s : State) (a seq unit : Nat) : State :=
  match s.partOf a with
  | none => s
  | some p =>
    let l := (s.boundTo p).filter fun c => (s.ctxAt c).st != .stopped
    let s1 := (s.stopAll l).odSet (kPartState p) 2
    l.foldl (fun t c => (t.enqueue seq unit (.teardown c)).event .blot 0) s1

/-- Queue what a status write carries (R305, R346). -/
def State.flashJob (s : State) (j : FlashJob) : State := { s with fw := { s.fw with jobs := s.fw.jobs ++ [j] } }

/-- Fence a unit (R304): its record, the fence list, its entries, its accord's partition or the chip; a status write keeps
it (R305). `cls` is the class
of the record (R295), `cause` the record that led to it, `syn` its syndrome. -/
def State.fenceUnit (s : State) (u cls cause flags : Nat) (syn : List Byte) : State :=
  if s.isFenced u then s
  else
    let act := if u / 1024 = 9 then 0x0C else 0x0A
    let s1 := (s.blotAdd (s.mkRec cls act 0 flags u none none 0 cause syn)).event .blot 4
    let seq := s1.blot.last
    let s2 := ({ s1 with unitFences := s1.unitFences ++ [u] }.markFenced u).flashJob (.fence u)
    match u / 1024 with
    | 3 => s2
    | 8 => s2.goOffline.enqueue seq u .offline
    | 10 => s2.goOffline.enqueue seq u .offline
    | 9 => s2
    | _ => match unitAccord u with
      | some a => s2.dissolve a seq u
      | none => s2

/-- An uncorrectable read of an on-chip memory of accord `a` (R69, R73, R121, R158). -/
def State.uncorrectable (s : State) (k : MemKind) (a e addr : Nat) (syn : Byte) (instr : Nat) : State :=
  let (_, _, u, ar, b) := ceEntries k a e
  let (cls, lv) := uncorrectableLevel k
  let p := if lv = 3 then none else s.partOf a
  let syndrome := leBytes 4 addr ++ [syn] ++ leBytes 1 (memCode k)
  let s1 := (s.event ar b).fault
    { cls := cls, action := if lv = 3 then 3 else 2, level := lv, unit := u, part := p, ctx := s.ctxOn a, instr := instr,
      syn := syndrome, cause := 0, flags := 0, window := true }
  let seq := s1.blot.last
  let (again, s2) := s1.recur u 0 false
  if again ∧ u / 1024 ≠ 0 then s2.fenceUnit u cls seq 0 syndrome else s2

end Sys2Proof.Machine
end

