-- ==== Sys2Proof/Machine/Operands.lean ====
section
/-!
DEFINITION. Operand forms: packed elements (R402), top-tier ranges (R118), the four shapes of a vector source (R72), row
tags and segment lists (Tables 3-5, 3-6), Philox inputs (R44), stamps and ownership tags (R113, R114).
-/
namespace Sys2Proof.Machine

/-! ### Packed elements -/

/-- The little-endian number of bytes cut into `n` elements of `w` bits (R402). -/
def unpackNat (w v : Nat) : Nat → List Nat
  | 0 => []
  | n + 1 => v % 2 ^ w :: unpackNat w (v / 2 ^ w) n
/-- The little-endian number of a list of elements of `w` bits (R402). -/
def packNat (w : Nat) : List Nat → Nat
  | [] => 0
  | e :: r => e % 2 ^ w + 2 ^ w * packNat w r
/-- The bytes that `n` elements of a format occupy in a row. -/
def rowBytes (f : Fmt) (n : Nat) : Nat := (fmtWidth f * n + 7) / 8
/-- The elements of a row of bytes. -/
def unpackRow (f : Fmt) (n : Nat) (bs : List Byte) : List Nat := unpackNat (fmtWidth f) (leNat bs) n
/-- The bytes of a row of elements. -/
def packRow (f : Fmt) (es : List Nat) : List Byte := leBytes (rowBytes f es.length) (packNat (fmtWidth f) es)

/-- Cut a list into pieces of `n`, at most `fuel` of them. -/
def chunks {α : Type} (n : Nat) : Nat → List α → List (List α)
  | 0, _ => []
  | k + 1, l => if l.isEmpty then [] else l.take n :: chunks n k (l.drop n)

/-! ### Top-tier ranges (Table 6-1) -/

/-- The size of the scratchpad. -/
def spSize : Nat := 0x1000000
/-- The end of the tile stores. -/
def tileEnd : Nat := 0x1800000
/-- The local address of byte `off` of engine `e`'s tile store. -/
def tileAddr (e off : Nat) : Nat := 0x1000000 + e * 0x200000 + off
/-- The local address of an accumulator row. -/
def accAddr (e row : Nat) : Nat := 0x1800000 + e * 0x100000 + row * 512
/-- The key of an accumulator element. -/
def accKey (e row col : Nat) : Nat := e * 262144 + row * 128 + col
/-- The key of an accumulator row's tag. -/
def tagKey (e row : Nat) : Nat := e * 2048 + row
/-- A range that lies in the scratchpad. -/
def inSp (a n : Nat) : Bool := decide (a + n ≤ spSize)
/-- A range that lies in the scratchpad or in the tile stores: what access engines, DMA, the vector engine and epilogues
reach (R118). -/
def inTop (a n : Nat) : Bool := decide (a + n ≤ tileEnd)
/-- A range that lies in one engine's tile store, by offset. -/
def inTile (off n : Nat) : Bool := decide (off + n ≤ 0x200000)

/-- The default of the accumulator map. -/
def accDefault : Nat → W32 := fun _ => 0
/-- The default of a map of numbers. -/
def zeroNat : Nat → Nat := fun _ => 0

/-- Read an accumulator element. -/
def Accord.accumAt (A : Accord) (e row col : Nat) : W32 := SMap.get accDefault A.accum (accKey e row col)
/-- Write an accumulator element. -/
def Accord.setAccum (A : Accord) (e row col : Nat) (v : W32) : Accord :=
  { A with accum := SMap.set accDefault A.accum (accKey e row col) v }

/-! ### Detections -/

/-- A detection of the schedule guard: its code and value of Table 13-11, and the counter entry that counts it (0: none). -/
structure Det where
  code : Nat
  val : Nat
  ctr : Nat
deriving DecidableEq, Repr

/-- A detection when a condition fails to hold. -/
def detUnless (ok : Bool) (code val : Nat) (ctr : Nat := 0) : List Det := if ok then [] else [⟨code, val, ctr⟩]
/-- A detection when a condition holds. -/
def detIf (bad : Bool) (code val : Nat) (ctr : Nat := 0) : List Det := if bad then [⟨code, val, ctr⟩] else []

/-! ### Readiness stamps and ownership tags (R113, R114) -/

/-- The granules of 512 B of the scratchpad that a range covers. -/
def granulesOf (a n : Nat) : List Nat :=
  if n = 0 ∨ spSize ≤ a then []
  else ((List.range ((a + n - 1) / 512 - a / 512 + 1)).map fun i => a / 512 + i).filter fun g => decide (g < spSize / 512)
/-- The local address of a granule's ownership tag, in the top 32 KiB of the scratchpad. -/
def ownTagAddr (g : Nat) : Nat := spSize - 32768 + g
/-- Set the stamps of a range. -/
def Accord.stamp (A : Accord) (a n : Nat) (v : Byte) : Accord :=
  { A with stamps := (granulesOf a n).foldl (fun m g => SMap.set zeroNat m g v.toNat) A.stamps }
/-- Set the ownership tags of a range. -/
def Accord.ownTag (A : Accord) (a n tensor : Nat) : Accord :=
  { A with top := (granulesOf a n).foldl (fun m g => m.write (ownTagAddr g) (BitVec.ofNat 8 tensor)) A.top }
/-- The first granule of a range whose stamp differs. -/
def Accord.stampBad (A : Accord) (a n : Nat) (v : Byte) : Option Nat :=
  (granulesOf a n).find? fun g => SMap.get zeroNat A.stamps g != v.toNat
/-- The first granule of a range whose ownership tag differs. -/
def Accord.ownBad (A : Accord) (a n tensor : Nat) : Option Nat :=
  (granulesOf a n).find? fun g => A.top.read (ownTagAddr g) != BitVec.ofNat 8 tensor

/-! ### Landing (R74, R113, R133, R138)

A write that lands after its issue waits in the accord's list `landing`, in the order of landing. A command that reads or
writes the top tier in cycle `t` first lands what is due by then. -/

/-- Apply what lands. -/
def Accord.land (A : Accord) : LandAct → Accord
  | .bytes a d => { A with top := A.top.writeN a d }
  | .addWord a x => { A with top := A.top.writeLE a 4 (add32 (BitVec.ofNat 32 (A.top.readLE a 4)) x).toNat }
  | .stamp a n v => A.stamp a n v
  | .tag a n tensor => A.ownTag a n tensor
/-- A READ of an access engine lands: its bytes, and the marks of the scratchpad granules that it covers. -/
def Accord.landRead (A : Accord) (i : AccessInstr) (data : List Byte) (tags : Bool) : Accord :=
  let B := { A with top := A.top.writeN i.top data }
  let C := if i.stamped then B.stamp i.top data.length i.stamp else B
  if tags then C.ownTag i.top data.length i.tensor else C
/-- The cycle before which a transfer cannot be complete, changed. -/
def InFlight.mapReady (f : Nat → Nat) : InFlight → InFlight
  | .read idx i d t r => .read idx i d t (f r)
  | .write idx i r => .write idx i (f r)
  | .signal idx i => .signal idx i
/-- Insert a write behind everything that lands in its cycle or before. -/
def insertLanding (l : Landing) : List Landing → List Landing
  | [] => [l]
  | x :: r => if x.at_ ≤ l.at_ then x :: insertLanding l r else l :: x :: r
/-- Writes that will land in cycle `t`, in their order. -/
def Accord.await (A : Accord) (t chan : Nat) (l : List LandAct) : Accord :=
  { A with landing := l.foldl (fun q a => insertLanding ⟨t, chan, a⟩ q) A.landing }
/-- What is due by cycle `t` has landed. -/
def Accord.settle (A : Accord) (t : Nat) : Accord :=
  (A.landing.takeWhile fun l => decide (l.at_ ≤ t)).foldl (fun B l => B.land l.act)
    { A with landing := A.landing.dropWhile fun l => decide (l.at_ ≤ t) }
/-- Everything issued has landed. -/
def Accord.settleAll (A : Accord) : Accord := A.landing.foldl (fun B l => B.land l.act) { A with landing := [] }
/-- Land what is due on accord `a` by cycle `t`. -/
def State.settle (s : State) (a t : Nat) : State := s.modAcc a fun A => A.settle t

/-! ### Ownership and stamps of a context -/

/-- The context's guard is in tolerant mode (Table 5-12). -/
def State.tolerant (s : State) (c : Nat) : Bool := s.odBit (kCtxMode c) 1
/-- The context runs with ownership tags. -/
def State.ownTags (s : State) (c : Nat) : Bool := s.odBit (kCtxMode c) 8

/-- The task whose output range meets `[addr, addr + n)` and whose completion token has not been written (R89). -/
def Accord.taskFor (A : Accord) (addr n : Nat) : Option TaskDesc :=
  (A.tasks.map Prod.fst ++ A.cores.toList.filterMap fun k => k.run.map Running.task).find? fun d =>
    match d.out with
    | some o => decide (o.addr < addr + n ∧ addr < o.addr + o.len)
    | none => false
/-- The detections of a read of a scratchpad range: the output of a task that has not ended (R89), stamps in strict mode,
ownership tags in either. -/
def State.readDets (s : State) (c a : Nat) (stamped : Bool) (addr n : Nat) (st : Byte) (tensor : Nat) : List Det :=
  let A := s.accAt a
  (match A.taskFor addr n with
   | some d => [⟨4, d.taskSeq, 0⟩]
   | none => []) ++
  (if stamped && !s.tolerant c then
    (match A.stampBad addr n st with
     | some g => [⟨5, g * 512, kStampMismatches⟩]
     | none => [])
   else []) ++
  (if s.ownTags c then
    (match A.ownBad addr n tensor with
     | some g => [⟨0xB, g * 512, kTagMismatches⟩]
     | none => [])
   else [])

/-- The marks that a write leaves on its scratchpad range when its last byte lands: its stamp and its ownership tag. -/
def State.markActs (s : State) (c : Nat) (stamped : Bool) (addr n : Nat) (st : Byte) (tensor : Nat) : List LandAct :=
  (if stamped then [.stamp addr n st] else []) ++ if s.ownTags c then [.tag addr n tensor] else []
/-- The marks of a write that lands now. -/
def State.landMarks (s : State) (c a : Nat) (stamped : Bool) (addr n : Nat) (st : Byte) (tensor : Nat) : State :=
  s.modAcc a fun A => (s.markActs c stamped addr n st tensor).foldl Accord.land A

/-! ### Vector sources (R72) -/

/-- A tile register of zeros. -/
def zeroTile : List W32 := List.replicate 1024 0
/-- The value of a tile register. -/
def VecEngine.tile (v : VecEngine) (r : Nat) : List W32 := SMap.get (fun _ => zeroTile) v.tiles r
/-- The value of a scalar register. -/
def VecEngine.scalar (v : VecEngine) (r : Nat) : W32 := SMap.get (fun _ => (0 : W32)) v.scalars r
/-- The value of a mask register. -/
def VecEngine.mask (v : VecEngine) (r : Nat) : List Bool := SMap.get (fun _ => List.replicate 1024 false) v.masks r
/-- Write a tile register. -/
def VecEngine.setTile (v : VecEngine) (r : Nat) (t : List W32) : VecEngine :=
  { v with tiles := SMap.set (fun _ => zeroTile) v.tiles r t }
/-- Write a mask register. -/
def VecEngine.setMask (v : VecEngine) (r : Nat) (m : List Bool) : VecEngine :=
  { v with masks := SMap.set (fun _ => List.replicate 1024 false) v.masks r m }

/-- The 1,024 lanes of a source operand in one of its four shapes. -/
def VecEngine.src (v : VecEngine) : VSrc → List W32
  | .tile r => v.tile r
  | .rowB r => (chunks 32 32 (v.tile r)).flatMap fun row => List.replicate 32 (row.headD 0)
  | .colB r => (List.replicate 32 ((v.tile r).take 32)).flatten
  | .scalar r => List.replicate 1024 (v.scalar r)
/-- Write a scalar register. -/
def VecEngine.setScalar (v : VecEngine) (r : Nat) (x : W32) : VecEngine :=
  { v with scalars := SMap.set (fun _ => (0 : W32)) v.scalars r x }
/-- Write the destination of a bit copy; a scalar register takes lane 0 of row 0 (log entry 40). -/
def VecEngine.setDst (v : VecEngine) (d : VDst) (t : List W32) : VecEngine :=
  match d with
  | .tile r => v.setTile r t
  | .scalar r => v.setScalar r (t.headD 0)
/-- The register number of a destination in `VecEngine.land`. -/
def dstReg : VDst → Nat
  | .tile r => r
  | .scalar r => 64 + r
/-- The register number of a source in `VecEngine.land`. -/
def srcReg : VSrc → Nat
  | .tile r => r
  | .rowB r => r
  | .colB r => r
  | .scalar r => 64 + r

/-! ### Row tags and segment lists -/

/-- VALID of a row tag (Table 3-5). -/
def tagValid (t : Nat) : Bool := bit t 48
/-- The tenant slot and sequence number of a row tag. -/
def tagOwner (t : Nat) : Nat × Nat := (bits t 63 56, bits t 95 64)
/-- The Philox row coordinate: sequence number and token position, or the logical row (R64). -/
def tagRow (t row : Nat) : Nat := if tagValid t then bits t 95 64 * 2 ^ 32 + bits t 127 96 else row

/-- An entry of a segment list (Table 3-6). -/
structure Segment where
  rows : Nat
  waddr : Nat
  saddr : Nat
  wscale : Nat
  keep : Bool
  trans : Bool
  cmask : Nat
deriving DecidableEq, Repr

/-- Decode a segment-list entry. -/
def Segment.ofNat (v : Nat) : Segment :=
  { rows := bits v 10 0 + 1, waddr := bits v 116 96, saddr := bits v 95 75, wscale := bits v 74 67, keep := bit v 66,
    trans := bit v 65, cmask := bits v 63 56 }
/-- The segment list at a tile-store address. -/
def Accord.segments (A : Accord) (e off n : Nat) : List Segment :=
  (List.range n).map fun i => Segment.ofNat (A.top.readLE (tileAddr e (off + 16 * i)) 16)
/-- A well-formed segment list for `m` rows (R65). -/
def segsOk (m : Nat) (l : List Segment) : Bool :=
  match l with
  | [] => false
  | x :: _ => !x.keep && (l.map Segment.rows).sum == m
/-- Array column `j` is in a column mask. -/
def inMask (cmask j : Nat) : Bool := bit cmask (j / 16)

/-- The scale tiles of `h` rows each in a list of tags hold no two valid tags of different sequences (R62). -/
def tilesOneOwner (h : Nat) (tags : List Nat) : Bool :=
  (chunks h tags.length tags).all fun t =>
    match t.filter tagValid with
    | [] => true
    | x :: r => r.all fun y => tagOwner y == tagOwner x

/-! ### Seeds (R44) -/

/-- PROGRAM_SEED of a context's CTX_CFG. -/
def State.programSeed (s : State) (c : Nat) : Nat := s.odBits (kCtxCfg c) 255 192
/-- The physical base-tier address of tenant entry `e` (R193). -/
def State.tctAddr (s : State) (e : Nat) : Nat := s.odGet kTctBase + 128 * e
/-- The seed of the tenant in slot `sl` of a context, the program seed where no tenant holds it. -/
def State.slotSeed (s : State) (c sl : Nat) : Nat :=
  match (s.ctxAt c).slots.find? fun x => x.slot == sl with
  | some x => s.base.readLE (s.tctAddr x.entry + 8) 8
  | none => s.programSeed c
/-- The seed of a tensor in a row with tag `t` (R44, Table 3-5): TSLOT selects that of the tenant to which the tensor belongs, any
other tensor's is the program seed. A row that carries a sequence is a tenant's; whether a tensor whose rows carry none is a
tenant's lies with the compiler, and no field says so: it is a free value (log entry 216). -/
def State.elemSeed (s : State) (c tensor t : Nat) : Nat :=
  if tagValid t || Config.tenantTensor (s.odGet (kCtxBinary c)) tensor then s.slotSeed c (tagOwner t).1 else s.programSeed c
/-- The random word of the element in column `col` of a row with tag `t` and logical index `row`. -/
def State.elemWord (s : State) (c domain tensor t row col : Nat) : Nat :=
  philoxWord { seed := s.elemSeed c tensor t, domain := domain,
               tensorId := tensor, row := tagRow t row, col := col }

end Sys2Proof.Machine
end

