-- ==== Sys2Proof/Machine/CodeWord.lean ====
section
/-!
DEFINITION. The Reed-Solomon code words of the tiers (R151 to R154): arithmetic in GF(2^8), the generator, check bytes, the
heart tier's fingerprint, and the symbols that a burst of undriven lines has in error.
-/
namespace Sys2Proof.Machine

/-- The product with x in GF(2^8) under the primitive polynomial 0x11D. -/
def gfDouble (a : Nat) : Nat := if a < 128 then 2 * a else 2 * a ^^^ 0x11D
/-- The product of `a` with the lowest `k` bits of `b`. -/
def gfMulBits : Nat → Nat → Nat → Nat
  | 0, _, _ => 0
  | k + 1, a, b => (if b % 2 = 1 then a else 0) ^^^ gfMulBits k (gfDouble a) (b / 2)
/-- The product in GF(2^8). -/
def gfMul (a b : Nat) : Nat := gfMulBits 8 a b
/-- The power `i` of α = x. -/
def gfAlpha (i : Nat) : Nat := Nat.repeat gfDouble i 1

/-- The generator with the roots α⁰ to α^(m − 1), highest degree first. -/
def rsGenerator : Nat → List Nat
  | 0 => [1]
  | i + 1 =>
    let g := rsGenerator i
    List.zipWith (· ^^^ ·) (g ++ [0]) (0 :: g.map (gfMul (gfAlpha i)))
/-- The check symbols of data symbols: the remainder of x^m · d(x) by the generator, highest degree first. -/
def rsCheck (m : Nat) (d : List Nat) : List Nat :=
  let g := (rsGenerator m).tail
  d.foldl (fun r x => List.zipWith (· ^^^ ·) (r.tail ++ [0]) (g.map (gfMul (x ^^^ r.headD 0)))) (List.replicate m 0)

/-- The check symbols of a code word: 8 in the heart tier, 16 in the base tier (Table 7-5). -/
def checkLen (base : Bool) : Nat := if base then 16 else 8
/-- The word `u` of R151 for a 26-bit channel-local address. -/
def fingerWord (addr : Nat) : List Nat :=
  (List.range 64).map fun j => if j % 16 = 0 then 128 + addr % 2 ^ 26 / 2 ^ (7 * (j / 16)) % 128 else 0
/-- The fingerprint F of a heart code word. -/
def fingerprint (addr : Nat) : List Nat := rsCheck 8 (fingerWord addr)
/-- The check symbols that a tier stores with 64 data bytes (R151, Table 7-5). -/
def storedCheck (base : Bool) (addr : Nat) (data : List Nat) : List Nat :=
  if base then rsCheck 16 data else List.zipWith (· ^^^ ·) (rsCheck 8 data) (fingerprint addr)
/-- The symbols in error of a heart burst whose lines are all undriven, which reads as zeros (R153): those in which `u` is not
zero, since `u` with F is a code word. -/
def undrivenSymbols (addr : Nat) : List Nat := (List.range 64).filter fun j => (fingerWord addr).getD j 0 != 0

end Sys2Proof.Machine
end

