-- ==== Sys2Proof/Machine/Flags.lean ====
section
/-!
DEFINITION. The flags of this device: no data word carries an exception flag (R35); what the engines report instead is
the tile status record of Table 3-4 with its amax and non-finite count (R40, R42, R63, R76).
-/
namespace Sys2Proof.Machine

/-- A tile status record (Table 3-4). -/
structure StatusRec where
  amax : W32
  nonfinite : Nat
  sOut : Nat
  sReq : Nat
  nan : Bool
  inf : Bool
  rescaled : Bool
  tileId : Nat
deriving DecidableEq, Repr

/-- The 128-bit encoding of a status record. -/
def StatusRec.toNat (r : StatusRec) : Nat :=
  r.tileId % 2 ^ 32 + 2 ^ 32 * b2n r.rescaled + 2 ^ 33 * b2n r.inf + 2 ^ 34 * b2n r.nan + 2 ^ 48 * (r.sReq % 256)
    + 2 ^ 56 * (r.sOut % 256) + 2 ^ 64 * (r.nonfinite % 2 ^ 32) + 2 ^ 96 * r.amax.toNat

/-- The record of a tile whose FP32 values are given. -/
def StatusRec.of (vs : List W32) (sReq sOut : Nat) (rescaled : Bool) (tileId : Nat) : StatusRec :=
  let xs := vs.map dec32
  let a := amaxOf xs
  { amax := rne32 (.fin false a.1 a.2), nonfinite := (xs.filter fun x => !x.isFinite).length, sOut := sOut, sReq := sReq,
    nan := xs.any FVal.isNan, inf := xs.any FVal.isInf, rescaled := rescaled, tileId := tileId }

/-- The number of non-finite values of a list of lanes. -/
def nonfiniteCount (vs : List W32) : Nat := (vs.filter fun v => !(dec32 v).isFinite).length

/-- A tile overflows its output format at scale exponent `x` (R41): a finite element, rounded, exceeds the bound, which for
an MX format is that of a block of scale 2^127; never for an integer format. `ws` are the elements' random words. -/
def tileOverflows (f : Fmt) (r : Round) (x : Int) (ws : List Nat) (vs : List W32) : Bool :=
  !fmtInt f && (vs.zip ws).any fun p => overflows (fspec f) r p.2 ((dec32 p.1).scale (-(x + if fmtMx f then 127 else 0)))

/-- The scale exponent that replaces an overflowing tile's (R41): the smallest `x` with amax * 2^-x at most the bound. -/
def rescaleExp (f : Fmt) (vs : List W32) : Int :=
  let a := amaxOf (vs.map dec32)
  let b := maxFinVal f
  if a.1 = 0 then 0 else minShift a.1 a.2 b.1 (b.2 + if fmtMx f then 127 else 0)

end Sys2Proof.Machine
end

