-- ==== Sys2Proof/Machine/Engine.lean ====
section
/-!
DEFINITION. The issue of a compute- or access-stream instruction under the schedule guard (R93, R108): who runs on an
accord, schedule time, upsets of the memories that are read, detections, and the program fault they end in.
-/
namespace Sys2Proof.Machine

/-- What an instruction runs for: partition, context, and its cycle in schedule time from the step's START. -/
structure IssueCtx where
  part : Nat
  ctx : Nat
  t : Nat
deriving DecidableEq, Repr

/-- A partition is frozen under R110 or R111, or waits at a layer gate under R330. -/
def State.frozen (s : State) (p : Nat) : Bool :=
  (s.guardAt p).lateFrozen || (s.guardAt p).tolFrozen || (s.guardAt p).gateWait

/-- The partition and context that issue on an accord: a RUNNING context inside a step whose drydown has not begun, on an
unfenced accord of a chip in the RUN phase, whose partition is not frozen (R70, R93, R110, R303, Table 12-5 row 1). Nothing
issues on an accord that the grade does not have: it is no unit of the device (R3). -/
def State.issuer (s : State) (a : Nat) : Option (Nat × Nat) :=
  if !s.live || !s.hasAccord a || s.accordFenced a then none
  else match s.partOf a with
    | none => none
    | some p =>
      match s.runningOn p with
      | none => none
      | some c => if (s.ctxAt c).inStep && (s.ctxAt c).dry == .none && !s.frozen p then some (p, c) else none

/-- A LATE_OPERAND freeze of a partition waits for tokens of queue `q` of accord `a` (R111). -/
def State.awaits (s : State) (p a q : Nat) : Bool :=
  (s.guardAt p).lateFrozen && (s.guardAt p).waiting.any fun w => w.1 == a && w.2.1 == q
/-- The partition and context that run on an accord, in a step or between two of them, for the preparer cores, whose tasks run on
when a step has ended (R88, R89): nothing of a frozen partition advances but what owes a token of queue `q` that the freeze waits
for (R111). -/
def State.coreHost (s : State) (a q : Nat) : Option (Nat × Nat) :=
  if !s.live || !s.hasAccord a || s.accordFenced a then none
  else match s.partOf a with
    | none => none
    | some p =>
      match s.runningOn p with
      | none => none
      | some c => if !s.frozen p || s.awaits p a q then some (p, c) else none

/-- Schedule time of a cycle counted from the start of the phase (R93, R125). -/
def State.schedAt (s : State) (p cyc : Nat) : Nat := (s.guardAt p).phaseStart + cyc
/-- Schedule time has reached `t`. -/
def State.noteTime (s : State) (p t : Nat) : State := s.modGuard p fun g => { g with now := max g.now t }

/-- The state of a unit in its own entry: 1 running, 3 stopped by fault. -/
def State.setUnitState (s : State) (unit v : Nat) : State :=
  match unit / 1024 with
  | 1 => s.odSet (kMeEngineState (unit % 1024)) v
  | 2 => s.odSet (kVeEngineState (unit % 1024)) v
  | 3 => s.odSet (kCoreState (unit % 1024)) v
  | _ => s
/-- The error event of a unit's own area. -/
def State.unitEvent (s : State) (unit : Nat) : State :=
  match unit / 1024 with
  | 1 => s.event .me (unit % 1024)
  | 2 => s.event .ve (unit % 1024)
  | 3 => s.event .pc (unit % 1024)
  | _ => s

/-- A FIXED latency in force for a context, in schedule time (R102, R103, R110): its binary's entry B. A chip value C below
B is delayed to B; a C above B, which only tolerant mode loads, freezes schedule time for C − B where the result would land
at B. `chip` serves a context without the entry. -/
def State.fixedLat (s : State) (c id chip : Nat) : Nat :=
  match (s.ctxAt c).prog with
  | some b => match b.manifest.find? (fun m => m.1 == id) with
    | some m => m.2.2
    | none => chip
  | none => chip
/-- L_rd in force for a context (R59, R103): its binary's ME_ACC_READ. -/
def State.lrdOf (s : State) (c : Nat) : Nat := s.fixedLat c 0x0106 s.lrd
/-- A ME_EPI offset of Table 5-5 in force for a context (R103): those of A0 and 2 or 4 ec more on A1, with L_rd. -/
def State.epiOfs (s : State) (c id a0 per : Nat) : Nat := s.fixedLat c id (a0 + per * (s.lrd - 4))
/-- What runs on the top tier as it stands in the instruction's cycle: writes that are due have landed. -/
def atTop {α : Type} (a : Nat) (f : State → IssueCtx → α) (s : State) (x : IssueCtx) : α := f (s.settle a x.t) x
/-- Count a detection at its counter, where it has one. -/
def State.countDet (s : State) (d : Det) : State := if d.ctr = 0 then s else s.bump d.ctr 1
/-- A detection: counted, shown in the unit's entries, and a program fault of the context (R108). -/
def State.detected (s : State) (c unit instr : Nat) (d : Det) : State :=
  (((s.countDet d).setUnitState unit 3).unitEvent unit).progFault c unit instr d.code d.val

/-- Run an instruction for a known context: its first detection, or its effect. -/
def issueBody (x : IssueCtx) (unit instr : Nat) (dets : State → IssueCtx → List Det) (eff : State → IssueCtx → State)
    (s : State) : State :=
  match dets s x with
  | d :: _ => s.detected x.ctx unit instr d
  | [] => ((eff s x).setUnitState unit 1).noteTime x.part x.t

/-- What the check bits of the memories that an operation of accord `a` reads report (R69, R73, R121): corrected errors are
counted and the operation goes on; an uncorrectable word stops its unit and is a fault of the partition. `e` tells the matrix
engine whose stores an upset lies in. -/
def State.underUpset (s : State) (a e unit instr : Nat) (up : Upset) (f : State → State) : State :=
  match up with
  | .uncorrectable k addr syn => (s.setUnitState unit 3).uncorrectable k a e addr syn instr
  | .corrected k n => f (s.corrected k a e n)
  | .none => f s
/-- The issue of a compute-stream instruction by a unit of accord `h.acc`. -/
def engineRun (h : Issue) (e unit : Nat) (dets : State → IssueCtx → List Det) (eff : State → IssueCtx → State)
    (s : State) : State :=
  match s.issuer h.acc with
  | none => s
  | some (p, c) =>
    s.underUpset h.acc e unit (instrWord 1 h.idx) h.upset
      (issueBody ⟨p, c, s.schedAt p h.cyc⟩ unit (instrWord 1 h.idx) dets eff)

/-- The issue of a compute-stream instruction. Without a context that issues on the accord nothing happens. -/
def engineIssue (h : Issue) (e unit : Nat) (dets : State → IssueCtx → List Det) (eff : State → IssueCtx → State)
    (s : State) : Host.Outcome State Fault Refusal :=
  .next (engineRun h e unit dets eff s)

end Sys2Proof.Machine
end

