-- ==== Sys2Proof/Machine/Tier.lean ====
section
/-!
DEFINITION. The heart and base tiers (chapter 07): address maps, the valid-bit map and first touch, what a controller
makes of the bits a code word returns, uncorrectable reads, granule and slice fences, and raw device access.
-/
namespace Sys2Proof.Machine

/-- The base tier. -/
def tierBase : Tier → Bool
  | .heart => false
  | .base => true
/-- Bit 63 of an address in a record: the tier. -/
def tierBit (base : Bool) : Nat := b2n base * 2 ^ 63

/-! ### Address maps (R146 to R149) -/

/-- The populated stack positions of a die (R146). -/
def State.stacksOf (s : State) (die : Nat) : List Nat :=
  ((List.range 4).map (· + 4 * die)).filter fun p => s.odBit kHeartPositions p
/-- The heart channels of a die. -/
def State.heartChans (s : State) (die : Nat) : Nat := 32 * (s.stacksOf die).length
/-- The populated base channels of a die (R148). -/
def State.baseChans (s : State) (die : Nat) : Nat :=
  ((List.range 8).filter fun c => s.odBit kBaseChannels (8 * die + c)).length
/-- The size of a half of a tier. -/
def State.halfSize (s : State) (base : Bool) (die : Nat) : Nat :=
  if base then
    (if s.odGet kBaseConfigError = 0 then s.baseChans die * s.odBits (kBaseDimm (8 * die)) 13 0 * 2 ^ 30 else 0)
  else s.heartChans die * 2 ^ 32
/-- Where the east half of a tier begins. -/
def halfBase (base : Bool) : Nat := if base then 2 ^ 41 else 2 ^ 39
/-- The die of an address. -/
def addrDie (base : Bool) (a : Nat) : Nat := a / halfBase base
/-- The address exists. -/
def State.addrOk (s : State) (base : Bool) (a : Nat) : Bool :=
  decide (addrDie base a < 2) && decide (a % halfBase base < s.halfSize base (addrDie base a))
/-- Every byte of a range exists. -/
def State.rangeOk (s : State) (base : Bool) (a n : Nat) : Bool :=
  decide (0 < n) && s.addrOk base a && s.addrOk base (a + n - 1)
    && (decide (addrDie base a = addrDie base (a + n - 1)) || s.halfSize base 0 == halfBase base)

/-- The place of an address: global channel, channel-local chunk number, code word, and the chip arbiter that arbitrates the
chunk (R146, R148). -/
structure Place where
  chan : Nat
  l : Nat
  w : Nat
  arb : Nat
deriving DecidableEq, Repr

/-- Decode an address. -/
def State.place (s : State) (base : Bool) (a : Nat) : Place :=
  let die := addrDie base a
  let o := a % halfBase base
  let c := if base then s.baseChans die else s.heartChans die
  let l := o / 512 / c
  let k := (o / 512 + l) % c
  let ch := if base then 8 * die + k else 32 * (s.stacksOf die).getD (k / 32) 0 + k % 32
  { chan := ch, l := l, w := o % 512 / 64, arb := if base then 64 + ch else ch / 4 }
/-- The 26-bit channel-local address of a code word (R151). -/
def Place.word (p : Place) : Nat := 8 * p.l + p.w
/-- SID, ROW, BANK and COL of a heart chunk (Table 7-3). -/
def heartFields (l : Nat) : Nat × Nat × Nat × Nat := (bits l 22 19, bits l 18 6, bits l 5 2, bits l 1 0)
/-- Bank group, bank, column block, package rank, 3DS logical rank and row of a base chunk, with the bits that the DIMM has of
column block, package rank and logical rank (R148). -/
def baseFields (col pkg log l : Nat) : List Nat :=
  [bits l 2 0, bits l 4 3, l / 2 ^ 5 % 2 ^ col, l / 2 ^ (5 + col) % 2 ^ pkg, l / 2 ^ (5 + col + pkg) % 2 ^ log,
    l / 2 ^ (5 + col + pkg + log)]
/-- The subchannel that carries code word `w` of a base chunk: A for 0 to 3, B for 4 to 7 (R148). -/
def subchannelB (w : Nat) : Bool := decide (4 ≤ w)

/-- The unit id of a tier channel (Table 13-2). -/
def chanUnit (base : Bool) (chan : Nat) : Nat := unitId (if base then 8 else 7) chan
/-- The die slice of a heart address: 16 times the die plus the SID of its chunk (R147). -/
def State.sliceOf (s : State) (a : Nat) : Nat := 16 * addrDie false a + (heartFields (s.place false a).l).1
/-- A die slice is fenced (R162). -/
def State.sliceFenced (s : State) (base : Bool) (a : Nat) : Bool :=
  !base && s.odBit kHeartFencedSlices (s.sliceOf a)

/-- The base of the reserved region (R149). -/
def State.resBase (s : State) : Nat := if s.reduced then 0x5FFF000000 else 0x7FFF000000
/-- The base of the firmware part of the reserved region (R339). -/
def State.fwBase (s : State) : Nat := s.resBase + 0xA00000
/-- A heart range meets the reserved region. -/
def State.inReserved (s : State) (base : Bool) (a n : Nat) : Bool :=
  !base && decide (a < s.resBase + 0x1000000) && decide (s.resBase < a + n)

/-! ### Valid-bit map and first touch (R155, R156) -/

/-- The granule of an address. -/
def granOf (a : Nat) : Nat := a / 65536
/-- The default of a valid-bit map. -/
def falseAt : Nat → Bool := fun _ => false
/-- The valid bit of a granule; those of the reserved region are set. -/
def State.validAt (s : State) (base : Bool) (g : Nat) : Bool :=
  s.inReserved base (g * 65536) 65536 || SMap.get falseAt (if base then s.baseValid else s.heartValid) g
/-- Set the valid bit of a granule. -/
def State.setValid (s : State) (base : Bool) (g : Nat) (v : Bool) : State :=
  if base then { s with baseValid := SMap.set falseAt s.baseValid g v }
  else { s with heartValid := SMap.set falseAt s.heartValid g v }
/-- The fill tracker of a FILLING granule. -/
def State.fillOf (s : State) (base : Bool) (g : Nat) : Option Fill :=
  s.fills.find? fun f => f.base == base && f.granule == g
/-- The code words that a range covers. -/
def codeWords (a n : Nat) : List Nat := if n = 0 then [] else (List.range ((a + n - 1) / 64 - a / 64 + 1)).map (· + a / 64)
/-- The granules that a range covers. -/
def granules (a n : Nat) : List Nat :=
  if n = 0 then [] else (List.range ((a + n - 1) / 65536 - a / 65536 + 1)).map (· + a / 65536)
/-- The last zero write of a FILLING granule has landed (R156). -/
def State.filled (s : State) (f : Fill) : State := { s with fills := s.fills.erase f }.setValid f.base f.granule true
/-- The trackers of a tier and die that are in use. -/
def State.fillsOf (s : State) (base : Bool) (die : Nat) : List Fill :=
  s.fills.filter fun f => f.base == base && addrDie base (f.granule * 65536) == die
/-- A write waits until one of the 64 trackers of its tier and die is free (R156). Which fill completes first is free (log
entry 191). -/
def State.freeTracker (s : State) (base : Bool) (g : Nat) : State :=
  let l := s.fillsOf base (addrDie base (g * 65536))
  if l.length < 64 then s
  else match l[s.drawNat.1 % l.length]? with
    | some f => s.drawNat.2.filled f
    | none => s
/-- The bytes that a granule's cells held before are gone: its code words read as zeros until they are written (R155). -/
def State.zeroGranule (s : State) (base : Bool) (g : Nat) : State :=
  if base then { s with base := s.base.clearRange (g * 65536) 65536 }
  else { s with heart := s.heart.clearRange (g * 65536) 65536 }
/-- A write touches one granule: an unwritten granule becomes FILLING; a FILLING one records the code words (R156). -/
def State.touchGranule (s : State) (base : Bool) (cws : List Nat) (g : Nat) : State :=
  let mine := (cws.filter fun c => c / 1024 == g).map (· % 1024)
  match s.fillOf base g with
  | some _ => { s with fills := s.fills.map fun f =>
      if f.base == base && f.granule == g then { f with mask := unionRising f.mask mine } else f }
  | none =>
    if s.validAt base g then s
    else
      let s1 := (s.freeTracker base g).zeroGranule base g
      { s1 with fills := s1.fills ++ [⟨base, g, unionRising [] mine⟩] }
/-- A write touches the granules of a range. -/
def State.touch (s : State) (base : Bool) (a n : Nat) : State :=
  (granules a n).foldl (fun t g => t.touchGranule base (codeWords a n) g) s

/-- A code word reads as zero without a DRAM access: its granule is unwritten, or FILLING without it (R155, R156). -/
def State.cwZero (s : State) (base : Bool) (a : Nat) : Bool :=
  !s.validAt base (granOf a) &&
    (match s.fillOf base (granOf a) with
     | some f => !f.mask.contains (a / 64 % 1024)
     | none => true)

/-! ### Raw access -/

/-- The part of the reserved region that holds the base tier's valid-bit map and the heart map's image (R149). -/
def mapArea : Nat := 0xA00000
/-- A byte of a valid-bit map: the bits of granules 8i to 8i + 7 (Table 7-4). -/
def mapByte (m : SMap Bool) (i : Nat) : Byte :=
  BitVec.ofNat 8 (((List.range 8).map fun k => b2n (SMap.get falseAt m (8 * i + k)) * 2 ^ k).sum)
/-- Store a byte of a valid-bit map. -/
def putMapByte (m : SMap Bool) (i : Nat) (b : Byte) : SMap Bool :=
  (List.range 8).foldl (fun q k => SMap.set falseAt q (8 * i + k) (b.getLsbD k)) m
/-- A byte of the map area: the base map at offset 0, the heart map's image at 8 MiB. -/
def State.mapAt (s : State) (o : Nat) : Byte :=
  if o < 0x800000 then mapByte s.baseValid o else mapByte s.fw.mapImage (o - 0x800000)
/-- Store a byte of the map area. -/
def State.putMap (s : State) (o : Nat) (b : Byte) : State :=
  if o < 0x800000 then { s with baseValid := putMapByte s.baseValid o b }
  else { s with fw := { s.fw with mapImage := putMapByte s.fw.mapImage (o - 0x800000) b } }
/-- The offset of a heart address in the map area. -/
def State.mapOff (s : State) (base : Bool) (a : Nat) : Option Nat :=
  if !base ∧ s.resBase ≤ a ∧ a < s.resBase + mapArea then some (a - s.resBase) else none

/-- The bytes that a read of a code word returns (R149, R150, R155). -/
def State.cwBytes (s : State) (base : Bool) (cw : Nat) : List Byte :=
  match s.mapOff base (64 * cw) with
  | some o => (List.range 64).map fun i => s.mapAt (o + i)
  | none => if s.cwZero base (64 * cw) then List.replicate 64 0 else (if base then s.base else s.heart).readN (64 * cw) 64
/-- The bytes of a tier. -/
def State.tierBytes (s : State) (base : Bool) (a n : Nat) : List Byte :=
  (((codeWords a n).flatMap (s.cwBytes base)).drop (a % 64)).take n
/-- The 72 or 80 symbols that a tier stores for a code word (R151, Table 7-5). -/
def State.storedWord (s : State) (base : Bool) (cw : Nat) : List Nat :=
  let d := (s.cwBytes base cw).map BitVec.toNat
  d ++ storedCheck base (s.place base (64 * cw)).word d
/-- A little-endian number in a tier. -/
def State.tierLE (s : State) (base : Bool) (a n : Nat) : Nat := leNat (s.tierBytes base a n)
/-- Store bytes in the cells of a tier. -/
def State.tierPut (s : State) (base : Bool) (a : Nat) (bs : List Byte) : State :=
  match s.mapOff base a with
  | some o => bs.zipIdx.foldl (fun t e => t.putMap (o + e.2) e.1) s
  | none => if base then { s with base := s.base.writeN a bs } else { s with heart := s.heart.writeN a bs }
/-- Bytes from address `a` on cut where code words begin. -/
def cwPieces (a : Nat) (bs : List Byte) : List (Nat × List Byte) :=
  let h := (64 - a % 64) % 64
  (if bs.take h = [] then [] else [(a, bs.take h)])
    ++ ((chunks 64 bs.length (bs.drop h)).zipIdx.map fun e => (a + h + 64 * e.2, e.1))
/-- A corrected value never overwrites newer data (R164): a write cancels the pending write-backs of its code words. -/
def State.cancelBack (s : State) (base : Bool) (a n : Nat) : State :=
  { s with wback := s.wback.filter fun e => !(e.1 == base && (codeWords a n).contains e.2) }
/-- A write that meets no fenced slice: first touch, cancelled write-backs, and the bytes. -/
def State.cellWrite (s : State) (base : Bool) (a : Nat) (bs : List Byte) : State :=
  ((s.touch base a bs.length).cancelBack base a bs.length).tierPut base a bs
/-- A write of bytes: those of a fenced die slice are discarded (R162). -/
def State.devWrite (s : State) (base : Bool) (a : Nat) (bs : List Byte) : State :=
  if (granules a bs.length).any fun g => s.sliceFenced base (g * 65536) then
    (cwPieces a bs).foldl (fun t e => if t.sliceFenced base e.1 then t else t.cellWrite base e.1 e.2) s
  else s.cellWrite base a bs
/-- Store into the firmware part of the reserved region, at an offset of Table 15-3. -/
def State.fwPut (s : State) (off : Nat) (bs : List Byte) : State := s.devWrite false (s.fwBase + off) bs
/-- Read the firmware part of the reserved region. -/
def State.fwGet (s : State) (off n : Nat) : List Byte := s.tierBytes false (s.fwBase + off) n

/-! ### What a controller sees (R151 to R154) -/

/-- The outcome of decoding one code word. -/
inductive ReadKind | clean | corrected | uncorrectable | dieFailure | mapError
deriving DecidableEq, Repr

/-- The symbols of one confinement unit: four lines of a heart code word, eight symbols of a base device. -/
def unitSymbols (base : Bool) : Nat := if base then 8 else 4
/-- How an observation decodes: errors within one confinement unit are corrected, all others are uncorrectable; a stack
die that drives no strobe or no line is a die failure (R152 to R154, R158). -/
def readKind (base : Bool) : ReadObs → ReadKind
  | .clean => .clean
  | .symbols [] => .clean
  | .symbols (x :: r) =>
    if r.all (fun y => y / unitSymbols base == x / unitSymbols base) then .corrected else .uncorrectable
  | .noStrobe => if base then .uncorrectable else .dieFailure
  | .undriven => if base then .uncorrectable else .dieFailure
  | .mapCorrected _ => .clean
  | .mapError => .mapError
/-- The symbols in error of the code word at an address. -/
def State.obsSymbols (s : State) (base : Bool) (a : Nat) : ReadObs → List Nat
  | .symbols l => l
  | .undriven => if base then [] else undrivenSymbols (s.place base a).word
  | _ => []
/-- The place in `ceWin` that counts the corrected errors of the map, its cache and the trackers (R158). The manual names no
entry that shows this count (log entry 192). -/
def mapCeKey : Nat := 0x10000
/-- Corrected single-bit errors of the map, its cache or a tracker are counted (R158). -/
def State.mapCorrected (s : State) : ReadObs → State
  | .mapCorrected n => { s with ceWin := SMap.modify zeroNat s.ceWin mapCeKey (· + n) }
  | _ => s

/-- The syndrome of a tier code word (Table 13-4): address and tier, symbol mask, granule recurrence count; byte 63 is set
for a fenced slice. -/
def memSyn (base : Bool) (a : Nat) (l : List Nat) (rec_ : Nat) (slice : Bool) : List Byte :=
  leBytes 8 (tierBit base + a / 64 * 64) ++ leBytes 10 (l.foldl setBit 0) ++ leBytes 1 (min rec_ 255) ++ leBytes 4 0
    ++ [if slice then 1 else 0]

/-- The counters of a channel: corrected, uncorrectable, bucket. -/
def ceKey (base : Bool) (ch : Nat) : Nat := if base then kBaseCe ch else kHeartCe (ch / 32) (ch % 32)
/-- The uncorrectable-read counter of a channel. -/
def uceKey (base : Bool) (ch : Nat) : Nat := if base then kBaseUce ch else kHeartUce (ch / 32) (ch % 32)
/-- The bucket of a channel. -/
def bucketKey (base : Bool) (ch : Nat) : Nat := if base then kBaseBucket ch else kHeartBucket (ch / 32) (ch % 32)

/-- An increment of a channel's bucket: reaching the threshold raises the overflow event, writes the CE record and
empties the bucket (R165). -/
def State.bucketUp (s : State) (base : Bool) (ch a : Nat) (l : List Nat) : State :=
  let v := s.odGet (bucketKey base ch) + 1
  if s.odGet (if base then kBaseBucketThreshold else kHeartBucketThreshold) ≤ v then
    let s1 := (s.odSet (bucketKey base ch) 0).event .mem (b2n base)
    s1.blotAdd (s1.mkRec 0 0 0 0 (chanUnit base ch) none none 0 0 (memSyn base a l 0 false))
  else s.odSet (bucketKey base ch) v

/-- The count of a corrected code word (R164, R165): counted, its address kept, its write-back queued. -/
def State.tierCount (s : State) (base : Bool) (a : Nat) : State :=
  let s1 := (s.bump (ceKey base (s.place base a).chan) 1).odSet kLastCe (tierBit base + a / 64 * 64)
  if s1.wback.contains (base, a / 64) then s1 else { s1 with wback := s1.wback ++ [(base, a / 64)] }
/-- A corrected code word (R164, R165): its count, and the bucket raised. -/
def State.tierCorrected (s : State) (base : Bool) (a : Nat) (l : List Nat) : State :=
  (s.tierCount base a).bucketUp base (s.place base a).chan a l

/-- Who consumes a tier access: the context with its unit and INSTR word, or none. -/
structure User where
  ctx : Option Nat
  unit : Nat
  instr : Nat
deriving DecidableEq, Repr

/-- The record of an uncorrectable read and the end of its consumer (R160): a context is torn down; a read for no context
is recorded alone. -/
def State.endConsumer (s : State) (base : Bool) (a : Nat) (l : List Nat) (rec_ : Nat) (u : User) : State :=
  let unit := chanUnit base (s.place base a).chan
  match u.ctx with
  | some c =>
    if (s.ctxAt c).st = .free then
      s.fault { cls := 1, action := 0, level := 0, unit := unit, part := none, ctx := none, instr := 0,
                syn := memSyn base a l rec_ false, cause := 0, flags := 0, window := false }
    else s.fault { cls := 1, action := 1, level := 1, unit := unit, part := some (s.ctxAt c).part, ctx := some c,
                   instr := u.instr, syn := memSyn base a l rec_ false, cause := 0, flags := 0, window := true }
  | none => s.fault { cls := 1, action := 0, level := 0, unit := unit, part := none, ctx := none, instr := 0,
                      syn := memSyn base a l rec_ false, cause := 0, flags := 0, window := false }

/-- Take the chip offline for a UCE_CONTROL fault of the memory tiers (R149, R158, R161). -/
def State.memOffline (s : State) (unit : Nat) (syn : List Byte) (cause : Nat) : State :=
  s.fault { cls := 2, action := 3, level := 3, unit := unit, part := none, ctx := none, instr := 0, syn := syn,
            cause := cause, flags := 0, window := false }

/-- The granule fences that GRANULE_FENCES of the flash status record holds (R346). -/
def flashFences : Nat := 2047
/-- Fence a granule (R161): a full list of its tier, or a full GRANULE_FENCES (R346), raises FENCE_TABLE_FULL and takes the
chip offline. -/
def State.fenceGranule (s : State) (base : Bool) (a cause : Nat) : State :=
  let g := granOf a
  let unit := chanUnit base (s.place base a).chan
  if s.granFences.contains (base, g) then s
  else if 1024 ≤ (s.granFences.filter fun e => e.1 == base).length ∨ flashFences ≤ s.granFences.length then
    (s.event .mem 6).memOffline unit (memSyn base a [] 0 false) cause
  else
    let s1 := { s with granFences := s.granFences ++ [(base, g)] }.event .mem 5
    let s2 := s1.blotAdd (s1.mkRec 1 0x0B 0 0 unit none none 0 cause (memSyn base a [] 0 false))
    s2.flashJob (.granule base g)

/-- The earlier uncorrectable reads of a granule within UCE_RECUR_WINDOW, and the state that remembers this one. -/
def State.granRecur (s : State) (base : Bool) (g : Nat) : Nat × State :=
  let key := 2 * g + b2n base
  let h := (SMap.get (fun _ => ([] : List Nat)) s.granHist key).filter fun t => s.g ≤ t + s.odGet kUceRecurWindow
  (h.length, { s with granHist := SMap.set (fun _ => ([] : List Nat)) s.granHist key (s.g :: h) })

/-- An uncorrectable read (R160, R161): counted, recorded, its consumer ended; the second in a granule within the window
fences the granule; a base channel named twice on different devices is fenced (Table 13-8). `scrub` tells the
scrubber's reads. -/
def State.tierUncorrectable (s : State) (base : Bool) (a : Nat) (l : List Nat) (u : User) (scrub : Bool) : State :=
  let ch := (s.place base a).chan
  let (n, s1) := ((s.bump (uceKey base ch) 1).event .mem (if scrub then 3 else 2)).granRecur base (granOf a)
  let s2 := s1.endConsumer base a l n u
  let seq := s2.blot.last
  let s3 := if n = 0 then s2 else s2.fenceGranule base a seq
  if base then
    let (again, s4) := s3.recur (chanUnit true ch) (l.foldl min 80 / 8) true
    if again then s4.fenceUnit (chanUnit true ch) 1 seq 0 (memSyn base a l n false) else s4
  else s3

/-- A context has a window over a range of a tier. -/
def Ctx.meets (x : Ctx) (base : Bool) (a n : Nat) : Bool :=
  let b := if base then x.baseBase else x.heartBase
  let z := if base then x.baseSize else x.heartSize
  x.st != .free && decide (a < b + z) && decide (b < a + n)
/-- The loaded contexts with a window over a range. -/
def State.meeting (s : State) (base : Bool) (a n : Nat) : List Nat :=
  (s.ctx.filter fun e => e.2.meets base a n).map Prod.fst

/-- A die failure (R149, R153, R162): the slice that holds the reserved region takes the chip offline; any other is fenced,
recorded, and every context with a window over it is torn down. -/
def State.dieFailure (s : State) (a : Nat) (l : List Nat) : State :=
  let ch := (s.place false a).chan
  let sl := s.sliceOf a
  let s1 := (s.bump (uceKey false ch) 1).event .mem 4
  if sl = 15 then s1.memOffline (chanUnit false ch) (memSyn false a l 0 true) 0
  else if s1.odBit kHeartFencedSlices sl then s1
  else
    let size := s1.heartChans (sl / 16) * 2 ^ 28
    let s2 := s1.odSetBit kHeartFencedSlices sl true
    let s3 := (s2.blotAdd (s2.mkRec 1 0x0B 1 0 (chanUnit false ch) none none 0 0 (memSyn false a l 0 true))).flashJob
      (.slice sl)
    let seq := s3.blot.last
    (s3.meeting false (sl / 16 * 2 ^ 39 + sl % 16 * size) size).foldl
      (fun t c => ((t.stopCtx c).enqueue seq (chanUnit false ch) (.teardown c)).event .blot 0) s3

/-- The end of a die failure's consumer whose windows do not overlap the slice (R160). -/
def State.endUnstopped (s : State) (a : Nat) (u : User) : State :=
  match u.ctx with
  | some c => if (s.ctxAt c).st = .stopped then s else s.endConsumer false a [] 0 u
  | none => s

/-- A granule of the range is fenced (R161). -/
def State.granFenced (s : State) (base : Bool) (a n : Nat) : Bool :=
  (granules a n).any fun g => s.granFences.contains (base, g)
/-- A granule or slice of the range is fenced. -/
def State.rangeFenced (s : State) (base : Bool) (a n : Nat) : Bool :=
  s.granFenced base a n || (granules a n).any fun g => s.sliceFenced base (g * 65536)

/-- A read of one code word with what the controller sees (R150 to R162): whether its data is delivered. -/
def State.tierReadAt (s : State) (base : Bool) (a : Nat) (u : User) (obs : ReadObs) : State × Bool :=
  match readKind base obs with
  | .mapError => ((s.event .mem 7).memOffline 0 (leBytes 4 (granOf a) ++ leBytes 1 0 ++ leBytes 1 7) 0, false)
  | k =>
    let s1 := s.mapCorrected obs
    if s1.rangeFenced base a 1 then (s1.endConsumer base a [] 0 u, false)
    else if s1.cwZero base a then (s1, true)
    else match k with
      | .corrected => (s1.tierCorrected base a (s1.obsSymbols base a obs), true)
      | .uncorrectable => (s1.tierUncorrectable base a (s1.obsSymbols base a obs) u false, false)
      | .dieFailure => ((s1.dieFailure a (s1.obsSymbols base a obs)).endUnstopped a u, false)
      | _ => (s1, true)
/-- The reads of several code words in turn, with what the controller sees of each (clean where the list ends), up to the first
whose data is not delivered. -/
def State.tierReads (s : State) (base : Bool) (u : User) : List Nat → List ReadObs → State × Bool
  | [], _ => (s, true)
  | w :: r, obs =>
    let (s1, ok) := s.tierReadAt base (64 * w) u (obs.headD .clean)
    if ok then s1.tierReads base u r obs.tail else (s1, false)

/-- A consumer reads a range: its bytes, or none where a read ended the consumer. -/
def State.tierFetch (s : State) (base : Bool) (a n : Nat) (u : User) (obs : List ReadObs) : State × Option (List Byte) :=
  let (s1, ok) := s.tierReads base u (codeWords a n) obs
  (s1, if ok then some (s1.tierBytes base a n) else none)

/-- The chunks of a channel of a tier. -/
def State.chanChunks (s : State) (base : Bool) (ch : Nat) : Nat :=
  if base then s.odBits (kBaseDimm ch) 13 0 * 2 ^ 30 / 512 else 2 ^ 32 / 512
/-- The scrub interval of a tier, I of R163, which OD 0x3200.07 and 0x3200.08 show; a base channel's N is that of the lowest
base channel that exists. -/
def State.scrubInterval (s : State) (base : Bool) : Nat :=
  s.odGet (if base then kBaseScrubPeriod else kHeartScrubPeriod) * 3600 * 475000000
    / max 1 (s.chanChunks base (if base then ((List.range 16).find? fun c => s.odBit kBaseChannels c).getD 0 else 0))
end Sys2Proof.Machine
end

