-- ==== Sys2Proof/Machine/Tct.lean ====
section
/-!
DEFINITION. The tenant context table in the base tier (R193 to R195): its fields, CHECK, HELD, and the ring records that
the device writes into the firmware part of the reserved region.
-/
namespace Sys2Proof.Machine

/-- The bytes of tenant entry `e`. -/
def State.tctBytes (s : State) (e : Nat) : List Byte := s.tierBytes true (s.tctAddr e) 128
/-- A field of tenant entry `e`, `n` bytes at offset `off` of Table 9-2. -/
def State.tct (s : State) (e off n : Nat) : Nat := s.tierLE true (s.tctAddr e + off) n
/-- Write bytes into a tenant entry and compute its CHECK. -/
def State.tctPut (s : State) (e off : Nat) (bs : List Byte) : State :=
  let s1 := s.devWrite true (s.tctAddr e + off) bs
  s1.devWrite true (s1.tctAddr e + 124) (leBytes 4 (crc32c (s1.tierBytes true (s1.tctAddr e) 124)))
/-- Write a field of a tenant entry. -/
def State.tctSet (s : State) (e off n v : Nat) : State := s.tctPut e off (leBytes n v)
/-- The CHECK of a tenant entry holds (R193). -/
def State.tctOk (s : State) (e : Nat) : Bool := s.tct e 124 4 == crc32c (s.tierBytes true (s.tctAddr e) 124)
/-- VALID, HELD and the tenant id of an entry. -/
def State.tctValid (s : State) (e : Nat) : Bool := bit (s.tct e 0 4) 31
/-- HELD of an entry. -/
def State.tctHeld (s : State) (e : Nat) : Bool := bit (s.tct e 0 4) 30
/-- The tenant id of an entry. -/
def State.tctId (s : State) (e : Nat) : Nat := bits (s.tct e 0 4) 23 0
/-- Withhold a tenant from admission (R189, R286). -/
def State.tctHold (s : State) (e : Nat) : State := s.tctSet e 0 4 (setBit (s.tct e 0 4) 30)

/-- The contexts in whose running batch a tenant entry is bound. -/
def State.boundIn (s : State) (e : Nat) : List Nat :=
  (s.ctx.filter fun x => x.2.slots.any fun q => q.entry == e).map Prod.fst
/-- A tenant is bound (R194). -/
def State.tctBound (s : State) (e : Nat) : Bool := !(s.boundIn e).isEmpty
/-- The bound entry of a context whose tenant id is given. -/
def State.entryOf (s : State) (c tenant : Nat) : Option Nat :=
  ((s.ctxAt c).slots.find? fun q => s.tctId q.entry == tenant).map SlotEntry.entry

/-- A step of a context is a replay: REPLAY is set, or the step was begun before (R188, Table 13-1). -/
def State.isReplay (s : State) (c : Nat) : Bool := (s.ctxAt c).again || (s.ctxAt c).replay

/-- Write a record into a ring of the firmware part: `n` records of `size` bytes at `off`; the first record, SEQ 1,
lies at place 0, record SEQ at place (SEQ − 1) mod n (log entry 27). Answers whether it overwrote a record. -/
def State.ringPut (s : State) (off size n seq : Nat) (bs : List Byte) : Bool × State :=
  let a := off + size * ((seq - 1) % n)
  (leNat (s.fwGet a 4) != 0, s.fwPut a bs)

/-- A trace point of the firmware (R344): a log record where the point's range is enabled in TRACE_MASK or the point's level
is LOG_LEVEL or more severe. The manual gives a fixed point neither its level nor its task nor its ARGS: they are free. -/
def State.trace (s : State) (point : Nat) : State :=
  let (lv, s1) := s.drawNat
  if bit (s.odGet kTraceMask) (point / 256) ∨ lv % 4 ≤ s.odGet kLogLevel then
    let (task, s2) := s1.drawNat
    let seq := nextSeq (s.odGet kLogHead)
    let bs := leBytes 4 seq ++ leBytes 2 point ++ leBytes 1 (task % 64) ++ leBytes 1 (task / 64 % 6 * 16 + lv % 4) ++ leBytes 8 s.g
      ++ (freeWords s2.free 4).flatMap fun w => leBytes 4 w.toNat
    let (full, s3) := (s2.skipFree 4).ringPut 0x260000 32 16384 seq bs
    let s4 := s3.odSet kLogHead seq
    if full then s4.bump kLogOverrun 1 else s4
  else s1

end Sys2Proof.Machine
end

