-- ==== Sys2Proof/Machine/Nose.lean ====
section
/-!
DEFINITION. The Nose (R184 to R189): monitor entries, their inputs from tagged tier writes, loss tracking, the Nose step
at drydown, events, and the roll-back of a step.
-/
namespace Sys2Proof.Machine

/-- An entry without input. -/
def noseDefault : Nat → NoseIn := fun _ => ⟨false, 0, 0, false, 0, false, 0, 0, 0⟩
/-- The key of the inputs of entry `e` from context `c`. -/
def noseKey (e c : Nat) : Nat := e * 256 + c
/-- The inputs of entry `e` from context `c`. -/
def State.noseAt (s : State) (e c : Nat) : NoseIn := SMap.get noseDefault s.noseIn (noseKey e c)
/-- Change the inputs of an entry. -/
def State.modNose (s : State) (e c : Nat) (f : NoseIn → NoseIn) : State :=
  { s with noseIn := SMap.modify noseDefault s.noseIn (noseKey e c) f }

/-- The entry number of a MON_CFG key. -/
def monOfKey (k : Nat) : Nat := (k / 256 - 0x7100) * 128 + (k % 256 - 1)
/-- The configured monitor entries: entry and configuration (Table 8-5). -/
def State.monitors (s : State) : List (Nat × Nat) :=
  (s.od.filter fun e => decide (0x7100 ≤ e.1 / 256 ∧ e.1 / 256 < 0x7120 ∧ 1 ≤ e.1 % 256) && bits e.2 3 2 != 0).map
    fun e => (monOfKey e.1, e.2)

/-- A field of a monitor state: bits `[hi:lo]` of its 128 bytes (Table 8-7). -/
def State.mon (s : State) (e hi lo : Nat) : Nat := s.odBits (kMonState e) hi lo
/-- Set a field of a monitor state. -/
def State.setMon (s : State) (e hi lo v : Nat) : State := s.odSetBits (kMonState e) hi lo v

/-- An event of an entry (R189): its record, EVENT_HEAD, and with ACTION the hold of the tenant. -/
def State.noseEvent (s : State) (c e code value : Nat) : State :=
  let cfg := s.odGet (kMonCfg e)
  let owner := if bits cfg 39 16 = 0xFFFFFF then (s.noseAt e c).owner else bits cfg 39 16
  let held := if bit cfg 1 then s.entryOf c owner else none
  let seq := nextSeq (s.odGet kEventHead)
  let rec_ := leBytes 4 seq ++ leBytes 2 e ++ leBytes 1 code ++ leBytes 1 (b2n (s.isReplay c) + 2 * b2n held.isSome)
    ++ leBytes 8 s.g ++ leBytes 4 owner ++ leBytes 4 value ++ leBytes 6 (s.stepOf c) ++ leBytes 1 c ++ [0]
  let (full, s1) := s.ringPut 0x240000 32 4096 seq rec_
  let s2 := (s1.odSet kEventHead seq).event .nose (code - 1)
  let s3 := if full then (s2.bump kEventOverrun 1).event .nose 6 else s2
  match held with
  | some t => s3.tctHold t
  | none => s3

/-- Add to a saturating field of a monitor state (R187). -/
def State.monAdd (s : State) (e hi lo n : Nat) : State := s.setMon e hi lo (min (s.mon e hi lo + n) (2 ^ (hi + 1 - lo) - 1))
/-- SATURATED (R187): a field at its largest value sets its SAT bit `sat` and raises the event, once. -/
def State.monSat (s : State) (c e hi lo sat : Nat) : State :=
  let top := 2 ^ (hi + 1 - lo) - 1
  if s.mon e hi lo = top ∧ !s.odBit (kMonState e) (48 + sat) then
    (s.odSetBit (kMonState e) (48 + sat) true).noseEvent c e 6 top
  else s

/-- Non-finite elements of an entry: counted; the threshold raises NONFINITE once per step (Table 8-6). -/
def State.noseNonfinite (s : State) (c e n : Nat) : State :=
  if n = 0 then s
  else
    let s1 := (s.monAdd e 31 0 n).modNose e c fun x => { x with nonfinite := x.nonfinite + n }
    let x := s1.noseAt e c
    let thr := s1.odGet kNonfiniteThreshold
    (if thr ≠ 0 ∧ thr ≤ x.nonfinite ∧ !x.raised then
      (s1.modNose e c fun y => { y with raised := true }).noseEvent c e 1 x.nonfinite
    else s1).monSat c e 31 0 0

/-- Note that an entry received an input; the first of the step keeps the entry's state for a roll-back (R188). -/
def State.noseSeen (s : State) (c e owner : Nat) : State :=
  let x := s.noseAt e c
  let s1 := if x.seen then s
    else s.modCtx c fun y => { y with snap := { y.snap with nose := (e, s.odGet (kMonState e)) :: y.snap.nose } }
  s1.modNose e c fun y => { y with seen := true, owner := owner }

/-- A tile status record of an entry (Table 3-4). -/
def State.noseStatus (s : State) (c e owner rec_ : Nat) : State :=
  let a := bits rec_ 127 96
  let nf := bits rec_ 95 64
  ((s.noseSeen c e owner).modNose e c fun x =>
    { x with records := x.records + 1, amax := max x.amax a, notZero := x.notZero || decide (a ≠ 0 ∨ nf ≠ 0) }).noseNonfinite
      c e nf

/-- An FP32 element is ±0 or subnormal. -/
def smallElem (v : Nat) : Bool := decide (v % 2 ^ 31 < 2 ^ 23)
/-- Elements of an entry with UF_EN, as FP32 (log entry 28). -/
def State.noseElems (s : State) (c e owner : Nat) (es : List Nat) : State :=
  (s.noseSeen c e owner).modNose e c fun x =>
    { x with z := x.z + (es.filter smallElem).length, n := x.n + es.length }

/-- A loss value (R186). -/
def State.noseLoss (s : State) (c e owner : Nat) (x : W32) : State :=
  let s1 := s.noseSeen c e owner
  if !(dec32 x).isFinite then s1.noseNonfinite c e 1
  else if s1.mon e 207 192 = 0 then
    (((s1.setMon e 159 128 x.toNat).setMon e 191 160 0).monAdd e 207 192 1).monSat c e 207 192 2
  else
    let m := BitVec.ofNat 32 (s1.mon e 159 128)
    let v := BitVec.ofNat 32 (s1.mon e 191 160)
    let k := BitVec.ofNat 32 (s1.odGet kSpikeK)
    let al := BitVec.ofNat 32 (s1.odGet kSpikeAlpha)
    let d := sub32 x m
    if s1.odGet kSpikeWarmup ≤ s1.mon e 207 192 ∧ (dec32 posZero).lt (dec32 d)
        ∧ (dec32 (mul32 (mul32 k k) v)).lt (dec32 (mul32 d d)) then s1.noseEvent c e 5 x.toNat
    else
      let m' := add32 m (mul32 al d)
      let v' := mul32 (sub32 0x3F800000#32 al) (add32 v (mul32 al (mul32 d d)))
      (((s1.setMon e 159 128 m'.toNat).setMon e 191 160 v'.toNat).monAdd e 207 192 1).monSat c e 207 192 2

/-- An entry's configuration takes the inputs of an owner: it names any tenant, or the owner while that tenant is in the running
batch of the context (R184, R188). -/
def State.noseBound (s : State) (c cfg owner : Nat) : Bool :=
  bits cfg 39 16 == 0xFFFFFF || (bits cfg 39 16 == owner && (s.entryOf c owner).isSome)
/-- A tagged write as one entry sees it (R184): status records under the id XOR 0x80_0000, a loss value, or elements. Of a write that
holds a part of a record or of an element the manual says nothing: the part is read as a whole one with zeros above it, and of a
loss write beyond 4 bytes the first value counts (DESIGN CHOICE, log entry 224). -/
def State.noseEntry (s : State) (c tensor owner : Nat) (data : List Byte) (m : Nat × Nat) : State :=
  let (e, cfg) := m
  if !s.noseBound c cfg owner then s
  else if bits cfg 63 40 ^^^ 0x800000 = tensor then
    (chunks 16 data.length data).foldl (fun t r => t.noseStatus c e owner (leNat r)) s
  else if bits cfg 63 40 = tensor then
    (if bits cfg 3 2 = 3 then s.noseLoss c e owner (BitVec.ofNat 32 (leNat (data.take 4)))
     else if bit cfg 0 then s.noseElems c e owner ((chunks 4 data.length data).map leNat)
     else s)
  else s
/-- A tagged write reaches the Nose. -/
def State.noseWrite (s : State) (c tensor owner : Nat) (data : List Byte) : State :=
  s.monitors.foldl (fun t m => t.noseEntry c tensor owner data m) s

/-- The UNDERFLOW condition (Table 8-6). -/
def underflows (ratio z n : Nat) : Bool := decide (ratio ≠ 0 ∧ ratio * n < 65536 * z)

/-- The Nose step of one entry at a drydown, in the order of Table 8-6 (R185, Tables 8-6 and 8-7). Every one of no status
records is all zero, so that a step of elements alone counts (log entry 195). HIST_POS steps before AMAX_HIST is written, so that the
first step after a reset takes index 1: the manual gives no start (DESIGN CHOICE, log entry 223). -/
def State.noseStep (s : State) (c e : Nat) : State :=
  let x := s.noseAt e c
  if !x.seen then s
  else
    let cfg := s.odGet (kMonCfg e)
    let kind := bits cfg 3 2
    let zero := !x.notZero
    let pos := (s.mon e 223 208 + 1) % 16
    let s1 := ((((s.setMon e 95 64 (x.z % 2 ^ 32)).setMon e 127 96 (x.n % 2 ^ 32)).setMon e 223 208 pos).setMon e
      (543 + 32 * pos) (512 + 32 * pos) x.amax)
    let s2 :=
      if kind = 1 then
        (if zero then
          let t1 := s1.monAdd e 47 32 1
          let run := t1.mon e 47 32
          let thr := t1.odGet kZeroRunThreshold
          let t2 := if thr ≠ 0 ∧ thr ≤ run ∧ !t1.odBit (kMonState e) 51 then
            (t1.odSetBit (kMonState e) 51 true).noseEvent c e 2 run else t1
          let pair := bits cfg 15 4
          let p := t2.noseAt pair c
          if pair ≠ e ∧ p.records ≠ 0 ∧ p.amax ≠ 0 ∧ !t2.odBit (kMonState e) 52 then
            (t2.odSetBit (kMonState e) 52 true).noseEvent c e 3 run
          else t2
         else ((s1.setMon e 47 32 0).odSetBit (kMonState e) 51 false).odSetBit (kMonState e) 52 false)
      else s1
    (if (kind = 1 ∨ kind = 2) ∧ bit cfg 0 ∧ underflows (s2.odGet kUnderflowRatio) x.z x.n then s2.noseEvent c e 4 (x.z % 2 ^ 32)
    else s2).monSat c e 47 32 1

/-- The entries that received input from a context in its step. -/
def State.noseEntries (s : State) (c : Nat) : List Nat :=
  (s.noseIn.filter fun e => e.1 % 256 == c && e.2.seen).map fun e => e.1 / 256 % 4096
/-- Forget the inputs of a context's step. -/
def State.noseClear (s : State) (c : Nat) : State :=
  { s with noseIn := s.noseIn.filter fun e => e.1 % 256 != c }
/-- The Nose steps of a drydown. -/
def State.noseCommit (s : State) (c : Nat) : State :=
  ((s.noseEntries c).foldl (fun t e => t.noseStep c e) s).noseClear c
/-- A discarded step returns each affected entry to its state at the last committed epoch (R188). -/
def State.noseRollback (s : State) (c : Nat) : State :=
  ((s.ctxAt c).snap.nose.foldl (fun t e => t.odSet (kMonState (e.1 % 4096)) e.2) s).noseClear c

/-- A write of a monitor entry's configuration resets its state (R187). -/
def execMonCfg (e : Fin 4096) (value : W64) (s : State) : Host.Outcome State Fault Refusal :=
  .next ((s.odSet (kMonCfg e) value.toNat).odSet (kMonState e) 0)

end Sys2Proof.Machine
end

