-- ==== Sys2Proof/Machine/Store.lean ====
section
/-!
DEFINITION. Writes into the tiers (R150, R156, R159 to R164): narrow merges, digest regions (R268, R269), the Nose's tags;
context windows and the weight aperture (R315, R330); the fields of a weight set (R314); TIER_READ and TIER_WRITE.
-/
namespace Sys2Proof.Machine

/-! ### Weight sets (R314, Tables 14-1 to 14-3) -/

/-- A field of WSET_CFG: 0 HEART_BASE, 1 SIZE, 2 STAGE, 3 MANIFEST. -/
def State.wsCfg (s : State) (n i : Nat) : Nat := s.odBits (kWsetCfg n) (64 * i + 63) (64 * i)
/-- The state code of a set. -/
def State.wsState (s : State) (n : Nat) : Nat := s.odBits (kWsetState n) 7 0
/-- Set the state code of a set. -/
def State.setWsState (s : State) (n v : Nat) : State := s.odSetBits (kWsetState n) 7 0 v
/-- The active VERSION of a set. -/
def State.wsVersion (s : State) (n : Nat) : Nat := s.odBits (kWsetState n) 127 64
/-- A layer's byte of LAYER_STATE. -/
def State.layerSt (s : State) (n i : Nat) : Nat := s.odBits (kLayerState n) (8 * i + 7) (8 * i)
/-- Set a layer's byte of LAYER_STATE. -/
def State.setLayerSt (s : State) (n i v : Nat) : State := s.odSetBits (kLayerState n) (8 * i + 7) (8 * i) v
/-- Weight set `n`. -/
def State.wsAt (s : State) (n : Nat) : WeightSet := s.wsets[n % 16]'(Nat.mod_lt _ (by decide))
/-- Change weight set `n`. -/
def State.modWs (s : State) (n : Nat) (f : WeightSet → WeightSet) : State :=
  { s with wsets := s.wsets.set (n % 16) (f (s.wsAt n)) (Nat.mod_lt _ (by decide)) }

/-- LAYER_COUNT of a manifest. -/
def manLayers (m : List Byte) : Nat := field m 12 4
/-- VERSION of a manifest. -/
def manVersion (m : List Byte) : Nat := field m 16 8
/-- A layer entry of a manifest (Table 14-3). -/
structure Layer where
  off : Nat
  size : Nat
  tile : Nat
  leaves : Nat
  sil : Nat
  root : List Byte
deriving DecidableEq, Repr
/-- Layer `i` of a manifest. -/
def manLayer (m : List Byte) (i : Nat) : Layer :=
  let b := 128 + 96 * i
  { off := field m b 8, size := field m (b + 8) 8, tile := field m (b + 16) 4, leaves := field m (b + 24) 4,
    sil := beNat ((m.drop (b + 32)).take 16), root := (m.drop (b + 48)).take 32 }
/-- The key of a manifest's layers (R320). -/
def manKey (m : List Byte) : Nat := epochKey 0xFFFFFF (manVersion m)

/-- The range of set `k` that a physical range meets, told by whether it is its manifest area (R314). -/
def State.setMeets (s : State) (k : Nat) (base : Bool) (a n : Nat) : Option Bool :=
  let z := s.wsCfg k 1
  let meets := fun (lo len : Nat) => decide (len ≠ 0 ∧ lo < a + n ∧ a < lo + len)
  if !base && meets (s.wsCfg k 0) z then some false
  else if base == bit (s.wsCfg k 2) 63 && meets (bits (s.wsCfg k 2) 41 0) z then some false
  else if !base && z != 0 && meets (s.wsCfg k 3) 0x80000 then some true
  else none
/-- The set's range that a physical range meets: set, and whether it is its manifest area. -/
def State.setRange (s : State) (base : Bool) (a n : Nat) : Option (Nat × Bool) :=
  (List.range 16).findSome? fun k => (s.setMeets k base a n).map fun m => (k, m)

/-! ### Windows (R85, R137, R315, R330) -/

/-- The staged VERSION of a set. -/
def State.wsStaged (s : State) (n : Nat) : Nat := s.odBits (kWsetState n) 191 128
/-- A set offset lies in a layer of the aperture whose gate is closed for a step that latched VERSION `v`: one of the new epoch (R330). -/
def State.gateClosed (s : State) (n v off : Nat) : Bool :=
  let m := (s.wsAt n).active
  decide (v = s.wsStaged n) && (List.range (manLayers m)).any fun i =>
    let l := manLayer m i
    decide (l.off ≤ off ∧ off < l.off + l.size) && s.layerSt n i == 4

/-- A range is part of no context window: it meets a range of a weight set (R314), the tenant context table of the base tier or the flow table of the heart tier
(R194, R243). -/
def State.inTable (s : State) (base : Bool) (a n : Nat) : Bool :=
  (s.setRange base a n).isSome || if base then decide (a < s.odGet kTctBase + 2 ^ 27 ∧ s.odGet kTctBase < a + n)
  else decide (a < s.odGet kFlowBase + 2 ^ 24 ∧ s.odGet kFlowBase < a + n)
/-- The physical address of `n` bytes at a window offset of a context; none outside its windows. Offsets in the weight
aperture read the heart range of the latched set; they are written never, and read not behind a closed gate. -/
def State.window (s : State) (c : Nat) (base : Bool) (off n : Nat) (write : Bool) : Option Nat :=
  let x := s.ctxAt c
  if base then (if off + n ≤ x.baseSize ∧ !s.inTable true (x.baseBase + off) n then some (x.baseBase + off) else none)
  else
    let ap := s.odGet (kWaperture c)
    let set := x.latched.set
    let size := s.wsCfg set 1
    if x.latched.version ≠ 0 ∧ ap < off + n ∧ off < ap + size then
      (if write ∨ off < ap ∨ ap + size < off + n ∨ s.gateClosed set x.latched.version (off - ap) ∨ s.gateClosed set x.latched.version (off + n - 1 - ap) then
        none
       else some (s.wsCfg set 0 + (off - ap)))
    else if off + n ≤ x.heartSize ∧ !s.inTable false (x.heartBase + off) n then some (x.heartBase + off) else none
/-- The value of Table 13-11 for an access outside the windows. -/
def windowVal (base : Bool) (off : Nat) : Nat := tierBit base + off % 2 ^ 63

/-! ### Digests of regions and layers (R265, R268) -/

/-- Fold blocks into a running tensor digest: the block at byte `pos` lies in tile `pos / tile` (R265). -/
def foldAt (h tile : Nat) : Nat → List Nat → Nat → Nat
  | _, [], acc => acc
  | pos, b :: r, acc =>
    foldAt h tile (pos + 16) r
      (acc ^^^ gmul (gmul b (gpow h (pos % tile / 16 + 2))) (gpow h (pos / tile + 2)))
/-- The sum of `x` weighted for tiles 0 to `n - 1`. -/
def tileSum (h x : Nat) : Nat → Nat
  | 0 => 0
  | n + 1 => tileSum h x n ^^^ gmul x (gpow h (n + 2))
/-- The digest of a tensor of `n` tiles of `tile` bytes from its running digest (R265, R268). -/
def closeFold (h tile n acc : Nat) : Nat :=
  acc ^^^ tileSum h (gmul (lenblock 0 (8 * tile)) h) n ^^^ gmul (lenblock n (8 * (n * tile))) h

/-- The part of bytes at address `a` that lies in `[lo, hi)`: its offset from `lo`, and the bytes. -/
def clip (lo hi a : Nat) (data : List Byte) : Option (Nat × List Byte) :=
  let x := max lo a
  let y := min hi (a + data.length)
  if x < y then some (x - lo, (data.drop (x - a)).take (y - x)) else none

/-- The physical base of a region. -/
def Ctx.regionAddr (x : Ctx) (r : Region) : Nat := (if r.base then x.baseBase else x.heartBase) + r.off
/-- The key of a region (Table 12-1). -/
def Region.key (r : Region) : Nat := if r.kind = 2 then outputKey r.owner r.version else epochKey r.owner r.version
/-- The region digests under folding. -/
def Region.digested (r : Region) : Bool := r.kind == 1 || r.kind == 2
/-- Fold the part of a write that lands in a region. -/
def Region.fold (r : Region) (lo a : Nat) (data : List Byte) : Region :=
  if !r.digested then r
  else match clip lo (lo + r.size) a data with
    | none => r
    | some (pos, bs) =>
      { r with acc := foldAt r.key r.tileBytes pos (Sys2Proof.Machine.blocks bs) r.acc, blocks := r.blocks + (bs.length + 15) / 16 }
/-- The digest of a closed region. -/
def Region.digest (r : Region) : Nat := closeFold r.key r.tileBytes (r.size / r.tileBytes) r.acc

/-- The entry of an EPOCH or OUTPUT region that a narrow write of a context meets (R268). -/
def State.narrowHit (s : State) (c : Nat) (base : Bool) (a : Nat) (data : List Byte) : Option Nat :=
  if a % 64 = 0 ∧ data.length % 64 = 0 then none
  else
    let x := s.ctxAt c
    (x.regions.find? fun r => r.digested && r.base == base
      && (clip (x.regionAddr r) (x.regionAddr r + r.size) a data).isSome).map Region.entry

/-- A write of a context reaches its digest regions and, tagged, the Nose (R268, R269). -/
def State.regionWrite (s : State) (c : Nat) (base : Bool) (a : Nat) (data : List Byte) : State :=
  let x := s.ctxAt c
  let mine := x.regions.filter fun r => r.base == base && r.kind != 0
  if mine.isEmpty then s
  else
    let s1 := s.setCtx c { x with regions := x.regions.map fun r =>
      if r.base == base then r.fold (x.regionAddr r) a data else r }
    mine.foldl (fun t r => match clip (x.regionAddr r) (x.regionAddr r + r.size) a data with
      | some q => t.noseWrite c r.tensor r.owner q.2
      | none => t) s1

/-! ### Writes -/

/-- The code words that a range covers only in part (R159). -/
def narrowWords (a n : Nat) : List Nat :=
  (codeWords a n).filter fun w => decide (64 * w < a ∨ a + n < 64 * w + 64)

/-- The controller's reads for a write: those of its narrow code words outside fenced slices, else a lookup of the map alone;
whether the write goes on (R158 to R160, R162). -/
def State.mergeRead (s : State) (base : Bool) (a n : Nat) (u : User) (obs : List ReadObs) : State × Bool :=
  match (narrowWords a n).filter fun w => !s.sliceFenced base (64 * w) with
  | [] => if obs.headD .clean = .mapError then s.tierReadAt base a u .mapError else (s.mapCorrected (obs.headD .clean), true)
  | l => s.tierReads base u l obs

/-- A write of a range by a consumer with what the controller reads for a narrow merge: whether it was performed. -/
def State.tierStore (s : State) (base : Bool) (a : Nat) (data : List Byte) (u : User) (obs : List ReadObs) :
    State × Bool :=
  match u.ctx.bind fun c => (s.narrowHit c base a data).map fun e => (c, e) with
  | some (c, e) => (s.progFault c u.unit u.instr 0xE e, false)
  | none =>
    if s.granFenced base a data.length ∧ u.ctx.isSome then (s.endConsumer base a [] 0 u, false)
    else
      let (s1, ok) := s.mergeRead base a data.length u obs
      if !ok then (s1, false)
      else
        let s2 := s1.devWrite base a data
        match u.ctx with
        | some c => (s2.regionWrite c base a data, true)
        | none => (s2, true)

/-- The user of a tier command (R160): a context's accesses are recorded under its partition's schedule guard. -/
def State.userOf (s : State) : Requester → User
  | .context c instr => ⟨some c.val, unitId 0xE (s.ctxAt c).part, instr⟩
  | _ => ⟨none, 0, 0⟩

/-- An access to an address that does not exist: no window covers one (R146), so that a context's ends it as an access outside
its windows (R108); of the other units none holds such an address, and nothing is accessed (log entry 193). -/
def State.noAddress (s : State) (base : Bool) (addr : Nat) (u : User) : State :=
  match u.ctx with
  | some c => s.progFault c u.unit u.instr 3 (windowVal base addr)
  | none => s

/-- TIER_READ (R150 to R165): one code word. -/
def execTierRead (t : Tier) (addr : Nat) (who : Requester) (obs : ReadObs) (s : State) :
    Host.Outcome State Fault Refusal :=
  .next (whenLive s
    (if s.addrOk (tierBase t) addr then (s.tierReadAt (tierBase t) addr (s.userOf who) obs).1
     else s.noAddress (tierBase t) addr (s.userOf who)))

/-- TIER_WRITE (R150, R156, R159, R164, R268, R269). -/
def execTierWrite (t : Tier) (addr : Nat) (data : List Byte) (who : Requester) (obs : List ReadObs) (s : State) :
    Host.Outcome State Fault Refusal :=
  .next (if data = [] then s else whenLive s
    (if s.rangeOk (tierBase t) addr data.length then (s.tierStore (tierBase t) addr data (s.userOf who) obs).1
     else s.noAddress (tierBase t) addr (s.userOf who)))

/-! ### Fills, scrubber, buckets, write-backs, discards, loop-backs -/

/-- A channel is populated. -/
def State.chanOk (s : State) (base : Bool) (ch : Nat) : Bool :=
  if base then s.odBit kBaseChannels ch else decide (ch < 256) && s.odBit kHeartPositions (ch / 32)

/-- FILL_COMPLETE (R156): the last zero write of a granule has landed. -/
def execFillComplete (t : Tier) (granule : Nat) (s : State) : Host.Outcome State Fault Refusal :=
  .next (whenLive s (match s.fillOf (tierBase t) granule with
    | some f => s.filled f
    | none => s))

/-- BUCKET_LEAK (R165): a leak interval of a channel elapses. A corrected error in the same UCLK cycle is counted and leaves
the bucket unchanged. A channel that is not populated is no unit of the device (R3). -/
def execBucketLeak (t : Tier) (ch : Nat) (incr : Option (Nat × List Nat)) (s : State) :
    Host.Outcome State Fault Refusal :=
  let k := bucketKey (tierBase t) ch
  .next (if s.chanOk (tierBase t) ch then whenLive s (match incr with
      | some (a, _) => s.tierCount (tierBase t) a
      | none => s.odSet k (s.odGet k - 1))
    else s)

/-- CORRECTED_WRITE_BACK (R164): the pending write-back of a code word is performed; it writes the value the word holds. -/
def execCorrectedWriteBack (t : Tier) (cw : Nat) (s : State) : Host.Outcome State Fault Refusal :=
  .next (whenLive s { s with wback := s.wback.filter fun e => e != (tierBase t, cw) })

/-- The address of chunk `l` of a channel: the inverse of R146 and R148. -/
def State.chunkAddr (s : State) (base : Bool) (ch l : Nat) : Nat :=
  let die := if base then ch / 8 else ch / 128
  let c := if base then s.baseChans die else s.heartChans die
  let k := if base then ch % 8 else 32 * ((s.stacksOf die).takeWhile fun p => p != ch / 32).length + ch % 32
  let c' := max 1 c
  die * halfBase base + (l * c' + (k + c' - l % c') % c') * 512

/-- The key of a channel's scrubber. -/
def scrubKey (base : Bool) (ch : Nat) : Nat := 256 * b2n base + ch

/-- The reads of a scrubber visit: correction, uncorrectable reads that end no context, die failures. -/
def State.scrubReads (s : State) (base : Bool) (a : Nat) : Nat → List ReadObs → State
  | _, [] => s
  | i, o :: r =>
    let w := a + 64 * i
    let s1 := if s.cwZero base w then s
      else match readKind base o with
        | .corrected => s.tierCorrected base w (s.obsSymbols base w o)
        | .uncorrectable => s.tierUncorrectable base w (s.obsSymbols base w o) ⟨none, 0, 0⟩ true
        | .dieFailure => s.dieFailure w (s.obsSymbols base w o)
        | .mapError => (s.event .mem 7).memOffline 0 (leBytes 4 (granOf w) ++ leBytes 1 0 ++ leBytes 1 7) 0
        | .clean => s.mapCorrected o
    s1.scrubReads base a (i + 1) r

/-- SCRUB_VISIT (R163): a visit falls due; with its read granted the chunk's eight code words are read and corrected and
L advances; a visit falling due with one pending counts a lag. -/
def State.scrubVisit (s : State) (base : Bool) (ch : Nat) (granted : Bool) (obs : List ReadObs) : State :=
  let key := scrubKey base ch
  let l := SMap.get zeroNat s.scrubL key
  let a := s.chunkAddr base ch l
  let next := if l + 1 < s.chanChunks base ch then l + 1 else 0
  let s2 := { s with scrubL := SMap.set zeroNat s.scrubL key next,
                     scrubPend := SMap.set falseAt s.scrubPend key false }
  if (!s.validAt base (granOf a) && (s.fillOf base (granOf a)).isNone) || s.rangeFenced base a 512 then s2
  else if granted then s2.scrubReads base a 0 (obs.take 8)
  else if SMap.get falseAt s.scrubPend key then (s.bump kScrubLag 1).event .mem 8
  else { s with scrubPend := SMap.set falseAt s.scrubPend key true }

/-- SCRUB_VISIT; a channel that is not populated has no scrubber (R3). -/
def execScrubVisit (t : Tier) (ch : Nat) (granted : Bool) (obs : List ReadObs) (s : State) :
    Host.Outcome State Fault Refusal :=
  .next (if s.chanOk (tierBase t) ch then whenLive s (s.scrubVisit (tierBase t) ch granted obs) else s)

/-- A range of granules lies in a half that exists, and outside the reserved region. -/
def State.discardable (s : State) (base : Bool) (g n : Nat) : Bool :=
  s.rangeOk base (g * 65536) (n * 65536) && !s.inReserved base (g * 65536) (n * 65536)

/-- VMAP_DISCARD (R157): refused with status 3 for a range that does not exist or meets the reserved region, with status 2
for a window of a loaded context; a range that is both has status 3 (DESIGN CHOICE, log entry 221). Else busy until
VMAP_DISCARD_DONE. A count outside 1 to 2^26 is no value of the entry (R167, R362). -/
def execVmapDiscard (value : W64) (s : State) : Host.Outcome State Fault Refusal :=
  let v := value.toNat
  let base := bit v 63
  let g := bits v 57 32
  let n := bits v 26 0
  .next (if s.jobs.discard.isSome then s.refuse 6
    else if n = 0 ∨ 2 ^ 26 < n then s.refuse 4
    else if !s.discardable base g n then (s.odSet kVmapDiscardStatus 3).refuse 7
    else if !(s.meeting base (g * 65536) (n * 65536)).isEmpty then (s.odSet kVmapDiscardStatus 2).refuse 7
    else { s with jobs := { s.jobs with discard := some v } }.odSet kVmapDiscardStatus 1)

/-- Return granules to unwritten: their bits, trackers and contents. -/
def State.discardGranules (s : State) (base : Bool) (g n : Nat) : State :=
  let s1 := { s with fills := s.fills.filter fun f => !(f.base == base && decide (g ≤ f.granule ∧ f.granule < g + n)) }
  if base then
    { s1 with baseValid := s1.baseValid.clearRange g n, base := s1.base.clearRange (g * 65536) (n * 65536) }
  else { s1 with heartValid := s1.heartValid.clearRange g n, heart := s1.heart.clearRange (g * 65536) (n * 65536) }

/-- VMAP_DISCARD_DONE (R157): the granules read as zero again. -/
def execVmapDiscardDone (s : State) : Host.Outcome State Fault Refusal :=
  .next (match s.jobs.discard with
    | some v => ({ s with jobs := { s.jobs with discard := none } }.discardGranules (bit v 63) (bits v 57 32)
        (bits v 26 0)).odSet kVmapDiscardStatus 0
    | none => s)

/-- Every context is FREE. -/
def State.allFree (s : State) : Bool := s.loadedCtxs.isEmpty

/-- A write of a loop-back control (R166, R261, R398): bit 31 starts; refused (bit 28) unless `ok`; busy (bit 30) till
done. `fields` are the fields of the entry that keep what was written; the reserved bits read as zero (R10). -/
def State.loopStart (s : State) (ctrl value : Nat) (fields : List (Nat × Nat)) (ok : Bool) : State :=
  if s.odBit ctrl 30 then s.refuse 6
  else
    let v := keepBits value fields
    if !bit value 31 then s.odSet ctrl (s.odGet ctrl / 2 ^ 28 % 2 ^ 3 * 2 ^ 28 + v)
    else if ok then s.odSet ctrl (2 ^ 30 + v) else (s.odSet ctrl (2 ^ 28 + v)).refuse 7
/-- A loop-back is over: busy clears, pass (bit 29) shows no error, the errors are counted; it cannot miss more than the
`sent` words or packets that it sent. -/
def State.loopDone (s : State) (ctrl errs sent n : Nat) : State :=
  if s.odBit ctrl 30 then
    (s.odSet ctrl (s.odGet ctrl % 2 ^ 28 + if n = 0 then 2 ^ 29 else 0)).odSet errs (min n sent)
  else s

/-- MEMORY_LOOPBACK (R166): runs only while no context is loaded. A mode outside Table 7-8 and a channel that is not populated are
refused: the manual names neither (DESIGN CHOICE, log entry 226). -/
def execMemoryLoopback (value : W32) (s : State) : Host.Outcome State Fault Refusal :=
  let v := value.toNat
  let m := v % 16
  .next (s.loopStart kMemLoopbackCtrl v [(23, 16), (3, 0)]
    (s.allFree && decide (1 ≤ m ∧ m ≤ 4) && s.chanOk (decide (3 ≤ m)) (bits v 23 16)))
/-- MEMORY_LOOPBACK_DONE (R166). -/
def execMemoryLoopbackDone (errors : Nat) (s : State) : Host.Outcome State Fault Refusal :=
  .next (s.loopDone kMemLoopbackCtrl kMemLoopbackErrors 65536 errors)

/-- DRAM_TEMPERATURE_REPORT (R150): a stack that reports more than 85 °C is refreshed at twice the base rate; a DIMM's
report changes no register. -/
def execDramTemperatureReport (t : Tier) (unit : Nat) (hot : Bool) (s : State) : Host.Outcome State Fault Refusal :=
  .next (match t with
    | .heart => if unit < 8 ∧ s.odBit kHeartPositions unit then s.odSetBit kHeartHot unit hot else s
    | .base => s)

/-- CE_WINDOW_EXPIRY (R69, R71, R73, R121): the corrected errors of a unit's window are forgotten. -/
def execCeWindowExpiry (kind : MemKind) (unit : Nat) (s : State) : Host.Outcome State Fault Refusal :=
  let u := match kind with
    | .tileStore | .accStore => unitId 1 unit
    | .registers => unitId 2 unit
    | _ => unitId 6 unit
  .next { s with ceWin := SMap.set (fun _ => 0) s.ceWin u 0 }

end Sys2Proof.Machine
end

