-- ==== Sys2Proof/Machine/Manifest.lean ====
section
/-!
DEFINITION. The chip's latency manifest (R99 to R101, Tables 5-5 and 5-6), the binary of a context and its fold variant.
-/
namespace Sys2Proof.Machine

/-- The FIXED and BOUND entries of Table 5-5: ID, KIND (0 FIXED, 1 BOUND), A0 value, A1 value. -/
def manifestTable : List (Nat × Nat × Nat × Nat) := [
  (0x0101, 0, 1, 1), (0x0102, 0, 2, 2), (0x0103, 0, 130, 130), (0x0104, 0, 256, 256), (0x0105, 0, 1, 1),
  (0x0106, 0, 4, 6), (0x0107, 0, 8, 10), (0x0108, 0, 12, 14), (0x0109, 0, 13, 15), (0x010A, 0, 24, 28),
  (0x010B, 0, 26, 30)] ++
  ([6, 8, 26, 4, 4, 4, 6, 10, 12, 20, 12, 14, 36, 22, 36, 14, 4, 40, 12].zipIdx.map fun e => (0x0201 + e.2, 0, e.1, e.1)) ++
  ([2, 2, 8, 2, 2, 2, 2, 2, 4, 4, 4, 4, 32, 2, 32, 2, 2, 8, 4].zipIdx.map fun e => (0x0221 + e.2, 0, e.1, e.1)) ++ [
  (0x0240, 0, 1, 1), (0x0241, 0, 8, 8), (0x0301, 0, 6, 6), (0x0302, 0, 48, 48), (0x0303, 0, 24, 24),
  (0x0401, 0, 6, 6), (0x0402, 0, 4, 4), (0x0403, 0, 8, 8), (0x0404, 0, 12, 12), (0x0501, 1, 1216, 1216),
  (0x0502, 1, 1368, 1368), (0x0503, 1, 456, 456), (0x0504, 1, 1900, 1900), (0x0505, 1, 3040, 3040),
  (0x0506, 1, 3230, 3230), (0x0507, 1, 1140, 1140), (0x0508, 1, 9500, 9500), (0x0509, 1, 18, 18), (0x0601, 0, 64, 64),
  (0x0602, 1, 73, 73), (0x0603, 1, 40, 40), (0x0701, 1, 41800, 41800), (0x0801, 0, 96, 96)]

/-- The configured lane rate of a port (Table 11-15). -/
def State.laneRate (s : State) (p : Nat) : Nat := [200, 100, 50, 25].getD (s.odBits (kPortCfg p) 1 0) 200
/-- The lowest configured rate among ports, 200 for none. -/
def State.lowRate (s : State) (ports : List Nat) : Nat := ports.foldl (fun m p => min m (s.laneRate p)) 200
/-- The rate of the slowest populated base channel. -/
def State.baseRate (s : State) : Nat :=
  ((List.range 16).filter fun c => s.odBit kBaseChannels c).foldl (fun m c => min m (s.odBits (kBaseDimm c) 27 14)) 8800

/-- The chip's manifest: ID, KIND, VALUE, in increasing order of ID; the PARAM entries hold the configured values, the lane
rate being that of the links given (R99 to R101). -/
def State.chipManifest (s : State) (links : List Nat) : List (Nat × Nat × Nat) :=
  (manifestTable.map fun e =>
    (e.1, e.2.1, if e.1 = 0x0401 ∧ s.odGet kOwnTags = 1 then 8 else if s.odGet kStepping = 0 then e.2.2.1 else e.2.2.2))
  ++ [(0x0A01, 2, s.fw.heartRate), (0x0A02, 2, s.baseRate), (0x0A03, 2, s.lowRate links), (0x0A04, 2, s.odGet kOwnTags)]

/-- The value of an entry of a manifest. -/
def manVal (m : List (Nat × Nat × Nat)) (id : Nat) : Option Nat := (m.find? fun e => e.1 == id).map fun e => e.2.2
/-- The excess C − B of an entry for a context (R110). -/
def State.excess (s : State) (c id : Nat) : Nat :=
  match (s.ctxAt c).prog with
  | some b => ((manVal (s.chipManifest []) id).getD 0) - ((manVal b.manifest id).getD 0)
  | none => 0

/-- The places of a variant's schedule where completions fall, each once. -/
def latePlaces : List (Nat × Nat × List Nat) → List (Nat × Nat)
  | [] => []
  | q :: r => (q.1, q.2.1) :: (latePlaces r).filter fun p => p != (q.1, q.2.1)
/-- The length that the freezes of a step add up to, given the excess of a completion's entries (R110): in one schedule cycle
the largest counts, different cycles add. -/
def stretchOf (v : Variant) (f : List Nat → Nat) : Nat :=
  ((latePlaces v.completions).map fun p =>
    ((v.completions.filter fun q => q.1 == p.1 && q.2.1 == p.2).map fun q => f q.2.2).foldl max 0).sum

/-- The bytes of a manifest (R99, Table 5-4). -/
def manifestBytes (built : Nat) (m : List (Nat × Nat × Nat)) : List Byte :=
  leBytes 1 built ++ leBytes 7 0 ++ leBytes 4 m.length ++ leBytes 4 0
    ++ m.flatMap fun e => leBytes 8 (e.1 * 2 ^ 48 + e.2.1 * 2 ^ 46 + e.2.2 % 2 ^ 32)

/-- The fold variant that a context runs. -/
def Ctx.variant (x : Ctx) : Option Variant := x.prog.bind fun b => b.variants.find? fun v => v.fold == x.fold
/-- FLAGS bit `n` of a context's binary. -/
def Ctx.flag (x : Ctx) (n : Nat) : Bool :=
  match x.prog with
  | some b => bit b.flags n
  | none => false
/-- The number of phases of a context's step. -/
def Ctx.phases (x : Ctx) : Nat :=
  match x.variant with
  | some v => v.phases.length
  | none => 0

end Sys2Proof.Machine
end

