-- ==== Sys2Proof/Machine/Tokens.lean ====
section
/-!
DEFINITION. Token queues (R132) and the freezes of the schedule guard (R110 to R112).
-/
namespace Sys2Proof.Machine

/-- An empty token queue. -/
def tokDefault : Nat → TokQueue := fun _ => ⟨[], 0, 0⟩
/-- Token queue `q` of accord `a`. -/
def State.tokq (s : State) (a q : Nat) : TokQueue := SMap.get tokDefault (s.accAt a).tokq q
/-- Replace a token queue. -/
def State.setTokq (s : State) (a q : Nat) (x : TokQueue) : State :=
  s.modAcc a fun A => { A with tokq := SMap.set tokDefault A.tokq q x }
/-- The depth of a token queue. -/
def State.tokDepth (s : State) (a q : Nat) : Nat := 2 ^ s.odBits (kTokqCfg a q) 3 0

/-- The cycle of a token's push lies before `t`. -/
def Token.before (k : Token) (t : Nat) : Bool :=
  match k.pushed with
  | some p => decide (p < t)
  | none => true
/-- A token can be popped in cycle `t` under the visibility latency `v`. -/
def Token.ready (k : Token) (t v : Nat) : Bool :=
  match k.pushed with
  | some p => decide (p + v ≤ t)
  | none => true
/-- The level of a queue in cycle `t` (R132): tokens pushed earlier, and those popped in this cycle. -/
def TokQueue.level (x : TokQueue) (t : Nat) : Nat :=
  (x.items.filter fun k => k.before t).length + if x.popAt = t then x.popped else 0
/-- The tokens that can be popped in cycle `t`: the oldest ones that are visible. -/
def TokQueue.poppable (x : TokQueue) (t v : Nat) : Nat := (x.items.takeWhile fun k => k.ready t v).length
/-- Remove `n` tokens in cycle `t`; they keep their place in it. -/
def TokQueue.pop (x : TokQueue) (t n : Nat) : TokQueue :=
  { items := x.items.drop n, popAt := t, popped := (if x.popAt = t then x.popped else 0) + n }

/-- A queue is full for a push in cycle `t`. -/
def State.tokFull (s : State) (a q t : Nat) : Bool := decide (s.tokDepth a q ≤ (s.tokq a q).level t)
/-- Token `k` stands before a push of cycle `t` by a source of rank `r` (R132). -/
def Token.ahead (k : Token) (t r : Nat) : Bool :=
  match k.pushed with
  | some p => decide (p < t ∨ (p = t ∧ k.rank ≤ r))
  | none => true
/-- Enter a token: behind those of earlier cycles, and behind those of its cycle whose source comes first (R132). -/
def enterToken (v : W32) (t r : Nat) : List Token → List Token
  | [] => [⟨v, some t, r⟩]
  | k :: l => if k.ahead t r then k :: enterToken v t r l else ⟨v, some t, r⟩ :: k :: l
/-- The rank of a unit's push (R132): the compute stream, access engines 0 and 1, DMA channels 0 to 7, cores 0 to 3; the codec
comes with the tasks, after them (log entry 190). -/
def pushRank (unit : Nat) : Nat :=
  match unit / 1024 with
  | 4 => 1 + unit % 1024 % 2
  | 5 => 3 + unit % 1024 % 8
  | 3 => 11 + unit % 1024 % 4
  | 12 => 15
  | _ => 0
/-- Push a token in cycle `t` from a source of rank `r`. -/
def State.tokPut (s : State) (a q t r : Nat) (v : W32) : State :=
  s.setTokq a q { s.tokq a q with items := enterToken v t r (s.tokq a q).items }
/-- TOKEN_VISIBLE in force for a context. -/
def State.tokVisible (s : State) (c : Nat) : Nat := s.fixedLat c 0x0402 4
/-- `n` tokens can be popped in cycle `t`. -/
def State.tokReady (s : State) (c a q t n : Nat) : Bool := decide (n ≤ (s.tokq a q).poppable t (s.tokVisible c))
/-- Pop `n` tokens in cycle `t`. -/
def State.tokPop (s : State) (a q t n : Nat) : State := s.setTokq a q ((s.tokq a q).pop t n)
/-- Push on behalf of a unit (R132): a push into a full queue is malformed, a program fault. -/
def State.tokPush (s : State) (c a q t : Nat) (v : W32) (unit instr : Nat) : State :=
  if s.tokFull a q t then s.progFault c unit instr 1 0 else s.tokPut a q t (pushRank unit) v

/-! ### Late operands (R111, R112) -/

/-- A token is absent at its scheduled cycle: the partition freezes until it arrives, the event is counted and the step is
not time-exact (R111). -/
def State.lateFreeze (s : State) (p c a q n : Nat) : State :=
  let s1 := s.modGuard p fun g =>
    { g with lateFrozen := true, waiting := g.waiting ++ [(a, q, n)], frozenAt := if g.lateFrozen then g.frozenAt else s.g,
             frozenEc := if g.lateFrozen then g.frozenEc else s.time.ec }
  let s2 := s1.modCtx c fun x => { x with notExact := true }
  (s2.bump kLateOperandEvents 1).event .guard 2
/-- Pop at a scheduled cycle, or freeze. -/
def State.popOrFreeze (s : State) (x : IssueCtx) (a q n : Nat) : State :=
  if s.tokReady x.ctx a q x.t n then s.tokPop a q x.t n else s.lateFreeze x.part x.ctx a q n

/-- TOKEN_PUSH of a compute stream (R132). -/
def execTokenPush (h : Issue) (q : Fin 32) (value : W32) (s : State) : Host.Outcome State Fault Refusal :=
  engineIssue h 0 (unitId 6 h.acc) (fun s x => detIf (s.tokFull h.acc q x.t) 1 0)
    (fun s x => s.tokPut h.acc q x.t 0 value) s
/-- TOKEN_POP of a compute stream (R132, R111). -/
def execTokenPop (h : Issue) (q : Fin 32) (n : Nat) (s : State) : Host.Outcome State Fault Refusal :=
  engineIssue h 0 (unitId 6 h.acc) (fun _ _ => []) (fun s x => s.popOrFreeze x h.acc q n) s

/-- Every waiting pop of a partition that has been frozen for `waited` ec finds its tokens poppable (R111, R132). Commands of the
freeze count their cycles on from the one in which schedule time stands (DESIGN CHOICE, log entry 215). -/
def State.lateReady (s : State) (p c waited : Nat) : Bool :=
  (s.guardAt p).waiting.all fun w => s.tokReady c w.1 w.2.1 ((s.guardAt p).now + waited) w.2.2
/-- A cycle counted on through a freeze of `n` ec that began in cycle `now`, in schedule time after it. -/
def thawed (now n t : Nat) : Nat := if now < t then max now (t - n) else t
/-- What was pushed, and what of the writes of channels is outstanding, after a freeze of `n` ec, in schedule time. -/
def Accord.thaw (A : Accord) (now n : Nat) : Accord :=
  { A with
    tokq := A.tokq.map fun e => (e.1, { e.2 with items := e.2.items.map fun k => { k with pushed := k.pushed.map (thawed now n) } }),
    chan := A.chan.map fun x => { x with outstanding := x.outstanding.map (thawed now n) },
    access := A.access.map fun x => { x with flight := x.flight.map (InFlight.mapReady (thawed now n)) } }
/-- What the token queues of a partition's accords report when the waiting pops read them (R121): the accord, and the upset. -/
def State.popUpset (s : State) (p : Nat) (up : Upset) (f : State → State) : State :=
  match (s.guardAt p).waiting with
  | w :: _ => s.underUpset w.1 0 (unitId 6 w.1) 0 up f
  | [] => f s
/-- LATE_OPERAND_RESUME (R111): the tokens have arrived, the waiting pops take them; the freeze of `waited` ec is counted. -/
def execLateOperandResume (p : Fin 16) (waited : Nat) (up : Upset) (s : State) : Host.Outcome State Fault Refusal :=
  .next (match s.runningOn p with
    | some c =>
      if (s.guardAt p).lateFrozen ∧ s.lateReady p c waited then
        s.popUpset p up fun u =>
          let g := u.guardAt p
          let s1 := g.waiting.foldl (fun t w => t.tokPop w.1 w.2.1 g.now w.2.2) u
          ((s1.accordsOf p).foldl (fun t a => t.modAcc a fun A => A.thaw g.now waited) s1).endFreeze p c waited
      else s
    | none => s)

/-- LATE_LIMIT (R112): a freeze that lasts LATE_LIMIT counts ends the context with a UCE_CONTROL record. -/
def execLateLimit (p : Fin 16) (s : State) : Host.Outcome State Fault Refusal :=
  .next (match s.runningOn p with
    | some c =>
      if (s.guardAt p).lateFrozen ∧ (s.guardAt p).frozenAt + s.odGet kLateLimit ≤ s.g then
        (s.event .guard 3).fault
          { cls := 2, action := 1, level := 1, unit := unitId 0xE p, part := some p.val, ctx := some c, instr := 0,
            syn := [], cause := 0, flags := 0, window := true }
      else s
    | none => s)

/-! ### Tolerant mode (R109, R110) -/

/-- The completions that the schedule of a context's variant places at `cyc` of phase `k`. -/
def State.lateAt (s : State) (c k cyc : Nat) : List (List Nat) :=
  match (s.ctxAt c).variant with
  | some v => (v.completions.filter fun q => q.1 == k && q.2.1 == cyc).map fun q => q.2.2
  | none => []
/-- The freeze of the late operations that complete in one schedule cycle: the largest of their summed excesses. -/
def State.lateExcess (s : State) (c k cyc : Nat) : Nat :=
  ((s.lateAt c k cyc).map fun ids => (ids.map (s.excess c)).sum).foldl max 0
/-- The freeze total of a context's step: the schedule and the two manifests fix it (R110). -/
def State.stepStretch (s : State) (c : Nat) : Nat :=
  match (s.ctxAt c).variant with
  | some v => (stretchOf v fun ids => (ids.map (s.excess c)).sum)
  | none => 0

/-- The record of a step's tolerant stretch, once per step, with the step's freeze total (R110, Table 13-11 code 0x13). -/
def State.stretchRecord (s : State) (p c : Nat) : State :=
  if (s.guardAt p).tolWritten then s
  else
    let s1 := (s.modGuard p fun g => { g with tolWritten := true }).event .guard 4
    s1.fault { cls := 3, action := 7, level := 0, unit := unitId 0xE p, part := none, ctx := some c, instr := 0,
               syn := progSyn 0x13 (s1.stepStretch c), cause := 0, flags := 0, window := false }

/-- TOLERANT_FREEZE (R110): the schedule cycle of late completions; the partition freezes for their excess. The freeze adds to
the context's total; of one that falls in a LATE_OPERAND freeze only what it lasts beyond that, when that ends. -/
def execTolerantFreeze (p : Fin 16) (cyc : Nat) (s : State) : Host.Outcome State Fault Refusal :=
  .next (match s.runningOn p with
    | some c =>
      let e := s.lateExcess c (s.guardAt p).phase cyc
      if s.live ∧ (s.ctxAt c).inStep ∧ s.tolerant c ∧ e ≠ 0 then
        let late := (s.guardAt p).lateFrozen
        let s1 := (s.noteTime p (s.schedAt p cyc)).modGuard p fun g => { g with
          tolFrozen := true, tolEc := if late then e else g.tolEc, held := if late then g.held else g.held + e }
        (if late then s1 else s1.bump (kCtxFreezeEc c) e).stretchRecord p c
      else s
    | none => s)

/-- FREEZE_END (R110): the freeze has lasted its excess. -/
def execFreezeEnd (p : Fin 16) (s : State) : Host.Outcome State Fault Refusal :=
  .next (s.modGuard p fun g => { g with tolFrozen := false })

/-- QRESET (R132, Table 6-12): empties a queue; refused while a context runs on the accord, and by an accord that does not
exist. -/
def execQreset (acc : Fin 16) (q : Fin 32) (s : State) : Host.Outcome State Fault Refusal :=
  .next (if !s.hasAccord acc then s.refuse 1 else if (s.ctxOn acc).isSome then s.refuse 7 else s.setTokq acc q ⟨[], 0, 0⟩)

end Sys2Proof.Machine
end

