-- ==== Sys2Proof/Machine/Access.lean ====
section
/-!
DEFINITION. Access engines (R133, Table 6-6): transfers between the top tier and the windows, their landing and
visibility, signals and waits.
-/
namespace Sys2Proof.Machine

/-- Access engine `e` of accord `a`. -/
def State.accessAt (s : State) (a : Nat) (e : Fin 2) : AccessEngine := (s.accAt a).access[e.val]
/-- Replace an access engine. -/
def State.setAccess (s : State) (a : Nat) (e : Fin 2) (x : AccessEngine) : State :=
  s.modAcc a fun A => { A with access := A.access.set e.val x }
/-- The unit id of an access engine. -/
def accessUnit (a : Nat) (e : Fin 2) : Nat := unitId 4 (2 * a + e)
/-- The bytes of a transfer. -/
def accessLen (i : AccessInstr) : Nat := (i.lenM1 + 1) * 64

/-- The issue of an access-stream instruction by a running context, on the top tier as it stands in the cycle. -/
def accessRun (acc : Fin 16) (e : Fin 2) (cyc idx : Nat) (up : Upset) (dets : State → IssueCtx → List Det)
    (eff : State → IssueCtx → State) (s : State) : State :=
  match s.issuer acc with
  | none => s
  | some (p, c) =>
    (s.settle acc (s.schedAt p cyc)).underUpset acc 0 (accessUnit acc e) (instrWord 3 idx) up
      (issueBody ⟨p, c, s.schedAt p cyc⟩ (accessUnit acc e) (instrWord 3 idx) dets eff)
/-- The issue of an access-stream instruction. -/
def accessIssue (acc : Fin 16) (e : Fin 2) (cyc idx : Nat) (up : Upset) (dets : State → IssueCtx → List Det)
    (eff : State → IssueCtx → State) (s : State) : Host.Outcome State Fault Refusal :=
  .next (accessRun acc e cyc idx up dets eff s)
/-- An instruction whose OP is not the one of Table 6-6 is malformed. -/
def opDets (op : Nat) (i : AccessInstr) : List Det := detUnless (i.op == op) 1 0

/-- An instruction starts only if the previous one has issued its last request (R133). -/
def startDets (acc : Fin 16) (e : Fin 2) (s : State) (x : IssueCtx) : List Det :=
  detIf (decide (x.t < (s.accessAt acc e).free)) 6 0
/-- The detections of a transfer: a malformed tier or address, double booking, the top-tier range, the window, and the
ownership tags of a scratchpad range that is read. -/
def transferDets (acc : Fin 16) (e : Fin 2) (i : AccessInstr) (write : Bool) (s : State) (x : IssueCtx) : List Det :=
  let n := accessLen i
  opDets (if write then 2 else 1) i ++ detUnless (decide (i.tier < 2) && i.top % 64 == 0 && i.taddr % 64 == 0) 1 0
    ++ startDets acc e s x
    ++ detUnless (inTop i.top n) 2 i.top
    ++ detUnless (s.window x.ctx (i.tier == 1) i.taddr n write).isSome 3 (windowVal (i.tier == 1) i.taddr)
    ++ (if write then s.readDets x.ctx acc false i.top n 0 i.tensor else [])

/-- The engine has issued an instruction: the cycle in which its requests end, and the transfer in flight. -/
def State.fly (s : State) (acc : Fin 16) (e : Fin 2) (t : Nat) (f : List InFlight) : State :=
  s.setAccess acc e { s.accessAt acc e with free := t, flight := (s.accessAt acc e).flight ++ f }

/-- The cycle before which a READ cannot have landed: its bytes follow its issue at 256 B an ec, and those for a tile store land
TILE_FILL_LAT later (R103, Table 5-5). -/
def State.landsFrom (s : State) (x : IssueCtx) (i : AccessInstr) : Nat :=
  x.t + (accessLen i + 255) / 256 + if spSize ≤ i.top then s.fixedLat x.ctx 0x0403 8 else 0
/-- The cycle before which a WRITE cannot be visible: what it reads of the scratchpad reaches the engine SP_ACCESS after the grant
(R103, R119). -/
def State.visibleFrom (s : State) (x : IssueCtx) (i : AccessInstr) : Nat :=
  x.t + (accessLen i + 255) / 256 + if i.top < spSize then s.fixedLat x.ctx 0x0401 6 else 0
/-- The issue of a READ: the bytes of the window range are captured as the controllers deliver them; a fenced granule or an
uncorrectable word ends the context (R160, R161). -/
def State.accessRead (s : State) (acc : Fin 16) (e : Fin 2) (idx : Nat) (i : AccessInstr) (obs : List ReadObs) (x : IssueCtx) :
    State :=
  let base := i.tier == 1
  match s.window x.ctx base i.taddr (accessLen i) false with
  | none => s
  | some pa =>
    match s.tierFetch base pa (accessLen i) ⟨some x.ctx, accessUnit acc e, instrWord 3 idx⟩ obs with
    | (s1, none) => s1
    | (s1, some bs) => s1.fly acc e (x.t + (accessLen i + 255) / 256) [.read idx i bs (s1.ownTags x.ctx) (s1.landsFrom x i)]
/-- The issue of a WRITE: the top-tier bytes go to the window range. The manual bounds the cycle from which every later read sees them
and says nothing of the reads before it: the model performs the write at issue, and WRITE_VISIBLE brings its token (DESIGN CHOICE,
log entry 185). -/
def State.accessWrite (s : State) (acc : Fin 16) (e : Fin 2) (idx : Nat) (i : AccessInstr) (x : IssueCtx) : State :=
  let base := i.tier == 1
  match s.window x.ctx base i.taddr (accessLen i) true with
  | none => s
  | some pa =>
    let (s1, ok) := s.tierStore base pa ((s.accAt acc).top.readN i.top (accessLen i))
      ⟨some x.ctx, accessUnit acc e, instrWord 3 idx⟩ []
    if ok then s1.fly acc e (x.t + (accessLen i + 255) / 256) [.write idx i (s.visibleFrom x i)] else s1

/-- The signals that nothing earlier in flight holds back. -/
def readySignals : List InFlight → List (Nat × AccessInstr) × List InFlight
  | .signal idx i :: r => let (a, b) := readySignals r; ((idx, i) :: a, b)
  | l => ([], l)
/-- Push the signals that have become ready. -/
def State.pushSignals (s : State) (c : Nat) (acc : Fin 16) (e : Fin 2) (t : Nat) : State :=
  let x := s.accessAt acc e
  let (l, r) := readySignals x.flight
  l.foldl (fun u i => u.tokPush c acc i.2.queue t i.2.value (accessUnit acc e) (instrWord 3 i.1))
    (s.setAccess acc e { x with flight := r })

/-- ACCESS_READ (R133). -/
def execAccessRead (acc : Fin 16) (e : Fin 2) (cyc idx : Nat) (i : AccessInstr) (obs : List ReadObs) (s : State) :
    Host.Outcome State Fault Refusal :=
  accessIssue acc e cyc idx .none (transferDets acc e i false) (fun s x => s.accessRead acc e idx i obs x) s
/-- ACCESS_WRITE (R133). -/
def execAccessWrite (acc : Fin 16) (e : Fin 2) (cyc idx : Nat) (i : AccessInstr) (up : Upset) (s : State) :
    Host.Outcome State Fault Refusal :=
  accessIssue acc e cyc idx up (transferDets acc e i true) (fun s x => s.accessWrite acc e idx i x) s
/-- ACCESS_SIGNAL (R133). -/
def execAccessSignal (acc : Fin 16) (e : Fin 2) (cyc idx : Nat) (i : AccessInstr) (s : State) :
    Host.Outcome State Fault Refusal :=
  accessIssue acc e cyc idx .none (fun s x => opDets 3 i ++ startDets acc e s x)
    (fun s x => (s.fly acc e x.t [.signal idx i]).pushSignals x.ctx acc e x.t) s
/-- ACCESS_WAIT (R133, R111): N is VALUE[5:0], 1 to 63. -/
def execAccessWait (acc : Fin 16) (e : Fin 2) (cyc idx : Nat) (i : AccessInstr) (up : Upset) (s : State) :
    Host.Outcome State Fault Refusal :=
  let n := i.value.toNat % 64
  accessIssue acc e cyc idx up (fun s x => opDets 4 i ++ detIf (n == 0) 1 0 ++ startDets acc e s x)
    (fun s x => s.popOrFreeze x acc i.queue n) s

/-- Take the oldest element of a list that meets a test. -/
def takeFirst {α : Type} (f : α → Bool) : List α → Option (α × List α)
  | [] => none
  | x :: r => if f x then some (x, r) else (takeFirst f r).map fun q => (q.1, x :: q.2)

/-- The token of a completed transfer. -/
def State.landToken (s : State) (c : Nat) (acc : Fin 16) (e : Fin 2) (t idx : Nat) (i : AccessInstr) : State :=
  if i.tok then s.tokPush c acc i.queue t i.value (accessUnit acc e) (instrWord 3 idx) else s

/-- The landing of a READ: its bytes, stamp and tag, its token, and the signals it held back. -/
def State.land (s : State) (c : Nat) (acc : Fin 16) (e : Fin 2) (t idx : Nat) (i : AccessInstr) (data : List Byte) (tags : Bool) :
    State :=
  let s1 := (s.settle acc t).modAcc acc fun A => A.landRead i data tags
  (s1.landToken c acc e t idx i).pushSignals c acc e t

/-- The cycle before which a transfer cannot be complete. -/
def InFlight.ready : InFlight → Nat
  | .read _ _ _ _ t => t
  | .write _ _ t => t
  | .signal _ _ => 0
/-- The oldest transfer in flight of one kind completes for the context that runs on the accord, no earlier than it can. -/
def State.flightDone (s : State) (acc : Fin 16) (e : Fin 2) (cyc : Nat) (which : InFlight → Bool)
    (f : State → Nat → Nat → InFlight → State) : State :=
  match s.partOf acc, s.ctxOn acc, takeFirst which (s.accessAt acc e).flight with
  | some p, some c, some (q, r) =>
    if s.schedAt p cyc < q.ready then s
    else f (s.setAccess acc e { s.accessAt acc e with flight := r }) c (s.schedAt p cyc) q
  | _, _, _ => s
/-- READ_LANDED (R133): the last byte of the oldest READ in flight has landed. -/
def execReadLanded (acc : Fin 16) (e : Fin 2) (cyc : Nat) (s : State) : Host.Outcome State Fault Refusal :=
  .next (whenLive s (s.flightDone acc e cyc (fun f => match f with | .read _ _ _ _ _ => true | _ => false) fun u c t q =>
    match q with
    | .read idx i data tags _ => u.land c acc e t idx i data tags
    | _ => u))
/-- WRITE_VISIBLE (R133): the oldest WRITE in flight is visible to every later read. -/
def execWriteVisible (acc : Fin 16) (e : Fin 2) (cyc : Nat) (s : State) : Host.Outcome State Fault Refusal :=
  .next (whenLive s (s.flightDone acc e cyc (fun f => match f with | .write _ _ _ => true | _ => false) fun u c t q =>
    match q with
    | .write idx i _ => (u.landToken c acc e t idx i).pushSignals c acc e t
    | _ => u))

end Sys2Proof.Machine
end

