-- ==== Sys2Proof/Machine/Channels.lean ====
section
/-!
DEFINITION. DMA channels (R135 to R142): configuration, instruction fetch, states, arming, pacing, the program's LOOP,
WAIT, SIGNAL and END, and the disable bit. MOVE stands in Machine/Move.lean.
-/
namespace Sys2Proof.Machine

/-- The states of Table 6-10, in its order. -/
inductive ChanSt | disabled | idle | armed | running | paced | waiting | done | fault
deriving DecidableEq, Repr
/-- The code of a channel state. -/
def ChanSt.code : ChanSt → Nat
  | .disabled => 0 | .idle => 1 | .armed => 2 | .running => 3 | .paced => 4 | .waiting => 5 | .done => 6 | .fault => 7
/-- The state that DMA_CTRL shows. -/
def State.chanState (s : State) (a c : Nat) : ChanSt :=
  match s.odBits (kDmaCtrl a c) 29 26 with
  | 0 => .disabled | 1 => .idle | 2 => .armed | 3 => .running | 4 => .paced | 5 => .waiting | 6 => .done | _ => .fault
/-- Set a channel's state. -/
def State.setChanState (s : State) (a c : Nat) (x : ChanSt) : State := s.odSetBits (kDmaCtrl a c) 29 26 x.code
/-- A channel's program counter. -/
def State.chanPc (s : State) (a c : Nat) : Nat := s.odBits (kDmaCtrl a c) 15 8
/-- Set a channel's program counter. -/
def State.setChanPc (s : State) (a c pc : Nat) : State := s.odSetBits (kDmaCtrl a c) 15 8 pc
/-- Channel `c` of accord `a` besides its dictionary words. -/
def State.chanAt (s : State) (a : Nat) (c : Fin 8) : Channel := (s.accAt a).chan[c.val]
/-- Change a channel. -/
def State.modChan (s : State) (a : Nat) (c : Fin 8) (f : Channel → Channel) : State :=
  s.modAcc a fun A => { A with chan := A.chan.set c.val (f A.chan[c.val]) }
/-- The unit id of a channel. -/
def chanId (a : Nat) (c : Fin 8) : Nat := unitId 5 (8 * a + c)

/-- The configuration word is legal (R135, Table 6-8). -/
def State.chanCfgOk (s : State) (a : Nat) (c : Fin 8) : Bool :=
  let v := s.odGet (kDmaCfg a c)
  decide (1 ≤ bits v 25 19 ∧ bits v 25 19 ≤ 64 ∧ bits v 18 13 < bits v 25 19)
    && decide (bits v 25 19 ≤ s.tokDepth a (bits v 31 27))
/-- The level that paces a channel, in cycle `t`. -/
def State.paceLevel (s : State) (a : Nat) (c : Fin 8) (t : Nat) : Nat :=
  (s.tokq a (s.odBits (kDmaCfg a c) 31 27)).level t
/-- The run condition (R139). -/
def State.runCond (s : State) (a : Nat) (c : Fin 8) (t : Nat) : Bool :=
  let v := s.odGet (kDmaCfg a c)
  if bit v 26 then decide (bits v 25 19 ≤ s.paceLevel a c t) else decide (s.paceLevel a c t ≤ bits v 18 13)
/-- The pause condition (R139). -/
def State.pauseCond (s : State) (a : Nat) (c : Fin 8) (t : Nat) : Bool :=
  let v := s.odGet (kDmaCfg a c)
  bit v 4 && if bit v 26 then decide (s.paceLevel a c t ≤ bits v 18 13) else decide (bits v 25 19 ≤ s.paceLevel a c t)

/-- A detection of a channel: it enters FAULT, and its context ends with a program fault (R136, Table 6-10). -/
def State.chanFault (s : State) (ctx a : Nat) (c : Fin 8) (code val : Nat) : State :=
  let pc := s.chanPc a c
  (((s.setChanState a c .fault).bump kDmaFaults 1).event .top 2).progFault ctx (chanId a c) (instrWord 2 pc) code val

/-- A channel runs from cycle `t`: its first MOVE request follows by DMA_START (R139). -/
def State.chanRun (s : State) (ctx a : Nat) (c : Fin 8) (t : Nat) : State :=
  (s.setChanState a c .running).modChan a c fun x => { x with firstAt := t + s.fixedLat ctx 0x0404 12 }

/-- The binary of a context gives channel `c` of accord `a` a program. -/
def State.usesChan (s : State) (ctx a : Nat) (c : Fin 8) : Bool :=
  let x := s.ctxAt ctx
  match x.variant with
  | some v => v.dma.any fun d => d.chan == c.val && (s.accordsOf x.part).getD (d.vacc / 2 ^ x.fold) 16 == a
  | none => false

/-- The arming of one channel at the start of its phase (R135, R139). -/
def State.armChan (s : State) (ctx a phase t : Nat) (c : Fin 8) : State :=
  if (s.chanState a c = .idle ∨ s.chanState a c = .done) ∧ !s.odBit (kDmaCtrl a c) 31 ∧ s.usesChan ctx a c
      ∧ s.odBits (kDmaCfg a c) 12 5 = phase then
    if !s.chanCfgOk a c then s.chanFault ctx a c 1 0
    else
      let s1 := ((s.setChanPc a c 0).setChanState a c .armed).modChan a c fun _ => Channel.reset
      if !s.odBit (kDmaCfg a c) 4 ∨ s.runCond a c t then s1.chanRun ctx a c t else s1
  else s
/-- The arming of every channel of a partition at the start of a phase. -/
def State.armPhase (s : State) (ctx p phase t : Nat) : State :=
  (s.accordsOf p).foldl (fun u a => [0, 1, 2, 3, 4, 5, 6, 7].foldl (fun w c => w.armChan ctx a phase t c) u) s

/-! ### Instructions -/

/-- The instruction at a channel's program counter (Table 6-9). -/
def State.chanInstr (s : State) (a c : Nat) : Nat := s.odBits (kDmaProgram a c) (256 * s.chanPc a c + 255) (256 * s.chanPc a c)
/-- A channel instruction without the bits that Table 6-9 does not assign to its OP (R10). -/
def cleanInstr (v : Nat) : Nat :=
  match bits v 255 252 with
  | 1 => keepBits v [(255, 246), (243, 35), (7, 0)]
  | 2 => keepBits v [(255, 251), (247, 208)]
  | 3 => keepBits v [(255, 240)]
  | 4 => keepBits v [(255, 247), (239, 208)]
  | 5 => keepBits v [(255, 246), (239, 208)]
  | op => op * 2 ^ 252
/-- A channel's program memory as it reads back. -/
def cleanProgram (v : Nat) : Nat :=
  leNat ((List.range 256).flatMap fun i => leBytes 32 (cleanInstr (bits v (256 * i + 255) (256 * i))))
/-- The opcode of a channel instruction. -/
def chanOp (v : Nat) : Nat := bits v 255 252
/-- Continue with the next instruction; running past instruction 255 is malformed (R136). -/
def State.chanNext (s : State) (ctx a : Nat) (c : Fin 8) : State :=
  if s.chanPc a c = 255 then s.chanFault ctx a c 1 0 else s.setChanPc a c (s.chanPc a c + 1)

/-- A channel's program pushes into queue `q`. -/
def State.chanFeeds (s : State) (a c q : Nat) : Bool :=
  (List.range 256).any fun i =>
    let v := s.odBits (kDmaProgram a c) (256 * i + 255) (256 * i)
    (chanOp v == 4 || (chanOp v == 5 && bit v 246)) && bits v 251 247 == q
/-- The partition and context that a channel works for: those that issue on its accord; in a LATE_OPERAND freeze a channel that owes
a token which the freeze waits for goes on (R111). -/
def State.chanIssuer (s : State) (a : Nat) (c : Nat) : Option (Nat × Nat) :=
  match s.issuer a with
  | some x => some x
  | none => match s.partOf a with
    | some p =>
      (match (s.guardAt p).waiting.find? fun w => w.1 == a && s.chanFeeds a c w.2.1 with
       | some w => match s.coreHost a w.2.1 with
         | some x => if (s.ctxAt x.2).inStep && (s.ctxAt x.2).dry == .none then some x else none
         | none => none
       | none => none)
    | none => none

/-- The instruction that a channel of state `st` stands at, for a running context, on the top tier as it is in the cycle:
`body` gets the context, the cycle and the instruction. -/
def State.chanNow (s : State) (st : ChanSt) (acc : Fin 16) (c : Fin 8) (cyc : Nat) (body : State → Nat → Nat → Nat → State) :
    State :=
  match s.chanIssuer acc c with
  | none => s
  | some (p, ctx) =>
    if s.chanState acc c ≠ st then s
    else body (s.settle acc (s.schedAt p cyc)) ctx (s.schedAt p cyc) (s.chanInstr acc c)
/-- Run one instruction of a channel that is RUNNING: what its program memory reports (R121); a malformed opcode faults; the
body runs only where the opcode is its own. -/
def chanStep (op : Nat) (acc : Fin 16) (c : Fin 8) (cyc : Nat) (up : Upset) (body : State → Nat → Nat → Nat → State) (s : State) :
    Host.Outcome State Fault Refusal :=
  .next (s.chanNow .running acc c cyc fun s ctx t v =>
    s.underUpset acc c (chanId acc c) (instrWord 2 (s.chanPc acc c)) up fun u =>
      if chanOp v = 0 ∨ 6 ≤ chanOp v then u.chanFault ctx acc c 1 0
      else if chanOp v = op then body u ctx t v
      else u)

/-- LOOP (R138). -/
def execLoop (acc : Fin 16) (c : Fin 8) (cyc : Nat) (up : Upset) (s : State) : Host.Outcome State Fault Refusal :=
  chanStep 2 acc c cyc up (fun s ctx _ v =>
    let one := bit v 251
    let cnt := bits v 239 208
    let i := (if one then (s.chanAt acc c).i1 else (s.chanAt acc c).i0) + 1
    if cnt = 0 ∨ s.chanPc acc c ≤ bits v 247 240 then s.chanFault ctx acc c 1 0
    else
      let set := fun (n : Nat) => s.modChan acc c fun x => if one then { x with i1 := n } else { x with i0 := n }
      if i < cnt then (set i).setChanPc acc c (bits v 247 240) else (set 0).chanNext ctx acc c) s

/-- DMA_WAIT (R138): pops N tokens, 1 to 64, or waits. -/
def execDmaWait (acc : Fin 16) (c : Fin 8) (cyc : Nat) (up : Upset) (s : State) : Host.Outcome State Fault Refusal :=
  chanStep 3 acc c cyc up (fun s ctx t v =>
    let q := bits v 251 247
    let n := bits v 246 240
    if n = 0 ∨ 64 < n then s.chanFault ctx acc c 1 0
    else if s.tokReady ctx acc q t n then (s.tokPop acc q t n).chanNext ctx acc c
    else s.setChanState acc c .waiting) s

/-- The push of a SIGNAL or END: a push into a full queue is malformed. -/
def State.chanPush (s : State) (ctx a : Nat) (c : Fin 8) (q t v : Nat) (k : State → State) : State :=
  if s.tokFull a q t then s.chanFault ctx a c 1 0 else k (s.tokPut a q t (pushRank (chanId a c)) (BitVec.ofNat 32 v))

/-- Every write of every earlier MOVE has landed, is visible, or has been handed to its port by cycle `t` (R138). -/
def State.chanDrained (s : State) (a : Nat) (c : Fin 8) (t : Nat) : Bool := (s.chanAt a c).outstanding.all fun l => decide (l ≤ t)
/-- A SIGNAL or END has completed: nothing is outstanding. -/
def State.chanClear (s : State) (a : Nat) (c : Fin 8) : State :=
  s.modChan a c fun x => { x with sinceSignal := [], outstanding := [] }
/-- The effect of a SIGNAL whose wait is over. -/
def State.chanSignal (s : State) (ctx a : Nat) (c : Fin 8) (t v : Nat) : State :=
  s.chanPush ctx a c (bits v 251 247) t (bits v 239 208) fun u => ((u.chanClear a c).setChanState a c .running).chanNext ctx a c
/-- The effect of an END whose wait is over: VALUE is pushed if PUSH is set, and the program ends. -/
def State.chanEnd (s : State) (ctx a : Nat) (c : Fin 8) (t v : Nat) : State :=
  if bit v 246 then s.chanPush ctx a c (bits v 251 247) t (bits v 239 208) fun u => (u.chanClear a c).setChanState a c .done
  else (s.chanClear a c).setChanState a c .done

/-- DMA_SIGNAL (R138): the token is pushed, or the channel waits. -/
def execDmaSignal (acc : Fin 16) (c : Fin 8) (cyc : Nat) (up : Upset) (s : State) : Host.Outcome State Fault Refusal :=
  chanStep 4 acc c cyc up (fun s ctx t v =>
    if s.chanDrained acc c t then s.chanSignal ctx acc c t v else s.setChanState acc c .waiting) s
/-- DMA_END (R138): the program ends, or the channel waits. -/
def execDmaEnd (acc : Fin 16) (c : Fin 8) (cyc : Nat) (up : Upset) (s : State) : Host.Outcome State Fault Refusal :=
  chanStep 5 acc c cyc up (fun s ctx t v =>
    if s.chanDrained acc c t then s.chanEnd ctx acc c t v else s.setChanState acc c .waiting) s

/-- DMA_WAIT_END (R138, Table 6-10): the wait of a channel held at a WAIT, SIGNAL or END is over. `up` is what the token queue
reports when a WAIT pops it (R121). -/
def execDmaWaitEnd (acc : Fin 16) (c : Fin 8) (cyc : Nat) (up : Upset) (s : State) : Host.Outcome State Fault Refusal :=
  .next (s.chanNow .waiting acc c cyc fun s ctx t v =>
    match chanOp v with
    | 3 =>
      if s.tokReady ctx acc (bits v 251 247) t (bits v 246 240) then
        s.underUpset acc c (chanId acc c) (instrWord 2 (s.chanPc acc c)) up fun u =>
          ((u.tokPop acc (bits v 251 247) t (bits v 246 240)).setChanState acc c .running).chanNext ctx acc c
      else s
    | 4 => if s.chanDrained acc c t then s.chanSignal ctx acc c t v else s
    | 5 => if s.chanDrained acc c t then s.chanEnd ctx acc c t v else s
    | _ => s)

/-- DMA_RESUME (R139): the run condition of an ARMED or PACED channel holds. -/
def execDmaResume (acc : Fin 16) (c : Fin 8) (cyc : Nat) (s : State) : Host.Outcome State Fault Refusal :=
  .next (match s.chanIssuer acc c with
    | none => s
    | some (p, ctx) =>
      let t := s.schedAt p cyc
      if (s.chanState acc c = .armed ∨ s.chanState acc c = .paced) ∧ s.runCond acc c t then s.chanRun ctx acc c t else s)

/-! ### The disable bit (R140 to R142) -/

/-- The regions of a context that a tier range meets lose their digests: what a stopped channel contributed is undefined
(R140). -/
def State.blurRegions (s : State) (ctx : Nat) (base : Bool) (a n : Nat) : State :=
  let hit := fun (x : Ctx) (r : Region) => r.base == base && decide (x.regionAddr r < a + n ∧ a < x.regionAddr r + r.size)
  let blur := fun (x : Ctx) (r : Region) => if hit x r then { r with acc := Config.freeNat s.free % 2 ^ 128 } else r
  (s.modCtx ctx fun x => { x with regions := x.regions.map (blur x) }).skipFree 1
/-- Of the packets of a flow that wait for a port, those not yet whole are discarded: how many are whole is free; the digest of
what the flow sends is undefined (R140). -/
def State.blurFlow (s : State) (ctx f : Nat) : State :=
  let mine := fun (p : Packet) => p.flow == f && p.opcode == 1
  let keep := Config.freeNat s.free
  let drop := ((s.outbox.zipIdx.filter fun q => mine q.1).drop (keep % 2 ^ 32)).map Prod.snd
  let blur := fun (q : FlowFold) => if q.flow = f ∧ q.send then { q with acc := Config.freeNat (s.free + 1) % 2 ^ 128 } else q
  ({ s with outbox := (s.outbox.zipIdx.filter fun (q : Packet × Nat) => !drop.contains q.2).map Prod.fst }.modCtx ctx fun x =>
    { x with folds := x.folds.map blur }).skipFree 2
/-- Overwrite a range of a space with free bytes: 0 the top tier of accord `a`, 1 the heart, 2 the base tier; 3 names the flow of
a MOVE to the fabric. -/
def State.scramble (s : State) (ctx : Option Nat) (a : Nat) (r : Nat × Nat × Nat) : State :=
  let bs := freeBytes s.free r.2.2
  match r.1, ctx with
  | 0, _ => (s.modAcc a fun A => { A with top := A.top.writeN r.2.1 bs }).skipFree r.2.2
  | 3, some c => s.blurFlow c r.2.1
  | 3, none => s
  | d, some c => ((s.devWrite (d == 2) r.2.1 bs).skipFree r.2.2).blurRegions c (d == 2) r.2.1 r.2.2
  | d, none => (s.devWrite (d == 2) r.2.1 bs).skipFree r.2.2

/-- Whether a push then in progress took place is undefined (R140). -/
def State.pushPart (s : State) (a : Nat) (c : Fin 8) (t : Nat) : State :=
  let v := s.chanInstr a c
  let q := bits v 251 247
  if (chanOp v = 4 ∨ (chanOp v = 5 ∧ bit v 246)) ∧ !s.tokFull a q t then
    (let (b, s1) := s.drawBool
     if b then s1.tokPut a q t (pushRank (chanId a c)) (BitVec.ofNat 32 (bits v 239 208)) else s1)
  else s
/-- What a channel stopped in RUNNING, PACED or WAITING leaves undefined (R140): the destinations of every MOVE since its last
completed SIGNAL with its sillage contributions, a push in progress, its program counter, loop indices and byte count. What it
had read and not written is discarded. -/
def State.chanUndefined (s : State) (a : Nat) (c : Fin 8) : State :=
  let t := match s.partOf a with
    | some p => (s.guardAt p).now
    | none => 0
  let s0 := (s.pushPart a c t).modAcc a fun A => { A with landing := A.landing.filter fun l => l.chan != c.val }
  let s1 := (s0.chanAt a c).sinceSignal.foldl (fun t r => t.scramble (s.ctxOn a) a r) s0
  let k := s1.free
  let s2 := (s1.chanClear a c).modChan a c fun x => { x with i0 := Config.freeNat k, i1 := Config.freeNat (k + 1) }
  ((s2.setChanPc a c (Config.freeNat (k + 2) % 256)).odSet (kDmaBytes a c) (Config.freeNat (k + 3) % 2 ^ 64)).skipFree 4

/-- The input of DMA channel `c` at accord arbiter `k` (Table 6-4). -/
def dmaInput (k c : Nat) : Option Nat :=
  if k < 24 then some (1 + c)
  else if k = 24 ∧ c < 4 then some (1 + c)
  else if k = 25 ∧ 4 ≤ c then some (c - 3)
  else none
/-- The grants of a channel end at once (R140). -/
def State.dropGrants (s : State) (a : Nat) (c : Fin 8) : State :=
  (List.range 26).foldl (fun t k => match SMap.get (fun _ => (none : Option Grant)) (t.accAt a).grants k with
    | some g => if dmaInput k c = some g.input then
        (t.modAcc a fun A => { A with grants := SMap.set (fun _ => (none : Option Grant)) A.grants k none }).odSetBits
          (kArbCtrl a k) 6 0 0
      else t
    | none => t) s

/-- Set DISABLE on a channel: `cause` gives the class and SEQ of the record that led the firmware to it, none for
software. -/
def State.chanDisable (s : State) (a : Nat) (c : Fin 8) (cause : Option (Nat × Nat)) : State :=
  let st := s.chanState a c
  if s.odBit (kDmaCtrl a c) 31 then s
  else if st = .done then (s.odSetBit (kDmaCtrl a c) 31 true).event .top 3
  else
    let s1 := ((s.odSetBit (kDmaCtrl a c) 31 true).event .top 3).dropGrants a c
    let s2 := (s1.setChanState a c .disabled).odSetBit (kDmaCtrl a c) 30 false
    let s3 := if st = .running ∨ st = .paced ∨ st = .waiting then
      (s2.bump kDmaDisables 1).chanUndefined a c else s2
    match s3.ctxOn a with
    | some ctx =>
      s3.fault
        { cls := match cause with
            | some q => q.1
            | none => 3,
          action := 5, level := 1, unit := chanId a c, part := some (s3.ctxAt ctx).part, ctx := some ctx,
          instr := instrWord 2 (s.chanPc a c), syn := progSyn 0x12 (8 * a + c),
          cause := match cause with
            | some q => q.2
            | none => 0,
          flags := 0, window := true }
    | none => s3

/-- DMA_DISABLE (R140 to R142); the entry of an accord that the grade does not have does not exist (R143). -/
def execDmaDisable (acc : Fin 16) (c : Fin 8) (cause : Option (Nat × Nat)) (s : State) :
    Host.Outcome State Fault Refusal :=
  .next (if s.hasAccord acc then s.chanDisable acc c cause else s.refuse 1)

/-- DMA_DRAINED (R140): no response and no write of a disabled channel remains outstanding. -/
def execDmaDrained (acc : Fin 16) (c : Fin 8) (s : State) : Host.Outcome State Fault Refusal :=
  .next (if s.hasAccord acc && s.odBit (kDmaCtrl acc c) 31 then s.odSetBit (kDmaCtrl acc c) 30 true else s)

/-- Clear DISABLE: the channel enters IDLE (R142). DRAINED and the program counter read 0 again (log entry 184). -/
def State.chanEnable (s : State) (a : Nat) (c : Fin 8) : State :=
  if s.odBit (kDmaCtrl a c) 31 then
    ((s.odSet (kDmaCtrl a c) 0).setChanState a c .idle).modChan a c fun _ => Channel.reset
  else s
/-- DMA_ENABLE (R142). -/
def execDmaEnable (acc : Fin 16) (c : Fin 8) (s : State) : Host.Outcome State Fault Refusal :=
  .next (if s.hasAccord acc then s.chanEnable acc c else s.refuse 1)

end Sys2Proof.Machine
end

