-- ==== Sys2Proof/Machine/LaunchTable.lean ====
section
/-!
DEFINITION. The launch table as data (R220 to R222, R227): the fields of an entry, launch-entry and hold writes, their LAUNCH
packets (R255), and the hold of a run by the firmware.
-/
namespace Sys2Proof.Machine

/-! ### Entries (Table 10-2) -/

/-- Launch entry `e`. -/
def State.launch (s : State) (e : Nat) : Nat := s.odGet (kLaunchEntry e)
/-- Write a launch entry whole; what a hold would add at its next firing (R227) is forgotten with the old entry. -/
def State.launchPut (s : State) (e v : Nat) : State :=
  { s.odSet (kLaunchEntry e) v with time := { s.time with holdD := s.time.holdD.filter fun q => q.1 != e } }
/-- ARMED of a launch entry value. -/
def armed (v : Nat) : Bool := bit v 0
/-- COUNT of a launch entry value. -/
def lCount (v : Nat) : Nat := bits v 127 64
/-- PERIOD. -/
def lPeriod (v : Nat) : Nat := bits v 63 24
/-- GROUP. -/
def lGroup (v : Nat) : Nat := bits v 23 18
/-- TARGET. -/
def lTarget (v : Nat) : Nat := bits v 17 10
/-- ACTION. -/
def lAction (v : Nat) : Nat := bits v 9 6
/-- An index in `[0, n)` with a property, the lowest first. -/
def lowest (n : Nat) (p : Nat → Bool) : Option Nat := (List.range n).find? p
/-- The lowest launch entry that is not armed. -/
def State.freeEntry (s : State) : Option Nat := lowest 64 fun e => !armed (s.launch e)
/-- A one-shot STOP that sets a generation. -/
def stopValue (count c gen : Nat) : Nat :=
  count * 2 ^ 64 + c * 2 ^ 10 + 2 * 2 ^ 6 + 2 ^ 5 + gen % 16 * 2 + 1
/-- Send a LAUNCH packet to another chip, to be acknowledged (R255). -/
def State.sendLaunch (s : State) (chip aux v : Nat) : State :=
  let p := { mgmtPacket (s.odGet kChipId) chip 10 0 (leBytes 16 v) with ackreq := true, aux := BitVec.ofNat 32 aux }
  let p' := { p with seq := BitVec.ofNat 32 (SMap.get flowDefault s.flows 0).seq }
  let s1 := s.sendMgmt p
  { s1 with unacked := s1.unacked ++ [(p', s1.g)] }

/-! ### Entry writes (R222) -/

/-- A refused launch write or counter clear. -/
def State.launchRefused (s : State) : State := (s.bump kLaunchRefused 1).event .time 3
/-- A launch-entry write is accepted (R222). -/
def State.launchOk (s : State) (e v : Nat) : Bool :=
  let lim := s.g + s.odGet kLaunchGuard
  decide (1 ≤ lAction v ∧ lAction v ≤ 6) && !(armed (s.launch e) && decide (lCount (s.launch e) < lim))
    && !(armed v && decide (lCount v < lim))
/-- LAUNCH_ENTRY (R222): the whole entry is written, or nothing. -/
def State.launchWrite (s : State) (e v : Nat) : State :=
  if s.launchOk e v then s.launchPut e v else s.launchRefused

/-! ### Hold writes (R227) -/

/-- What the holds add when an entry re-arms (R227). -/
def State.holdExtra (s : State) (e : Nat) : Nat := ((s.time.holdD.filter fun q => q.1 == e).map Prod.snd).sum
/-- The first firing at or after `at_` of an entry value that re-arms once `extra` later (R221, R227). -/
def firingAfter (at_ v extra : Nat) : Nat :=
  let n := lCount v + extra
  if at_ ≤ lCount v then lCount v else n + max 1 ((at_ - n + lPeriod v - 1) / lPeriod v) * lPeriod v
/-- The armed entries of a hold group. -/
def State.groupEntries (s : State) (g : Nat) : List Nat :=
  (List.range 64).filter fun e => armed (s.launch e) && lGroup (s.launch e) == g
/-- The armed periodic DRYDOWN entries of a hold group. -/
def State.holdDrydowns (s : State) (g : Nat) : List Nat :=
  (s.groupEntries g).filter fun e => lAction (s.launch e) == 4 && lPeriod (s.launch e) != 0
/-- The earliest firing of entry `e` at or after `at_`. -/
def State.firing_ (s : State) (at_ e : Nat) : Nat := firingAfter at_ (s.launch e) (s.holdExtra e)
/-- Add to the COUNT of an entry. -/
def State.addCount (s : State) (e n : Nat) : State :=
  s.odSet (kLaunchEntry e) (setBits (s.launch e) 127 64 (lCount (s.launch e) + n))
/-- What a hold write comes to: a refusal code, or D and the counts added. -/
def State.holdPlan (s : State) (at_ g steps : Nat) : Nat × Nat × Nat :=
  let l := s.holdDrydowns g
  if at_ < s.g + s.odGet kLaunchGuard then (1, 0, 0)
  else match (l.map (s.firing_ at_)).min? with
    | none => (2, 0, 0)
    | some d =>
      let p := ((l.find? fun e => s.firing_ at_ e == d).map fun e => lPeriod (s.launch e)).getD 0
      let wraps := (s.groupEntries g).any fun e =>
        let v := s.launch e
        if d < lCount v then decide (2 ^ 64 ≤ lCount v + steps * p)
        else lCount v == d && lPeriod v != 0 && decide (2 ^ 64 ≤ d + lPeriod v + s.holdExtra e + steps * p)
      if wraps then (3, 0, 0) else (0, d, steps * p)
/-- HOLD_WRITE (R227): entries after D move; a periodic entry that fires at D re-arms later. -/
def State.holdWrite (s : State) (v : Nat) : State :=
  let g := bits v 5 0
  let (code, d, n) := s.holdPlan (bits v 127 64) g (bits v 15 8)
  if code ≠ 0 then (s.launchRefused).odSet kHoldStatus code
  else
    let l := s.groupEntries g
    let s1 := l.foldl (fun t e => if d < lCount (s.launch e) then t.addCount e n else t) s
    let fix := l.filter fun e => lCount (s.launch e) == d && lPeriod (s.launch e) != 0
    let s2 := { s1 with time := { s1.time with holdD := s1.time.holdD ++ fix.map fun e => (e, n) } }
    ((s2.odSet kHoldStatus 0).bump kHolds 1).event .time 4
/-- The hold write as a packet to a chip, to be acknowledged (R255). -/
def State.sendHolds (s : State) (chips : List Nat) (v : Nat) : State := chips.foldl (fun t q => t.sendLaunch q 2 v) s

/-- The entry by which a context's run is held: its armed periodic DRYDOWN entry, the lowest. -/
def State.runEntryOf (s : State) (c : Nat) : Option Nat :=
  lowest 64 fun e => let v := s.launch e; armed v && lTarget v == c && lAction v == 4 && lPeriod v != 0
/-- The firmware holds the run of a context for `steps` step periods, on this chip and on the run's others (R206, R308, R331): from
the run's first DRYDOWN that a hold can still reach. The manual does not give AT: it is a free count that names that DRYDOWN (log
entry 199). -/
def State.holdRun (s : State) (c steps : Nat) : State :=
  match s.runEntryOf c with
  | none => s
  | some e =>
    let (k, s1) := s.drawNat
    let lo := s.g + s.odGet kLaunchGuard
    let at_ := lo + k % (s.firing_ lo e - lo + 1)
    let v := at_ % 2 ^ 64 * 2 ^ 64 + steps * 2 ^ 8 + lGroup (s.launch e)
    ((s1.trace 0x0400).holdWrite v).sendHolds ((s.ctxAt c).chips.filter fun q => q != s.odGet kChipId) v
/-- The firmware holds a context's run for at least `tk` ticks: so many step periods, from 1 to 255 (R227, R308). -/
def State.holdFor (s : State) (c tk : Nat) : State :=
  match s.runEntryOf c with
  | none => s
  | some e => s.holdRun c (min 255 (max 1 ((tk + lPeriod (s.launch e) - 1) / lPeriod (s.launch e))))

end Sys2Proof.Machine
end

