-- ==== Sys2Proof/Machine/Contexts.lean ====
section
/-!
DEFINITION. Contexts and partitions (R191, R192, Table 9-1), arbiter images at a switch (R127), pre-emption, save and
restore (R206 to R209), and CTX_CFG (R405).
-/
namespace Sys2Proof.Machine

/-! ### Slot-table images (R126, R127) -/

/-- An image's bytes are well formed (R126, Table 6-2): the table length lies in range, and no owned entry names an input
that the arbiter does not have. -/
def imageOk (chip : Bool) (inputs : Nat → Bool) (v : Nat) : Bool :=
  let len := v % 256
  decide (4 ≤ len ∧ len ≤ if chip then 12 else 10) &&
    (List.range (2 ^ min len 12)).all fun i =>
      let e := bits v (8 * (80 + i) + 7) (8 * (80 + i))
      !bit e 7 || (inputs (e % 64) && !(chip && e % 64 == 0))
/-- The bytes of an image. -/
def imageSize (v : Nat) : Nat := 80 + 2 ^ min (v % 256) 12

/-- The inputs of accord arbiter `k` (Table 6-4). -/
def accInput (k i : Nat) : Bool :=
  if k < 16 then decide (i ≤ 24)
  else if k < 20 then decide (i ≤ 15)
  else if k < 24 then decide (i ≤ 11)
  else decide (i ≤ 6)
/-- The inputs of chip arbiter `k` (Table 6-5). -/
def chipInput (k i : Nat) : Bool := if k < 80 then decide (i ≤ 37) else decide (i ≤ 20)

/-- The bits of an image that are not reserved (Tables 6-2, 6-3, R10): LEN_LOG2, the burst limits, OWNED and INPUT of the
entries; the others read as zero. -/
def cleanImage (v : Nat) : Nat :=
  let n := 2 ^ min (v % 256) 12
  keepBits v [(7, 0), (639, 128)] + (v / 2 ^ 640 &&& repeated n 8 0xBF) * 2 ^ 640
/-- Swap the shadow image of an accord arbiter in, if it is ready and well formed; else the active one stays and
SWAP_MISSED is raised when a swap was due (R127). A ready image that is malformed is dropped: SHADOW_READY clears and no
SWAP_MISSED is raised (DESIGN CHOICE, log entry 180). -/
def State.swapAcc (s : State) (a k : Nat) : State :=
  if s.odBit (kArbCtrl a k) 29 then
    let v := s.odGet (kArbShadow a k)
    let s1 := s.odSetBit (kArbCtrl a k) 29 false
    if imageOk false (accInput k) v then s1.odSet (kArbActive a k) v else s1
  else s
/-- The swap moment of the accord arbiters of a partition (R127). -/
def State.swapPart (s : State) (p : Nat) : State :=
  (s.accordsOf p).foldl (fun t a =>
    (List.range 26).foldl (fun u k =>
      if u.odBit (kArbCtrl a k) 29 then u.swapAcc a k else (u.bump kSwapMissed 1).event .top 4) t) s

/-- The images and channel programs of a context are put in place: the shadow images made ready, the channels of its DMA
section written and IDLE, the partition's other channels as they are (R126, R127, R135). -/
def State.placeUnits (s : State) (c : Nat) : State :=
  let x := s.ctxAt c
  match x.variant with
  | none => s
  | some v =>
    let acc := fun (w : Nat) => (s.accordsOf x.part).getD (w / 2 ^ x.fold) 16
    let s1 := v.slots.foldl (fun t e => match e.1 with
      | .accordArb w k => (t.odSet (kArbShadow (acc w) (k % 26)) (cleanImage (leNat e.2))).odSetBit (kArbCtrl (acc w) (k % 26)) 29 true
      | _ => t) s
    v.dma.foldl (fun t d => ((t.odSet (kDmaCfg (acc d.vacc) (d.chan % 8)) (d.cfg / 16 * 16)).odSet (kDmaProgram (acc d.vacc) (d.chan % 8))
      (cleanProgram (leNat d.program))).odSet (kDmaCtrl (acc d.vacc) (d.chan % 8)) (1 * 2 ^ 26)) s1
/-- Another context is bound to the context's partition: its units are placed again at the switch. -/
def State.shared (s : State) (c : Nat) : Bool := (s.boundTo (s.ctxAt c).part).any fun d => d != c
/-- What the switch to a context places. -/
def State.switchUnits (s : State) (c : Nat) : State := if s.shared c then s.placeUnits c else s

/-! ### Entering and leaving a partition -/

/-- A queued recovery has still to quiet the partition's units (R299 to R301). -/
def State.unquiet (s : State) (p : Nat) : Bool :=
  s.recQ.any fun r => match r.kind with
    | .teardown c => (s.ctxAt c).part == p
    | .partReset q _ => q == p
    | .offline => true
    | .taskRestart _ => false
/-- An accord of the partition is under test. -/
def State.testing (s : State) (p : Nat) : Bool := s.jobs.tests.any fun t => s.inPart p t.1
/-- A forced test of the partition waits. -/
def State.forcing (s : State) (p : Nat) : Bool := s.jobs.forced.any fun a => s.inPart p a
/-- The partition can take a context: none is RUNNING, SAVING or RESTORING there, and no recovery or test of it is under way. -/
def State.partFree (s : State) (p : Nat) : Bool := (s.holding p).isEmpty && !s.unquiet p && !s.testing p && !s.forcing p

/-- Empty the units of a partition's accords for a new context: token queues, stamps, timing records (R132, R404). -/
def Accord.quiet (A : Accord) : Accord :=
  { A with eng := A.eng.map fun e => { e with activeAt := 0, arrayFree := 0, epiFree := 0, last := [], ports := [] },
           ve := { A.ve with land := [], pipeFree := 0, loadFree := 0, storeFree := 0 },
           tasks := [], cores := A.cores.map fun k => { k with run := none, machine := true }, landing := [], access := Vector.replicate 2 AccessEngine.reset,
           chan := A.chan.map fun x => { x with moveFree := 0, firstAt := 0, outstanding := [], sinceSignal := [] },
           grants := [] }
/-- What an accord has issued lands: writes under way, and the reads of its access engines with their marks (R113, R300, R301). -/
def Accord.drain (A : Accord) : Accord :=
  let B := A.settleAll
  let C := (B.access.toList.flatMap AccessEngine.flight).foldl (fun D f => match f with
    | .read _ i d tags _ => D.landRead i d tags
    | _ => D) B
  { C with
    access := C.access.map fun e => { e with flight := [] } }
/-- Apply a change to every accord of a partition. -/
def State.eachAcc (s : State) (p : Nat) (f : Accord → Accord) : State :=
  (s.accordsOf p).foldl (fun t a => t.modAcc a f) s

/-- The state entries of an accord's matrix and vector engines. -/
def engineStates (a : Nat) : List Nat := kVeEngineState a :: (List.range 4).map fun i => kMeEngineState (4 * a + i)
/-- The state entries of an accord's preparer cores. -/
def coreStates (a : Nat) : List Nat := (List.range 4).map fun i => kCoreState (4 * a + i)
/-- Units that ran are idle (Tables 3-10, 4-7). -/
def State.idleStates (s : State) (l : List Nat) : State :=
  l.foldl (fun (t : State) (k : Nat) => if t.odGet k = 1 then t.odSet k 0 else t) s
/-- The engines of a partition are idle: a phase has ended. -/
def State.idleEngines (s : State) (p : Nat) : State := s.idleStates ((s.accordsOf p).flatMap engineStates)
/-- The engines and cores of a partition are idle: what ran there has stopped. -/
def State.idleUnits (s : State) (p : Nat) : State :=
  s.idleStates ((s.accordsOf p).flatMap fun a => engineStates a ++ coreStates a)

/-- A core's task is gone: its cycles up to the one in which schedule time stands count (R91), and the monitor holds the core. -/
def State.quietCore (s : State) (p a k : Nat) : State :=
  match ((s.accAt a).cores.toList[k]?).bind Core.run with
  | some r => s.bump (kPcBusyEc (4 * a + k)) ((s.guardAt p).now - r.at_).toNat
  | none => s
/-- What the preparer cores of a partition run is dropped. -/
def State.quietCores (s : State) (p : Nat) : State :=
  ((s.accordsOf p).foldl (fun t a => [0, 1, 2, 3].foldl (fun (u : State) k => u.quietCore p a k) t) s).eachAcc p fun A =>
    { A with tasks := [], cores := A.cores.map fun k => { k with run := none, machine := true } }
/-- A context enters RUNNING from LOADED or READY: stamps zero, queues empty, arbiter images of the switch (R127, R132,
R404). -/
def State.enterRunning (s : State) (c : Nat) : State :=
  let p := (s.ctxAt c).part
  let s1 := (s.switchUnits c).modCtx c fun x => { x with st := .running }
  (((s1.quietCores p).eachAcc p fun A => { A with stamps := [], tokq := [] }).idleUnits p).setGuard p Guard.reset

/-- Begin the tests of accords. -/
def State.beginTests (s : State) (l : List Nat) (k : TestKind) : State :=
  let s1 := { s with jobs := { s.jobs with tests := s.jobs.tests ++ l.map fun a => (a, k, s.g),
                                           due := s.jobs.due.filter fun e => !l.contains e.1,
                                           forced := s.jobs.forced.filter fun a => !l.contains a } }
  l.foldl (fun t _ => t.trace 0x0700) s1
/-- The forced accords of a partition that no context holds are tested (R308). -/
def State.startForced (s : State) (p : Nat) : State :=
  let l := s.jobs.forced.filter fun a => s.inPart p a
  if l.isEmpty ∨ !(s.holding p).isEmpty then s else s.beginTests l .forced

/-- The READY contexts of a partition. -/
def State.readyOf (s : State) (p : Nat) : List Nat :=
  (s.ctx.filter fun e => e.2.st == .ready && e.2.part == p).map Prod.fst
/-- A partition has become free: what a forced test waits for is tested (R308); else a READY context of it enters RUNNING (Table 9-1),
which is a switch to another context and a swap moment (R127); which of several is a free value. -/
def State.partRelease (s0 : State) (p : Nat) : State :=
  let s := s0.startForced p
  if !s.partFree p then s
  else match s.readyOf p with
    | [] => s
    | [c] => (s.enterRunning c).swapPart p
    | c :: r =>
      let (n, s1) := s.drawNat
      (s1.enterRunning ((c :: r).getD (n % (r.length + 1)) c)).swapPart p

/-! ### Save and restore (R207 to R209, Table 9-10) -/

/-- The bytes of an accord's stores at a local address: scratchpad and tile stores, then accumulator words. -/
def Accord.localBytes (A : Accord) (addr n : Nat) : List Byte :=
  if addr < tileEnd then A.top.readN addr n
  else (List.range n).map fun i =>
    let b := addr + i - tileEnd
    BitVec.ofNat 8 ((SMap.get accDefault A.accum (b / 4)).toNat / 256 ^ (b % 4))
/-- Write bytes at a local address. -/
def Accord.putLocal (A : Accord) (addr : Nat) (bs : List Byte) : Accord :=
  if addr < tileEnd then { A with top := A.top.writeN addr bs }
  else
    { A with accum := bs.zipIdx.foldl (fun m e =>
        let b := addr + e.2 - tileEnd
        SMap.modify accDefault m (b / 4) fun w =>
          BitVec.ofNat 32 (setBits w.toNat (8 * (b % 4) + 7) (8 * (b % 4)) e.1.toNat)) A.accum }
/-- The stamps of an accord as bytes. -/
def Accord.stampBytes (A : Accord) : List Byte :=
  (List.range 32768).map fun g => BitVec.ofNat 8 (SMap.get zeroNat A.stamps g)
/-- Set the stamps of an accord from bytes. -/
def Accord.putStamps (A : Accord) (bs : List Byte) : Accord :=
  { A with stamps := bs.zipIdx.foldl (fun m e => SMap.set zeroNat m e.2 e.1.toNat) [] }

/-- SAVE_BASE of a context: a physical heart address (log entry 29). -/
def State.saveBase (s : State) (c : Nat) : Nat := s.odBits (kCtxCfg c) 191 128
/-- RB_BASE of a context: an offset in its heart window (R199). -/
def State.rbBase (s : State) (c : Nat) : Nat := s.odBits (kCtxCfg c) 127 64
/-- The dead-between-commands attribute (Table 9-14). -/
def State.deadBetween (s : State) (c : Nat) : Bool := decide (s.odBits (kCtxCfg c) 47 40 ≠ 0)
/-- ROWS, NMB and SEGS of a context's batch shape. -/
def State.nmb (s : State) (c : Nat) : Nat := s.odBits (kCtxCfg c) 15 0
/-- ROWS. -/
def State.rows (s : State) (c : Nat) : Nat := s.odBits (kCtxCfg c) 31 16
/-- SEGS. -/
def State.segs (s : State) (c : Nat) : Nat := s.odBits (kCtxCfg c) 39 32

/-- The live ranges of the boundary before phase `k`; the last list is that of the step boundary. -/
def Ctx.liveAt (x : Ctx) (k : Nat) : List (Nat × Nat) :=
  match x.variant with
  | some v => v.live.getD (if k = 0xFFFFFFFF then v.phases.length else k) []
  | none => []

/-- A control word with FREEZE written: FROZEN follows at once where no grant is active, else with the end of the grant
(R128). -/
def freezeWord (old : Nat) (v : Bool) : Nat := setBits (setBits old 31 31 (b2n v)) 30 30 (b2n (v && !bit old 6))
/-- Write FREEZE of an accord arbiter. -/
def State.arbFreeze (s : State) (a k : Nat) (v : Bool) : State := s.odSet (kArbCtrl a k) (freezeWord (s.odGet (kArbCtrl a k)) v)
/-- Set FREEZE of the arbiters of an accord that software has not frozen, or clear what the device set. -/
def State.freezeAcc (s : State) (v : Bool) (a : Nat) : State :=
  let l := if v then (List.range 26).filter fun k => !s.odBit (kArbCtrl a k) 31 else (s.accAt a).froze
  (l.foldl (fun (t : State) k => t.arbFreeze a k v) s).modAcc a fun A => { A with froze := if v then A.froze ++ l else [] }
/-- FREEZE of every arbiter of a partition by the device (R128, R207, R301). -/
def State.freezePart (s : State) (p : Nat) (v : Bool) : State := (s.accordsOf p).foldl (State.freezeAcc · v ·) s

/-- A pre-emption point with a request: the guard stops issue, what was issued lands, the arbiters freeze, the context is SAVING
(R206, R207). A step that resumes is not time-exact (R209, R308).
`k` is the phase about to begin, 0xFFFF_FFFF at a step boundary. -/
def State.beginSave (s : State) (c k : Nat) : State :=
  let x := s.ctxAt c
  let s1 := s.modCtx c fun x =>
    { x with st := .saving, preempt := false, preemptFor := [], savePhase := k, savePtr := s.deadBetween c,
             saveTime := (s.guardAt x.part).now, notExact := x.inStep || x.notExact || s.jobs.resume.contains c }
  (s1.eachAcc x.part Accord.drain).freezePart x.part true

/-- The header of a save area (Table 9-10). -/
def State.saveHeader (s : State) (c : Nat) : List Byte :=
  let x := s.ctxAt c
  leBytes 4 1 ++ leBytes 4 x.savePhase ++ leBytes 8 x.saveTime ++ leBytes 8 (s.stepOf c) ++ leBytes 8 x.poolHead
    ++ beBytes 16 x.latched.digest ++ leBytes 8 (s.odGet (kCtxFreezeEc c))
    ++ leBytes 4 (b2n x.savePtr + 2 * b2n x.fallback + 4 * b2n x.notExact)
/-- 28 MiB. -/
def accordImage : Nat := 0x1C00000
/-- Copy the live ranges and stamps of one accord into the save area. -/
def State.saveAccord (s : State) (base n : Nat) (live : List (Nat × Nat)) (i a : Nat) : State :=
  let A := s.accAt a
  let s1 := live.foldl (fun t r => t.devWrite false (base + 4096 + i * accordImage + r.1) (A.localBytes r.1 r.2)) s
  s1.devWrite false (base + 4096 + n * accordImage + i * 32768) A.stampBytes
/-- The contents of the save area. -/
def State.writeSave (s : State) (c : Nat) : State :=
  let x := s.ctxAt c
  let b := s.saveBase c
  let s1 := s.devWrite false b (s.saveHeader c)
  if x.savePtr then s1
  else
    let l := s.accordsOf x.part
    l.zipIdx.foldl (fun t e => t.saveAccord b l.length (x.liveAt x.savePhase) e.2 e.1) s1

/-- SAVE_COMPLETE (R208, Table 9-1): the save area is complete; the context is SAVED and its partition is released. -/
def State.saveComplete (s : State) (c : Nat) : State :=
  if (s.ctxAt c).st = .saving then
    let p := (s.ctxAt c).part
    let s1 := (s.writeSave c).bump kPreemptions 1
    ((s1.modCtx c fun x => { x with st := .saved }).freezePart p false).partRelease p
  else s
/-- What the check bits of the stores that a save reads report (R121): corrected errors are counted, an uncorrectable word is a fault
of the partition. -/
def State.saveUpset (s : State) (u : Fin 16 × Fin 4 × Upset) : State :=
  match u.2.2 with
  | .uncorrectable k addr syn => s.uncorrectable k u.1 u.2.1 addr syn 0
  | .corrected k n => s.corrected k u.1 u.2.1 n
  | .none => s
/-- SAVE_COMPLETE. -/
def execSaveComplete (c : Fin 256) (ups : List (Fin 16 × Fin 4 × Upset)) (s : State) : Host.Outcome State Fault Refusal :=
  .next (whenLive s (if (s.ctxAt c).st = .saving then (ups.foldl State.saveUpset s).saveComplete c else s))

/-- RESUME (Table 9-1): a SAVED context is restored when its partition is free. -/
def State.resume (s : State) (c : Nat) : State :=
  if (s.ctxAt c).st = .saved ∧ s.partFree (s.ctxAt c).part then s.modCtx c fun x => { x with st := .restoring } else s
/-- RESUME. -/
def execResume (c : Fin 256) (s : State) : Host.Outcome State Fault Refusal := .next (whenLive s (s.resume c))

/-- Copy one accord back from the save area. -/
def State.restoreAccord (s : State) (base n : Nat) (live : List (Nat × Nat)) (i a : Nat) : State :=
  let s1 := live.foldl (fun t r =>
    t.modAcc a fun A => A.putLocal r.1 (t.tierBytes false (base + 4096 + i * accordImage + r.1) r.2)) s
  s1.modAcc a fun A => A.putStamps (s1.tierBytes false (base + 4096 + n * accordImage + i * 32768) 32768)
/-- The live ranges of a context's boundary and its stamps, from its save area (R207). -/
def State.restoreLive (s : State) (c : Nat) : State :=
  let x := s.ctxAt c
  let l := s.accordsOf x.part
  l.zipIdx.foldl (fun t e => t.restoreAccord (s.saveBase c) l.length (x.liveAt x.savePhase) e.2 e.1) s
/-- The context's state from its save area: stores, stamps, pool head, freeze total (R207, R209, R404). -/
def State.readSave (s : State) (c : Nat) : State :=
  let x := s.ctxAt c
  let b := s.saveBase c
  let s1 := (s.modCtx c fun y => { y with poolHead := s.tierLE false (b + 24) 8 }).odSet (kCtxFreezeEc c)
    (s.tierLE false (b + 48) 8)
  if bit (s.tierLE false (b + 56) 4) 0 then s1.eachAcc x.part fun A => { A with stamps := [] }
  else s1.restoreLive c

/-! ### Layer gates and phases (R93, R135, R330) -/

/-- The layers whose gate phase `k` of a context waits for (R330): a single-chip context that latched the new epoch of a
set in DECANTING. -/
def State.closedGate (s : State) (c k : Nat) : Bool :=
  let x := s.ctxAt c
  let set := x.latched.set
  !x.flag 0 && decide (x.latched.version ≠ 0) && s.wsState set == 5 &&
    x.latched.version == s.wsStaged set &&
    (match x.variant with
     | some v => v.layerPhase.zipIdx.any fun e => e.1 == k && s.layerSt set e.2 == 4
     | none => false)

/-- Begin phase `k` at schedule time `t`: its channels are armed; or the partition waits at a layer gate. -/
def State.beginPhase (s : State) (c k t : Nat) : State :=
  let p := (s.ctxAt c).part
  let s1 := s.modGuard p fun g =>
    { g with phase := k, phaseStart := t, now := max g.now t, ended := [], gateWait := s.closedGate c k }
  if s.closedGate c k then
    ((s1.bump kGateWaits 1).event .flacon 3).modCtx c fun x => { x with notExact := true }
  else s1.armPhase c p k t
/-- A gate has opened: a partition that waited there begins its phase. -/
def State.gateOpened (s : State) (c : Nat) : State :=
  let p := (s.ctxAt c).part
  let g := s.guardAt p
  if (s.ctxAt c).st = .running ∧ g.gateWait ∧ !s.closedGate c g.phase then
    (s.modGuard p fun x => { x with gateWait := false }).armPhase c p g.phase g.phaseStart
  else s

/-- The running context after a restore continues at the saved boundary (R209). -/
def State.continueAt (s : State) (c : Nat) : State :=
  let x := s.ctxAt c
  if x.inStep ∧ x.savePhase ≠ 0xFFFFFFFF then
    (s.setGuard x.part { Guard.reset with now := x.saveTime, tolWritten := false }).beginPhase c x.savePhase (x.saveTime + 1)
  else s.setGuard x.part Guard.reset

/-- The commands that a pre-emption of a dead-between-commands context waits for have completed or been placed as ABORTED: none of
them is in flight any more (R206). -/
def Ctx.deadNow (x : Ctx) : Bool := x.preemptFor.all fun k => !x.cmds.any fun m => m.queue == k.1 && m.seq == k.2 && !m.aborted
/-- A step boundary is a pre-emption point of the context (R206): of any that does not set dead-between-commands, of one whose
binary runs on several chips, and of one whose commands admitted at the request are done. -/
def State.boundaryPoint (s : State) (c : Nat) : Bool := (s.ctxAt c).flag 0 || !s.deadBetween c || (s.ctxAt c).deadNow
/-- A pre-emption request (R206): it is held until the next pre-emption point. A context waiting at a layer gate stands at
one, and so does a single-chip context between two steps. -/
def State.preemptAsk (s : State) (c : Nat) : State :=
  let x := s.ctxAt c
  if x.st = .running then
    let s1 := s.modCtx c fun y => { y with preempt := true, preemptFor := y.cmds.map fun m => (m.queue, m.seq) }
    let g := s.guardAt x.part
    if g.gateWait ∧ !x.flag 0 ∧ !s.deadBetween c then s1.beginSave c g.phase
    else if !x.inStep ∧ x.dry = .none ∧ !x.flag 0 ∧ s1.boundaryPoint c then s1.beginSave c 0xFFFFFFFF
    else s1
  else s
/-- The latest that a save or a restore of a partition's live ranges takes, in tk: SAVE_ACCORD, twice over in a partition of more than 8
accords (R208). -/
def State.saveTk (s : State) (p : Nat) : Nat := if (s.accordsOf p).length ≤ 8 then 10450 else 20900
/-- Pre-empt what runs on a partition for a forced test, holding the run of a multi-chip context for the save, the test and the
restore; or begin the test (R308). -/
def State.forcePart (s : State) (p : Nat) : State :=
  if !s.forcing p then s
  else match s.runningOn p with
    | some c =>
      if (s.ctxAt c).preempt ∧ s.jobs.resume.contains c then s
      else
        let s1 := { s with jobs := { s.jobs with resume := unionRising s.jobs.resume [c] } }
        (if (s1.ctxAt c).flag 0 then s1.holdFor c (s.odGet kTestTime + 2 * s.saveTk p) else s1).preemptAsk c
    | none => s.startForced p
/-- RESTORE_COMPLETE (R208, R209, R404): the context is RUNNING again with its saved state. It waits for a test in progress on the
partition (log entry 231), and a forced test that has come meanwhile pre-empts it at its next point (R308). -/
def State.restoreComplete (s : State) (c : Nat) : State :=
  let p := (s.ctxAt c).part
  if (s.ctxAt c).st = .restoring ∧ !s.testing p then
    let s1 := (((((s.switchUnits c).swapPart p).quietCores p).eachAcc p fun A => { A.quiet with tokq := [] }).idleUnits p).readSave c
    ((s1.modCtx c fun x => { x with st := .running }).continueAt c).forcePart p
  else s
/-- RESTORE_COMPLETE. -/
def execRestoreComplete (c : Fin 256) (s : State) : Host.Outcome State Fault Refusal :=
  .next (whenLive s (s.restoreComplete c))

/-- PREEMPT (R206, R227): the firmware holds the run of a multi-chip context that is pre-empted, for as many step periods as the save,
the restore and the other context's steps need; how long those take is free (log entry 199). -/
def State.preemptReq (s : State) (c : Nat) : State :=
  if (s.ctxAt c).st = .running ∧ (s.ctxAt c).flag 0 then
    (let (n, s1) := s.drawNat
     (s1.holdFor c (2 * s.saveTk (s.ctxAt c).part + n)).preemptAsk c)
  else s.preemptAsk c
/-- PREEMPT. -/
def execPreempt (c : Fin 256) (s : State) : Host.Outcome State Fault Refusal := .next (whenLive s (s.preemptReq c))

/-! ### Partitions (R192) -/

/-- A mask write is accepted (R192). -/
def State.maskOk (s : State) (p mask : Nat) : Bool :=
  let l := (List.range 16).filter fun a => bit mask a
  [1, 2, 4, 8, 16].contains l.length
    && l.all (fun a => s.hasAccord a && !s.accordFenced a
      && (List.range 16).all fun q => q == p || !(s.formed q && s.inPart q a))
    && (s.holding p).isEmpty
/-- PART_MASK (R192): a write that the device refuses changes nothing. -/
def execPartMask (p : Fin 16) (mask : BitVec 16) (s : State) : Host.Outcome State Fault Refusal :=
  .next (if s.maskOk p mask.toNat then (s.odSet (kPartMask p) mask.toNat).odSet (kPartState p) 1
    else s.refuse 7)

/-! ### CTX_CFG (R363, R405) -/

/-- The bytes of an open write sequence of an entry. -/
def State.seqOf (s : State) (key : Nat) (path : Path) : Option OpenSeq :=
  s.seqs.find? fun q => q.key == key && q.path == path
/-- Replace bytes of a list at an offset. -/
def spliceAt (l : List Byte) (off : Nat) (data : List Byte) : List Byte :=
  let m := l ++ List.replicate (off + data.length - l.length) 0
  m.take off ++ data ++ m.drop (off + data.length)
/-- Set or drop the open sequence of an entry. -/
def State.setSeq (s : State) (key : Nat) (path : Path) (q : Option (List Byte)) : State :=
  let r := s.seqs.filter fun x => !(x.key == key && x.path == path)
  { s with seqs := match q with
      | some d => r ++ [⟨key, path, d⟩]
      | none => r }
/-- The key of a queue of RUNNING state words: whether the host may change CTX_CFG (R405). -/
def CtxSt.cfgOpen : CtxSt → Bool
  | .free | .loaded => true
  | _ => false

/-- The whole value of CTX_CFG as a host write leaves it (R405): NMB, ROWS and SEGS stay; the other fields change only while
the context is FREE or LOADED. -/
def State.ctxCfgWrite (s : State) (c v : Nat) : State :=
  let old := s.odGet (kCtxCfg c)
  let new := setBits (setBits v 63 48 0) 39 0 old
  if (s.ctxAt c).st.cfgOpen then (s.odSet (kCtxCfg c) new).cfgTouched
  else if new = old then s
  else s.refuse 7

end Sys2Proof.Machine
end

