-- ==== Sys2Proof/Machine/Arbiters.lean ====
section
/-!
DEFINITION. Write sequences into DOMAIN entries (R363), the two-level arbiters (R122 to R131), and CTX_CFG (R405).
-/
namespace Sys2Proof.Machine

/-! ### Write sequences (R363) -/

/-- What one write of a sequence leads to: a wrong offset, the other path's sequence open, a sequence still open, or the
whole value. -/
inductive SeqRes
  | badLength
  | busy
  | more (s : State)
  | whole (s : State) (v : List Byte)

/-- The other access path. -/
def otherPath : Path → Path
  | .inBand => .outOfBand
  | .outOfBand => .inBand

/-- One write of a write sequence; `size` gives the entry's size from the bytes written so far. The offset and length are
checked before the other path's sequence (R368). -/
def State.seqWrite (s : State) (key : Nat) (path : Path) (off : Nat) (data : List Byte) (size : List Byte → Nat) : SeqRes :=
  let own := s.seqOf key path
  let other := s.seqOf key (otherPath path)
  let have_ := match own, other with
    | some q, _ => q.data
    | none, some q => q.data
    | none, none => []
  if data = [] ∨ 256 < data.length ∨ (off ≠ 0 ∧ off ≠ have_.length) then .badLength
  else
    let d := (if off = 0 then [] else have_) ++ data
    if size d < d.length then .badLength
    else if other.isSome then .busy
    else if d.length = size d then .whole (s.setSeq key path none) d
    else .more (s.setSeq key path (some d))

/-- The effect of one write of a sequence; a refused write changes nothing. -/
def State.seqApply (s : State) (key : Nat) (w : SeqWrite) (size : List Byte → Nat) (act : State → List Byte → State) : State :=
  match s.seqWrite key w.path w.off w.data size with
  | .more t => t.answer 0 []
  | .whole t v =>
    let r := act (t.answer 0 []) v
    if r.mgmt.answer.1 = 0 then r else { r with seqs := s.seqs }
  | .badLength => s.refuse 3
  | .busy => s.refuse 6

/-- The size of a slot-table image from its first byte (Table 6-2). -/
def imageBytes (l : List Byte) : Nat := 80 + 2 ^ min (l.headD 0).toNat 12

/-- CTX_CFG (R363, R405): 32 bytes. -/
def execCtxCfg (c : Fin 256) (w : SeqWrite) (s : State) : Host.Outcome State Fault Refusal :=
  .next (s.seqApply (kCtxCfg c) w (fun _ => 32) fun t v => t.ctxCfgWrite c (leNat v))

/-- The last byte of a shadow image of an accord arbiter sets SHADOW_READY (R127). -/
def State.accShadow (s : State) (a k : Nat) (v : List Byte) : State :=
  (s.odSet (kArbShadow a k) (cleanImage (leNat v))).odSetBit (kArbCtrl a k) 29 true
/-- ARB_SHADOW (R126, R127); the entry of an absent accord does not exist (R143). -/
def execArbShadow (a : Fin 16) (k : Fin 26) (w : SeqWrite) (s : State) : Host.Outcome State Fault Refusal :=
  .next (if s.hasAccord a then s.seqApply (kArbShadow a k) w imageBytes fun t v => t.accShadow a k v else s.refuse 1)

/-- Chip arbiter `k` exists: those of absent stacks do not (R131). -/
def State.hasChipArb (s : State) (k : Nat) : Bool := if k < 64 then s.odBit kHeartPositions (k / 8) else decide (k < 82)
/-- The last byte of a shadow image of a chip arbiter sets SHADOW_READY (R127). -/
def State.chipShadow (s : State) (k : Nat) (v : List Byte) : State :=
  (s.odSet (kChipArbShadow k) (cleanImage (leNat v))).odSetBit (kChipArbCtrl k) 29 true
/-- CHIP_ARB_SHADOW (R126, R127); the entry of an absent arbiter does not exist (R143). -/
def execChipArbShadow (k : Fin 82) (w : SeqWrite) (s : State) : Host.Outcome State Fault Refusal :=
  .next (if s.hasChipArb k then s.seqApply (kChipArbShadow k) w imageBytes fun t v => t.chipShadow k v else s.refuse 1)

/-- The swap of one chip arbiter at SWAP_COUNT (R127): a ready image that is well formed becomes active. A malformed one is
dropped without SWAP_MISSED (DESIGN CHOICE, log entry 180); CHIP_SWAPS counts each arbiter whose image becomes active
(DESIGN CHOICE, log entry 182). -/
def State.swapChip (s : State) (k : Nat) : State :=
  if !s.hasChipArb k then s
  else if s.odBit (kChipArbCtrl k) 29 then
    let v := s.odGet (kChipArbShadow k)
    let s1 := s.odSetBit (kChipArbCtrl k) 29 false
    if imageOk true (chipInput k) v then (s1.odSet (kChipArbActive k) v).bump kChipSwaps 1 else s1
  else (s.bump kSwapMissed 1).event .top 4
/-- CHIP_IMAGE_SWAP (R127): G has reached SWAP_COUNT, which is then spent: it reads 0 (DESIGN CHOICE, log entry 181). -/
def execChipImageSwap (s : State) : Host.Outcome State Fault Refusal :=
  .next (whenLive s (if s.odGet kSwapCount ≠ 0 ∧ s.odGet kSwapCount ≤ s.g then
    (List.range 82).foldl State.swapChip (s.odSet kSwapCount 0) else s))

/-! ### Grants (R122 to R125, R128, R129) -/

/-- The owner of a slot index of an image. -/
def slotOwner (v idx : Nat) : Option Nat :=
  let e := bits v (8 * (80 + idx % 2 ^ min (v % 256) 12) + 7) (8 * (80 + idx % 2 ^ min (v % 256) 12))
  if bit e 7 then some (e % 64) else none
/-- The burst limit of an input. -/
def burstOf (v i : Nat) : Nat := bits v (8 * (16 + i) + 7) (8 * (16 + i)) + 1

/-- The decision of a cycle without an active grant (R122); with the slot index held only step 2 applies (R129). -/
def decide3 (v idx : Nat) (hold : Bool) (reqs : List Nat) : Option Nat :=
  match if hold then none else slotOwner v idx with
  | some o => if reqs.contains o then some o else reqs.max?
  | none => reqs.max?

/-- The grant in force in a cycle: the active one, or the decision; none while frozen. -/
def cycleGrant (v idx : Nat) (hold frozen : Bool) (old : Option Grant) (reqs : List Nat) : Option Grant :=
  match old with
  | some g => some { g with beats := g.beats + 1 }
  | none => if frozen then none else (decide3 v idx hold reqs).map fun i => ⟨i, 1⟩
/-- What remains of a grant after its cycle (R123); `next` is the slot index of the following cycle. -/
def grantAfter (v next : Nat) (hold : Bool) (reqs : List Nat) (g : Grant) : Option Grant :=
  let other := match if hold then none else slotOwner v next with
    | some o => o != g.input
    | none => false
  if !reqs.contains g.input || decide (burstOf v g.input ≤ g.beats) || other then none else some g

/-- The default of a map of grants. -/
def grantDefault : Nat → Option Grant := fun _ => none
/-- The control word after a cycle: FROZEN once no grant is active, the grant shown. -/
def arbCtrl (old : Nat) (now : Option Grant) : Nat :=
  let w := setBits old 6 0 (match now with
    | some g => 64 + g.input % 64
    | none => 0)
  setBits w 30 30 (b2n (bit old 31 && now.isNone))

/-- The scheduled inputs of an accord arbiter (Table 6-4). -/
def schedInput (k i : Nat) : Bool :=
  if k < 16 then decide (15 ≤ i ∧ i ≤ 24)
  else if k < 20 then decide (11 ≤ i ∧ i ≤ 15)
  else if k < 24 then i == 11
  else false

/-- What arbiter `k` of an accord serves: an access of 8 to 1,024 B within one line of its scratchpad bank (R119), an access to
its engine's tile store (R120), or anything on a lane. -/
def accServes (k : Nat) (r : ArbReq) : Bool :=
  if k < 16 then decide (8 ≤ r.bytes ∧ r.bytes ≤ 1024 ∧ r.addr / 1024 = (r.addr + r.bytes - 1) / 1024 ∧ r.addr / 1024 % 16 = k
    ∧ r.addr < spSize)
  else if k < 24 then decide (1 ≤ r.bytes ∧ tileAddr ((k - 16) % 4) 0 ≤ r.addr ∧ r.addr + r.bytes ≤ tileAddr ((k - 16) % 4) 0x200000)
  else true
/-- The inputs that request an accord arbiter in a cycle. -/
def accReqs (k : Nat) (reqs : List ArbReq) : List Nat :=
  ((reqs.filter (accServes k)).map fun r => r.input.val).filter (accInput k)

/-- One cycle of an accord arbiter. A scheduled request that is not granted in its cycle is a double booking (R124). -/
def State.accCycle (s : State) (a k cyc : Nat) (reqs : List ArbReq) : State :=
  let p := (s.partOf a).getD 0
  let idx := s.schedAt p cyc
  let hold := (s.guardAt p).lateFrozen || (s.guardAt p).tolFrozen
  let v := s.odGet (kArbActive a k)
  let live := accReqs k reqs
  let g := cycleGrant v idx hold (s.odBit (kArbCtrl a k) 31) (SMap.get grantDefault (s.accAt a).grants k) live
  let next := g.bind (grantAfter v (idx + 1) hold live)
  let s1 := (s.modAcc a fun A => { A with grants := SMap.set grantDefault A.grants k next }).odSet (kArbCtrl a k)
    (arbCtrl (s.odGet (kArbCtrl a k)) g)
  let denied := live.eraseDups.filter fun i => schedInput k i && some i != g.map Grant.input
  if denied ≠ [] then
    let s2 := (s1.bump kSchedDenied denied.length).event .top 1
    match s2.ctxOn a with
    | some c => s2.progFault c (unitId 6 a) 0 6 k
    | none => s2
  else s1
/-- The slot index of a chip arbiter in the UCLK cycle `φ = cyc % 2` of the present tick, and that of the next cycle: its UCLK
cycle count 2 G + φ (R125), or 2 G at half rate, where a tick has one UCLK cycle (R231). -/
def State.chipIndex (s : State) (cyc : Nat) : Nat × Nat :=
  if s.halved then (2 * s.g, 2 * s.g + 2) else (2 * s.g + cyc % 2, 2 * s.g + cyc % 2 + 1)
/-- One cycle of a chip arbiter. The unused input of a bridge arbiter never requests (R131). -/
def State.chipCycle (s : State) (k cyc : Nat) (reqs : List ArbReq) : State :=
  let v := s.odGet (kChipArbActive k)
  let i := s.chipIndex cyc
  let live := (reqs.map fun r => r.input.val).filter fun i => chipInput k i && !(decide (80 ≤ k) && i == 0)
  let g := cycleGrant v i.1 false (s.odBit (kChipArbCtrl k) 31) (SMap.get grantDefault s.chipGrants k) live
  { s with chipGrants := SMap.set grantDefault s.chipGrants k (g.bind (grantAfter v i.2 false live)) }.odSet
    (kChipArbCtrl k) (arbCtrl (s.odGet (kChipArbCtrl k)) g)

/-- What the slot-table memory of a chip arbiter reports (R121, log entry 197): an uncorrectable word is a control error that no
partition bounds. -/
def State.chipUpset (s : State) (k : Nat) (up : Upset) (f : State → State) : State :=
  match up with
  | .none => f s
  | .corrected _ n => f (s.bump kSpCeCount n)
  | .uncorrectable _ addr syn =>
    (s.event .top 0).fault
      { cls := 2, action := 3, level := 3, unit := if k < 64 then unitId 7 (4 * k) else if k < 80 then unitId 8 (k - 64) else unitId 10 (k - 80),
        part := none, ctx := none, instr := 0, syn := leBytes 4 addr ++ [syn] ++ leBytes 1 (memCode .slotImage), cause := 0,
        flags := 0, window := true }

/-- ARBITER_GRANT (R122 to R125): one cycle of an arbiter with what requests it, `up` being what its slot-table memory reports
(R121). The arbiters of an absent accord or stack are no units of the device, and nothing happens (R3, R131). -/
def execArbiterGrant (arb : ArbId) (cyc : Nat) (reqs : List ArbReq) (up : Upset) (s : State) : Host.Outcome State Fault Refusal :=
  .next (whenLive s (match arb with
    | .accord a k => if s.hasAccord a then s.underUpset a 0 (unitId 6 a) 0 up fun t => t.accCycle a k cyc reqs else s
    | .chip k => if s.hasChipArb k then s.chipUpset k up fun t => t.chipCycle k cyc reqs else s))

/-- Set or clear FREEZE of an arbiter. What software writes is its own: the device does not clear it (R128). The entry of an
absent arbiter does not exist (R143). -/
def arbFreezeSet (arb : ArbId) (v : Bool) (s : State) : Host.Outcome State Fault Refusal :=
  .next (match arb with
    | .accord a k =>
      if s.hasAccord a then (s.arbFreeze a k v).modAcc a fun A => { A with froze := A.froze.filter fun i => i != k.val } else s.refuse 1
    | .chip k => if s.hasChipArb k then s.odSet (kChipArbCtrl k) (freezeWord (s.odGet (kChipArbCtrl k)) v) else s.refuse 1)
/-- ARB_FREEZE (R128). -/
def execArbFreeze (arb : ArbId) (s : State) : Host.Outcome State Fault Refusal := arbFreezeSet arb true s
/-- ARB_UNFREEZE (R128). -/
def execArbUnfreeze (arb : ArbId) (s : State) : Host.Outcome State Fault Refusal := arbFreezeSet arb false s

end Sys2Proof.Machine
end

