-- ==== Sys2Proof/Machine/Flow.lean ====
section
/-!
DEFINITION. Flows and packets (R241 to R248): the flow table, step tags, sequence numbers, sending on a flow,
acknowledgements, malformed packets, delivery into a receive region, and the folds of flow digests (R271).
-/
namespace Sys2Proof.Machine

/-! ### The flow table (R243, Table 11-5) -/

/-- The entry of a flow: the cache's for a pinned one, else the table's. -/
def State.flowEnt (s : State) (f : Nat) : Nat :=
  match s.flowCache.find? fun e => e.1 == f with
  | some e => e.2
  | none => s.tierLE false (s.odGet kFlowBase + 16 * f) 16
/-- DST_CHIP. -/
def flowDst (e : Nat) : Nat := bits e 127 112
/-- CLASS. -/
def flowClass (e : Nat) : Nat := bits e 97 94
/-- SEND_CTX. -/
def flowSend (e : Nat) : Nat := bits e 93 86
/-- RECV_CTX. -/
def flowRecv (e : Nat) : Nat := bits e 85 78
/-- The receive region lies in the base window. -/
def flowBaseTier (e : Nat) : Bool := bits e 77 76 == 1
/-- RBASE. -/
def flowBase (e : Nat) : Nat := bits e 75 32
/-- The size of the receive region in bytes. -/
def flowSize (e : Nat) : Nat := (bits e 31 12 + 1) * 65536
/-- HOST_RING. -/
def flowRing (e : Nat) : Nat := bits e 11 6
/-- HOST. -/
def flowHost (e : Nat) : Bool := bit e 5
/-- RECV_EN. -/
def flowRecvEn (e : Nat) : Bool := bit e 4
/-- SEND_EN. -/
def flowSendEn (e : Nat) : Bool := bit e 3
/-- PIN. -/
def flowPin (e : Nat) : Bool := bit e 2
/-- EPCHK. -/
def flowEpchk (e : Nat) : Bool := bit e 1

/-- A flow has a digest companion (R271): a data flow with EPCHK. -/
def hasCompanion (f e : Nat) : Bool := !bit f 19 && flowEpchk e
/-- The number of a flow's digest companion (R271). -/
def companion (f : Nat) : Nat := f ^^^ 0x80000
/-- The flows that a binary pins: those that it names and their digest companions. -/
def flowsOf (b : Binary) : List Nat := b.flows.flatMap fun e => if hasCompanion e.1 e.2 then [e.1, companion e.1] else [e.1]

/-- The counters of flow `f`. -/
def State.flowAt (s : State) (f : Nat) : FlowCount := SMap.get flowDefault s.flows f
/-- Set the counters of flow `f`. -/
def State.setFlow (s : State) (f : Nat) (x : FlowCount) : State := { s with flows := SMap.set flowDefault s.flows f x }
/-- The step tag of a context (R244). -/
def State.stepTag (s : State) (c : Nat) : Nat := (s.ctxAt c).gen % 16 * 4096 + s.stepOf c % 4096
/-- A START of a context returns the send cursors and sequence counters of the flows it sends on to zero, and the
expectations of those it receives on (R246, R248). Flow 0 belongs to no context. -/
def State.startFlows (s : State) (c : Nat) : State :=
  (s.flows.filter fun e => e.1 != 0).foldl (fun t e =>
    let x := s.flowEnt e.1
    let y := if flowSend x = c then { e.2 with cursor := 0, seq := 0 } else e.2
    t.setFlow e.1 (if flowRecv x = c then { y with expect := 0 } else y)) s

/-! ### Flow digests (R271) -/

/-- The fields of SIL_CFG (Table 12-7). -/
def State.silTable (s : State) (c : Nat) : Nat := s.odBits (kSilCfg c) 63 0
/-- MAILBOX. -/
def State.mailbox (s : State) (c : Nat) : Nat := s.odBits (kSilCfg c) 127 64
/-- RUN_NONCE. -/
def State.runNonce (s : State) (c : Nat) : List Byte := leBytes 16 (s.odBits (kSilCfg c) 255 128)
/-- RUN_FLOW. -/
def State.runFlow (s : State) (c : Nat) : Nat := s.odBits (kSilCfg c) 287 256
/-- REP_FLOW. -/
def State.repFlow (s : State) (c : Nat) : Nat := s.odBits (kSilCfg c) 319 288
/-- The step key of a context's step (Table 12-1). -/
def State.ctxStepKey (s : State) (c : Nat) : Nat := stepKey (s.runNonce c) (s.stepOf c)

/-- Fold a payload into a flow's running digest. -/
def FlowFold.add (h : Nat) (x : FlowFold) (bs : List Byte) : FlowFold :=
  let all := x.pend ++ bs
  let n := all.length / 16
  let done_ := (x.bytes - x.pend.length) / 16
  { x with acc := x.acc ^^^ foldBlocks h (blocks (all.take (16 * n))) (gpow h (done_ + 2)), pend := all.drop (16 * n),
           bytes := x.bytes + bs.length, packets := x.packets + 1 }
/-- The digest of what a flow carried. -/
def FlowFold.digest (h : Nat) (x : FlowFold) : Nat :=
  x.acc ^^^ foldBlocks h (blocks x.pend) (gpow h ((x.bytes - x.pend.length) / 16 + 2)) ^^^ gmul (lenblock 0 (8 * x.bytes)) h
/-- The fold of a direction of a flow in a context's step. -/
def Ctx.flowFold (x : Ctx) (f : Nat) (send : Bool) : FlowFold :=
  (x.folds.find? fun y => y.flow == f && y.send == send).getD ⟨f, send, 0, [], 0, 0⟩
/-- Fold a payload of a flow with EPCHK into its context's step. -/
def State.foldFlow (s : State) (c f : Nat) (send : Bool) (bs : List Byte) : State :=
  let y := ((s.ctxAt c).flowFold f send).add (s.ctxStepKey c) bs
  s.modCtx c fun x => { x with folds := x.folds.filter (fun z => !(z.flow == f && z.send == send)) ++ [y] }
/-- The 28 significant bytes of a FLOW payload (Table 12-4). -/
def FlowFold.payload (h : Nat) (x : FlowFold) : List Byte := beBytes 16 (x.digest h) ++ leBytes 8 x.bytes ++ leBytes 4 x.packets

/-! ### Sending -/

/-- Send a packet on a flow: its class, step tag and sequence number come from the flow (R244, R246). -/
def State.sendFlow (s : State) (f opcode cls addr aux : Nat) (payload : List Byte) (last mcast : Bool) : State :=
  let e := s.flowEnt f
  let x := s.flowAt f
  let p : Packet :=
    { crc := 0, seq := BitVec.ofNat 32 x.seq, aux := BitVec.ofNat 32 aux, addr := addr,
      tier := if flowBaseTier e then 1 else 0, epoch := if flowEpchk e then s.stepTag (flowSend e) else 0,
      opcode := opcode, len := payload.length, cls := cls, fence := false, mcast := mcast, ackreq := false, last := last,
      rtag := 0, flow := f, dstQueue := 0, dstChip := flowDst e, srcChip := s.odGet kChipId, payload := payload,
      suspect := false }
  (s.setFlow f { x with seq := (x.seq + 1) % 2 ^ 32 }).send p

/-- A response to a packet (R245, Table 11-4): READ_RSP on virtual lane 7 with the request's flow, SEQ, RTAG and ADDR. -/
def State.respond (s : State) (p : Packet) (status detail : Nat) (data : List Byte) : State :=
  s.send { crc := 0, seq := p.seq, aux := BitVec.ofNat 32 (status + 256 * detail), addr := p.addr, tier := p.tier, epoch := 0,
           opcode := 3, len := data.length, cls := 7, fence := false, mcast := false, ackreq := false, last := false,
           rtag := p.rtag, flow := p.flow, dstQueue := 0, dstChip := p.srcChip, srcChip := s.odGet kChipId,
           payload := data, suspect := false }
/-- The acknowledgement of a packet, when it asks for one. -/
def State.ack (s : State) (p : Packet) (status detail : Nat) : State :=
  if p.ackreq then s.respond p status detail [] else s

/-! ### Malformed packets (R242, Table 11-3) -/

/-- The longest payload of an opcode. -/
def maxPayload (op : Nat) : Nat :=
  match op with
  | 2 | 5 => 0
  | 4 => 256
  | 6 => 256
  | 8 => 32
  | 9 => 16
  | 10 => 16
  | _ => 4096
/-- The opcodes that may be multicast. -/
def mcastOp (op : Nat) : Bool := op == 1 || op == 7 || op == 8 || op == 10
/-- A packet is malformed at its destination; a scheduled packet must come from a pinned scheduled flow. -/
def State.pktMalformed (s : State) (p : Packet) : Bool :=
  decide (p.opcode = 0 ∨ 11 ≤ p.opcode ∨ p.payload.length ≠ p.len ∨ maxPayload p.opcode < p.len ∨ 8 < p.cls)
    || (p.mcast && (!mcastOp p.opcode || p.ackreq))
    || (p.cls == 8 && (p.flow == 0 || !flowPin (s.flowEnt p.flow) || flowClass (s.flowEnt p.flow) != 8))
/-- Count a malformed packet. -/
def State.countMalformed (s : State) : State := (s.bump kMalformed 1).event .fabric 2
/-- Discard a malformed packet: counted, and acknowledged MALFORMED. -/
def State.dropMalformed (s : State) (p : Packet) : State := s.countMalformed.ack p 4 0
/-- The credits of a packet. -/
def creditsOf (len : Nat) : Nat := (32 + len + 63) / 64
/-- Return the credits of a packet that leaves the buffer of an input here (R253). -/
def State.freeInput (s : State) (input : Nat) (p : Packet) : State :=
  if input < 16 ∧ p.cls < 8 then s.modPort input fun y => { y with creditOut := y.creditOut ++ [(Fin.ofNat 8 p.cls, creditsOf p.payload.length)] }
  else s
/-- A packet is an in-band access of the dictionary. -/
def odPacket (p : Packet) : Bool := (p.opcode == 5 || p.opcode == 6) && !p.mcast
/-- The in-band accesses that wait, oldest first: the first 32 in their queue, the others at their ports (R373). -/
def State.odQueue (s : State) : List Packet := s.inbox.filter odPacket
/-- The packet that leaves its port's buffer when `p` is taken from the waiting accesses: `p` itself where it is none of the first
32, else the first that waits at a port. -/
def State.unheld (s : State) (p : Packet) : Option Packet :=
  if (s.odQueue.take 32).contains p then s.odQueue[32]? else if s.odQueue.contains p then some p else none
/-- A delivered packet's command has come. -/
def State.takeIn (s : State) (p : Packet) : State :=
  let t := { s with inbox := s.inbox.erase p }
  match s.unheld p with
  | some q => t.freeInput q.port q
  | none => t
/-- A packet with FENCE set may not be executed yet: an earlier one of its flow from the same source has not been (R245). -/
def State.fencedBy (s : State) (p : Packet) : Bool :=
  p.fence && (s.inbox.takeWhile fun q => q != p).any fun q => q.flow == p.flow && q.srcChip == p.srcChip
/-- The effect of a packet of opcode `op`; a malformed one is discarded, one of another opcode is another command's, and one that is
fenced off waits with those before it. -/
def onPacket (op : Nat) (p : Packet) (f : State → State) (s : State) : State :=
  if s.fencedBy p then (if s.inbox.contains p then s else { s with inbox := s.inbox ++ [p] })
  else
    let s := s.takeIn p
    if s.pktMalformed p then s.dropMalformed p else if p.opcode = op then f s else s

/-! ### Delivery (R240, R244, R247, R248) -/

/-- The syndrome of a fabric record (Table 13-4). -/
def fabricSyn (port flow seq words : Nat) : List Byte := leBytes 1 port ++ leBytes 4 flow ++ leBytes 4 seq ++ leBytes 4 words

/-- Mark the step of a context suspect, with its SDC_SUSPECT record (R240, R248). -/
def State.markSuspect (s : State) (c : Nat) (p : Packet) : State :=
  let x := s.ctxAt c
  let s1 := s.blotAdd (s.mkRec 4 0 0 0 (unitId 12 1) (if x.inStep then some c else none)
    (if x.inStep then some x.part else none) 0 0 (fabricSyn p.port p.flow p.seq.toNat p.words))
  if x.inStep then s1.modCtx c fun y => { y with suspect := true } else s1

/-- A suspect payload at its destination (R240). -/
def State.suspectIn (s : State) (c : Nat) (p : Packet) : State :=
  if p.suspect then (((s.bump kPayloadSuspect 1).event .fabric 1).markSuspect c p) else s
/-- The sequence check of a flow with EPCHK (R248). -/
def State.seqIn (s : State) (c : Nat) (p : Packet) : State :=
  let x := s.flowAt p.flow
  let s1 := s.setFlow p.flow { x with expect := (p.seq.toNat + 1) % 2 ^ 32 }
  if x.expect = p.seq.toNat then s1 else (((s1.bump kSeqGap 1).event .fabric 5).markSuspect c p)

/-- What a packet of a flow meets at its destination before anything else: no valid receive half, a step tag that is not the
current step's (discarded and counted), or a pass, with the sequence number checked (R243, R244, R248). -/
inductive Gate
  | noFlow
  | stale (s : State)
  | pass (s : State)
/-- The gate of a packet of a flow other than 0. -/
def State.flowGate (s : State) (p : Packet) : Gate :=
  let e := s.flowEnt p.flow
  let c := flowRecv e
  if !flowRecvEn e then .noFlow
  else if !flowEpchk e then .pass s
  else if (s.ctxAt c).inStep && s.stepTag c == p.epoch then .pass (s.seqIn c p)
  else .stale (s.bump kStaleDrop 1)

/-- The status of a payload that has been delivered: SUSPECT where the receiving context is not in a step (R240). -/
def suspectStatus (x : Ctx) (p : Packet) : Nat := b2n (p.suspect && !x.inStep)
/-- The outcome of a delivery: the state and the acknowledgement status; no status where nothing is acknowledged. -/
structure Delivery where
  st : State
  status : Option Nat
deriving DecidableEq, Repr

/-- Deliver the payload of a WRITE, TREE_REDUCE or DIGEST_XCH into its flow's receive region. -/
def State.landPacket (s : State) (p : Packet) (obs : List ReadObs) : Delivery :=
  let e := s.flowEnt p.flow
  let c := flowRecv e
  let x := s.ctxAt c
  match s.flowGate p with
  | .noFlow => ⟨s, some 3⟩
  | .stale t => ⟨t, none⟩
  | .pass t =>
    let s2 := t.suspectIn c p
    if flowSize e < p.addr + p.len then
      let s3 := (s2.bump kOutOfRegion 1).event .fabric 4
      ⟨if x.st = .running then s3.progFault c (unitId 14 x.part) 0 0xC p.flow else s3, some 2⟩
    else if p.len = 0 then ⟨s2, some (suspectStatus x p)⟩
    else match s2.window c (flowBaseTier e) (flowBase e + p.addr) p.len true with
      | none => ⟨s2.bump kOutOfRegion 1, some 2⟩
      | some a =>
        let (s3, ok) := s2.tierStore (flowBaseTier e) a p.payload ⟨some c, unitId 14 x.part, 0⟩ obs
        let s4 := if ok && flowEpchk e && (p.opcode == 1 || p.opcode == 7) then s3.foldFlow c p.flow false p.payload else s3
        ⟨s4, some (if ok then suspectStatus x p else 5)⟩

end Sys2Proof.Machine
end

