-- ==== Sys2Proof/Machine/Queues.lean ====
section
/-!
DEFINITION. Queues and completions (R196 to R198), provenance records (R291), the host's access to the tenant context
table (R194), and aborts (R212).
-/
namespace Sys2Proof.Machine

/-! ### Queue descriptors (R196, Table 9-3) -/

/-- A descriptor field. -/
def State.qBits (s : State) (q hi lo : Nat) : Nat := s.odBits (kQueueDesc q) hi lo
/-- The heart address of entry 0. -/
def State.qBase (s : State) (q : Nat) : Nat := 64 * s.qBits q 255 222
/-- The depth in entries. -/
def State.qDepth (s : State) (q : Nat) : Nat := 2 ^ s.qBits q 221 217
/-- CONTEXT. -/
def State.qCtx (s : State) (q : Nat) : Nat := s.qBits q 216 209
/-- ENABLE. -/
def State.qOn (s : State) (q : Nat) : Bool := s.odBit (kQueueDesc q) 208
/-- KIND: a completion queue. -/
def State.qIsCompletion (s : State) (q : Nat) : Bool := s.odBit (kQueueDesc q) 207
/-- CQ. -/
def State.qCq (s : State) (q : Nat) : Nat := s.qBits q 194 181
/-- HEAD. -/
def State.qHead (s : State) (q : Nat) : Nat := s.qBits q 63 32
/-- TAIL. -/
def State.qTail (s : State) (q : Nat) : Nat := s.qBits q 31 0
/-- Set HEAD. -/
def State.setQHead (s : State) (q v : Nat) : State := s.odSetBits (kQueueDesc q) 63 32 (v % 2 ^ 32)
/-- Set TAIL. -/
def State.setQTail (s : State) (q v : Nat) : State := s.odSetBits (kQueueDesc q) 31 0 (v % 2 ^ 32)
/-- The heart address of ring index `i`. -/
def State.qAddr (s : State) (q i : Nat) : Nat := s.qBase q + 64 * (i % s.qDepth q)
/-- Distance from `b` to `a` modulo 2^32. -/
def dist32 (a b : Nat) : Nat := (a % 2 ^ 32 + 2 ^ 32 - b % 2 ^ 32) % 2 ^ 32
/-- The command queues of a context in service, in increasing number (R201). -/
def State.cmdQueues (s : State) (c : Nat) : List Nat :=
  ((s.od.filter fun e => decide (0x5100 ≤ e.1 / 256 ∧ e.1 / 256 ≤ 0x513F)).map fun e => e.1 - 0x510000).filter fun q =>
    s.qOn q && !s.qIsCompletion q && s.qCtx q == c

/-- A refused TAIL write (R196). -/
def State.queueOverflow (s : State) : State := (s.bump kQueueOverflow 1).event .ctx 2

/-- QUEUE_TAIL_WRITE (R196): the producer of a command queue advances TAIL, unless the occupancy would exceed the depth. -/
def execQueueTailWrite (q : Fin 16384) (tail : W32) (s : State) : Host.Outcome State Fault Refusal :=
  .next (if s.qIsCompletion q then s.refuse 7
    else if s.qDepth q < dist32 tail.toNat (s.qHead q) then s.queueOverflow.refuse 7
    else s.setQTail q tail.toNat)
/-- QUEUE_HEAD_WRITE (R196): the consumer of a completion queue advances HEAD. -/
def execQueueHeadWrite (q : Fin 16384) (head : W32) (s : State) : Host.Outcome State Fault Refusal :=
  .next (if s.qIsCompletion q then s.setQHead q head.toNat else s.refuse 7)

/-! ### Completions (R198, Table 9-5) -/

/-- Write an entry at a completion queue's TAIL and advance it; the queue's vector is raised (R198, R260). -/
def State.cqPut (s : State) (cq : Nat) (bs : List Byte) : State :=
  let t := s.qTail cq
  let s1 := (s.devWrite false (s.qAddr cq t) bs).setQTail cq (t + 1)
  if s.odBit (kQueueDesc cq) 206 then s1.raiseVector (s.qBits cq 205 195) else s1
/-- A completion queue can take an entry: in service and not full. -/
def State.cqRoom (s : State) (cq : Nat) : Bool :=
  s.qOn cq && decide (dist32 (s.qTail cq) (s.qHead cq) < s.qDepth cq)
/-- Write a completion entry, or hold it back behind those that wait. -/
def State.cqPost (s : State) (cq : Nat) (bs : List Byte) : State :=
  if s.cqRoom cq ∧ !(s.heldCompl.any fun e => e.1 == cq) then s.cqPut cq bs
  else { s with heldCompl := s.heldCompl ++ [(cq, bs)] }
/-- Write the held entries of a queue while there is space. -/
def State.cqRelease (s : State) (cq : Nat) : List (Nat × List Byte) → State
  | [] => s
  | e :: r =>
    if e.1 == cq && s.cqRoom cq then
      ({ s with heldCompl := s.heldCompl.erase e }.cqPut cq e.2).cqRelease cq r
    else s.cqRelease cq r
/-- COMPLETION_RELEASE (R198): space appears in a completion queue. -/
def execCompletionRelease (q : Fin 16384) (s : State) : Host.Outcome State Fault Refusal :=
  .next (whenLive s (s.cqRelease q s.heldCompl))

/-- A binary holds an operation that its marks place in a class (R95): what the records of a command show (Tables 9-5, 12-6). -/
def binHas (b : Binary) (k : OpClass) : Bool := b.oplist.any fun e => e.2.any fun o => o.cls == k
/-- The context's binary holds an operation of a class. -/
def Ctx.has (x : Ctx) (k : OpClass) : Bool :=
  match x.prog with
  | some b => binHas b k
  | none => false

/-- A command as it completes: the update number and the tincture epoch after it are those of its own update when that is
confirmed, else the tenant's committed ones (Tables 9-5 and 12-6). -/
def State.closeCmd (s : State) (m : OpenCmd) (status : Nat) : OpenCmd :=
  if m.op = 1 ∧ m.committed ∧ status ≤ 1 then { m with updateT := m.updateT - b2n m.skipped }
  else { m with updateT := s.tct m.entry 48 4, after := beNat (s.tierBytes true (s.tctAddr m.entry + 64) 16) }

/-- The completion entry of a command (Table 9-5). -/
def State.completionEntry (s : State) (c : Nat) (m : OpenCmd) (status : Nat) : List Byte :=
  leBytes 1 status ++ leBytes 1 m.op ++ leBytes 2 m.queue ++ leBytes 4 m.seq ++ leBytes 8 s.g ++ leBytes 6 (s.stepOf c)
    ++ leBytes 1 c ++ leBytes 1 (b2n m.fallback + 2 * b2n m.notExact + 4 * b2n ((s.ctxAt c).has .v))
    ++ leBytes 4 m.tenant ++ leBytes 4 m.updateT ++ beBytes 16 m.base ++ beBytes 16 m.after

/-! ### Provenance (R291, Table 12-6) -/

/-- The sequence-list entry `j` of a command, 16 bytes; DATA is an offset in the heart window. -/
def State.seqListEntry (s : State) (c : Nat) (m : OpenCmd) (j : Nat) : List Byte :=
  match s.window c false (m.data + 16 * j) 16 false with
  | some a => s.tierBytes false a 16
  | none => List.replicate 16 0
/-- The token bytes of a sequence (log entry 31). -/
def State.tokenBytesOf (s : State) (c : Nat) (l : List Byte) : List Byte :=
  let n := leNat ((l.drop 8).take 4) * Config.tokenSize
  match s.window c false (leNat (l.take 8)) n false with
  | some a => s.tierBytes false a n
  | none => []
/-- What INPUT hashes. -/
def State.inputBytes (s : State) (c : Nat) (m : OpenCmd) : List Byte :=
  (List.range m.nseq).flatMap fun j => let l := s.seqListEntry c m j; l ++ s.tokenBytesOf c l
/-- What OUTPUT hashes: the bytes of the command's OUTPUT region. -/
def State.outputBytes (s : State) (c : Nat) (r : Bool × Nat × Nat × Nat) : List Byte :=
  let x := s.ctxAt c
  s.tierBytes r.1 ((if r.1 then x.baseBase else x.heartBase) + r.2.1) r.2.2.1

/-- The 32-byte digests of a context's binary. -/
def Ctx.digests (x : Ctx) : List Byte :=
  match x.prog with
  | some b => leBytes 32 b.imageDigest ++ leBytes 32 b.oplistDigest ++ leBytes 32 b.classmarksDigest
  | none => List.replicate 96 0

/-- FLAGS of a provenance record. -/
def State.provFlags (s : State) (c : Nat) (m : OpenCmd) (sampled : Bool) : Nat :=
  let x := s.ctxAt c
  b2n (x.has .v) + 2 * b2n (x.has .g) + 4 * b2n m.notExact + 8 * b2n m.fallback + 16 * b2n m.skipped
    + 32 * b2n m.replayed + 64 * b2n m.suspect + 128 * b2n sampled
/-- The provenance record of a command (Table 12-6). -/
def State.provRecord (s : State) (c : Nat) (m : OpenCmd) (seq : Nat) (sampled : Bool) : List Byte :=
  let x := s.ctxAt c
  leBytes 2 1 ++ leBytes 1 1 ++ leBytes 1 m.op ++ leBytes 4 (s.provFlags c m sampled) ++ leBytes 4 seq ++ leBytes 4 m.seq
    ++ leBytes 8 s.g ++ leBytes 4 m.tenant ++ leBytes 4 m.updateT ++ leBytes 8 m.firstStep
    ++ leBytes 8 m.lastStep ++ leBytes 8 x.switchStep ++ leBytes 2 (s.odGet kChipId) ++ leBytes 2 m.queue ++ leBytes 1 c
    ++ leBytes 1 m.live ++ leBytes 1 m.agreed
    ++ leBytes 1 (min 255 (((x.rollbacks.find? fun e => e.1 == m.entry).map Prod.snd).getD 0))
    ++ x.digests ++ beBytes 16 m.base ++ beBytes 16 m.before ++ beBytes 16 m.after
    ++ (match m.result with
        | some r => beBytes 16 r.2.2.2
        | none => List.replicate 16 0)
    ++ sha3 (s.inputBytes c m)
    ++ (match m.result with
        | some r => sha3 (s.outputBytes c r)
        | none => List.replicate 32 0)
    ++ x.auditPrev

/-- Write the provenance record of a command: at its OUT offset, into the ring, and into the audit chain (R291, R292). -/
def State.provenance (s : State) (c : Nat) (m : OpenCmd) (sampled : Bool) : State :=
  let seq := nextSeq (s.odGet kProvHead)
  let r := s.provRecord c m seq sampled
  let s1 := match s.window c false m.out r.length true with
    | some a => s.devWrite false a r
    | none => s
  let s2 := (s1.ringPut 0x100000 320 4096 seq r).2
  let d := sha3 r
  ((s2.odSet kProvHead seq).odSet kAuditChain (leNat d)).modCtx c fun x => { x with auditPrev := d }

/-- Complete a command: its provenance record, then its completion entry. -/
def State.complete (s : State) (c : Nat) (m : OpenCmd) (status : Nat) (sampled : Bool) : State :=
  let m' := s.closeCmd m status
  let s1 := s.provenance c m' sampled
  s1.cqPost (s1.qCq m.queue) (s1.completionEntry c m' status)

/-! ### The tenant context table (R194) -/

/-- A write changes a field of an entry other than HELD. -/
def changesMore (old new : List Byte) : Bool :=
  decide (clearBit (leNat (old.take 124)) 30 ≠ clearBit (leNat (new.take 124)) 30)
/-- The entry bytes without their reserved fields (Table 9-2, R10): IDENT bits 29 to 24 and the bytes at offsets 94, 100
and 112. -/
def tctClean (data : List Byte) : List Byte :=
  (data.take 3 ++ [data.getD 3 0 &&& 0xC0] ++ (data.drop 4).take 90 ++ [0, 0] ++ (data.drop 96).take 4 ++ [0, 0, 0, 0]
    ++ (data.drop 104).take 8 ++ List.replicate 12 0)
/-- TCT_DATA (R194, R10). -/
def execTctData (written : List Byte) (s : State) : Host.Outcome State Fault Refusal :=
  let e := s.odGet kTctSelect
  let data := tctClean written
  .next (if written.length ≠ 128 then s.refuse 3
    else if 2 ^ 20 ≤ e then (s.odSet kTctStatus 3).refuse 7
    else if s.tctBound e ∧ changesMore (s.tctBytes e) data then (s.odSet kTctStatus 1).refuse 7
    else (s.tctPut e 0 data).odSet kTctStatus 0)
/-- A read of TCT_DATA (R194): the entry's bytes, and status 2 when CHECK does not hold. -/
def execTctDataRead (s : State) : Host.Outcome State Fault Refusal :=
  let e := s.odGet kTctSelect
  .next (if 2 ^ 20 ≤ e then s.odSet kTctStatus 3
    else { s with mgmt := { s.mgmt with answer := (0, s.tctBytes e) } }.odSet kTctStatus (if s.tctOk e then 0 else 2))

/-! ### Aborts (R212) -/

/-- Write the decision of an abort: 1 TOO_LATE, 2 ABORTED, 3 BUSY. -/
def State.abortDecide (s : State) (q seq status : Nat) : State :=
  (s.odSet kAbortResult (seq * 2 ^ 32 + q * 2 ^ 16 + status)).odSet kAbortSeq (nextSeq (s.odGet kAbortSeq))
/-- ABORT_REQ (R212): decided in the cycle that takes it. -/
def execAbortReq (value : W64) (s : State) : Host.Outcome State Fault Refusal :=
  let v := value.toNat
  let c := bits v 63 56
  let q := bits v 45 32
  let seq := bits v 31 0
  let mine := fun (m : OpenCmd) => m.queue == q && m.seq == seq
  .next (whenLive s (
    if (s.ctxAt c).cmds.any mine then
      (s.modCtx c fun x => { x with cmds := x.cmds.map fun m => if mine m then { m with aborted := true } else m }).abortDecide
        q seq 2
    else if dist32 seq (s.qHead q) < 2 ^ 31 then
      (if s.marks.contains (c, q, seq) then s.abortDecide q seq 2
       else if 64 ≤ s.marks.length then s.abortDecide q seq 3
       else { s with marks := s.marks ++ [(c, q, seq)] }.abortDecide q seq 2)
    else s.abortDecide q seq 1))

end Sys2Proof.Machine
end

