-- ==== Sys2Proof/Machine/Batch.lean ====
section
/-!
DEFINITION. The running batch (R195, R197, R199 to R202, R229, R281, R326): reading command entries, placing tenant
micro-batches, binding tenants, and writing the running-batch descriptor, the state entries and the manager's regions.
-/
namespace Sys2Proof.Machine

/-! ### Small helpers -/

/-- Write zeros over a range of a tier. -/
def State.devZero (s : State) (base : Bool) (a n : Nat) : State :=
  let s1 := (s.touch base a n).cancelBack base a n
  if base then { s1 with base := s1.base.clearRange a n } else { s1 with heart := s1.heart.clearRange a n }
/-- INTERVAL of a context's replica configuration; 0 is the default 4 (R282). -/
def State.interval (s : State) (c : Nat) : Nat :=
  let k := s.odBits (kRepCfg c) 23 16
  if k = 0 then 4 else k
/-- The SWITCH_WEIGHTS mark of a context (R228). -/
def State.switchMark (s : State) (c : Nat) : Bool := s.odBit (kEpochStatus c) 31
/-- A marked context still holds work of the old epoch: nothing new is admitted (R229, R326). -/
def State.drains (s : State) (c : Nat) : Bool := s.switchMark c && !(s.ctxAt c).switchOk

/-- The rows used in a mixed micro-batch. -/
def rowsUsed (l : List SeqEntry) (m : Nat) : Nat := ((l.filter fun e => e.mmb == m).map SeqEntry.nrows).sum
/-- The tenant micro-batches in a mixed micro-batch. -/
def segsUsed (l : List SeqEntry) (m : Nat) : Nat :=
  ((l.filter fun e => e.mmb == m).map fun (e : SeqEntry) => (e.queue, e.cmdSeq, e.leaf)).eraseDups.length
/-- A mixed micro-batch has room for `r` rows in a further segment. -/
def State.hasRoom (s : State) (c : Nat) (l : List SeqEntry) (r m : Nat) : Bool :=
  decide (rowsUsed l m + r ≤ s.rows c ∧ segsUsed l m < s.segs c)
/-- The lowest mixed micro-batch with room (R202). -/
def State.findRoom (s : State) (c : Nat) (l : List SeqEntry) (r : Nat) : Option Nat :=
  lowest (s.nmb c) (s.hasRoom c l r)

/-! ### Carrying over (R201 steps 1 and 2) -/

/-- Place decoding sequences after those of a batch: each takes one row, keeps its mixed micro-batch when that has room, and takes
the lowest with room otherwise. The sequences placed, and those that find no room. -/
def State.carry (s : State) (c : Nat) : List SeqEntry → List SeqEntry → List SeqEntry × List SeqEntry
  | [], acc => (acc, [])
  | e :: r, acc =>
    match (if s.hasRoom c acc 1 e.mmb then some e.mmb else s.findRoom c acc 1) with
    | some m =>
      if 1024 ≤ acc.length then (let q := s.carry c r acc; (q.1, e :: q.2))
      else s.carry c r (acc ++ [{ e with mmb := m, row0 := rowsUsed acc m, nrows := 1, first := false }])
    | none => let q := s.carry c r acc; (q.1, e :: q.2)
/-- A sequence whose rows have been computed: its next row continues it. -/
def SeqEntry.ran (e : SeqEntry) : SeqEntry := { e with tokpos := e.tokpos + e.nrows, nrows := 0 }
/-- The rows of a batch without gaps: each segment at the lowest free row of its mixed micro-batch (R200, R202). -/
def repack (l : List SeqEntry) : List SeqEntry := l.foldl (fun acc e => acc ++ [{ e with row0 := rowsUsed acc e.mmb }]) []

/-- The saved monitor states of a tenant (R188): entries whose TENANT names it, in increasing number. -/
def State.tenantMons (s : State) (e : Nat) : List Nat :=
  ((s.monitors.filter fun m => bits m.2 39 16 == s.tctId e && bits m.2 39 16 != 0xFFFFFF).map Prod.fst).take (s.tct e 88 2)
/-- Save a leaving tenant's monitor states at NOSE_BASE. -/
def State.noseSave (s : State) (e : Nat) : State :=
  (s.tenantMons e).zipIdx.foldl (fun t m =>
    t.devWrite true (s.tct e 80 8 + 128 * m.2) (leBytes 128 (t.odGet (kMonState m.1)))) s
/-- Restore a returning tenant's monitor states. -/
def State.noseRestore (s : State) (e : Nat) : State :=
  (s.tenantMons e).zipIdx.foldl (fun t m => t.odSet (kMonState m.1) (t.tierLE true (s.tct e 80 8 + 128 * m.2) 128)) s

/-- Unbind a tenant from a context: its Nose states are saved and its slot becomes free. -/
def State.unbind (s : State) (c e : Nat) : State :=
  ((s.noseSave e).modCtx c fun x => { x with slots := x.slots.filter fun q => q.entry != e }).odSet kCachePinned
    (s.odGet kCachePinned - 1)
/-- The tenants of a context that no command in flight keeps are unbound (R201 step 1): one whose update has committed and is not yet
confirmed stays, for it may be rolled back (R286). -/
def State.unbindIdle (s : State) (c : Nat) : State :=
  (s.ctxAt c).slots.foldl (fun t q =>
    if (t.ctxAt c).cmds.any fun m => m.entry == q.entry then t else t.unbind c q.entry) s

/-! ### Reading a command (R197) -/

/-- The images of a tenant under R280 lie in the context's base window, and its tree area in the heart window (R193). -/
def State.imagesInWindow (s : State) (c e : Nat) : Bool :=
  let x := s.ctxAt c
  let n := s.tct e 24 4 * 65536
  let h := s.tct e 6 1
  let t := s.tct e 16 8
  let b := s.tct e 32 8
  let tr := s.tct e 40 8
  decide (x.baseBase ≤ t ∧ t + n ≤ x.baseBase + x.baseSize)
    && (h == 0 || decide (x.baseBase ≤ b ∧ b + h * n ≤ x.baseBase + x.baseSize))
    && decide (x.heartBase ≤ tr ∧ tr < x.heartBase + x.heartSize)
/-- How far behind HIST_POS an image of a tenant lies, in updates (R280). -/
def State.imageAge (s : State) (e k : Nat) : Nat := (s.tct e 7 1 + s.tct e 6 1 + 1 - k) % (s.tct e 6 1 + 1)
/-- The committed updates of a tenant that count as unconfirmed, in whichever context (R281): those not yet confirmed, and all from
the update of an image that is kept for a cross-check or copied into a checkpoint on, as if that image were unconfirmed (R289, R311). -/
def State.unconfirmedOf (s : State) (e : Nat) : Nat :=
  s.ctx.foldl (fun n q =>
    let x := q.2
    let held := (x.keep.filter fun k => k.1 == e).map (Prod.snd) ++ (x.ckpt.filter fun k => k.1 == e && k.2.1 == 0).map fun k => k.2.2
    (held.map fun k => s.imageAge e k + 1).foldl max (max n (x.unconf.filter fun u => u.entry == e).length)) 0

/-- The command of the entry bytes at a queue's HEAD. -/
def State.parseCmd (s : State) (c q : Nat) (bs : List Byte) : OpenCmd :=
  let e := field bs 4 4 % 2 ^ 20
  let dg := beNat (s.tierBytes true (s.tctAddr e + 64) 16)
  { queue := q, seq := s.qHead q, op := field bs 0 1, entry := e, tenant := s.tctId e, tokens := 0, result := none, live := 1,
    agreed := 1, seq0 := field bs 8 4, nseq := field bs 12 4, data := field bs 16 8, out := field bs 24 8,
    deadline := field bs 32 8, maxNew := field bs 44 2, placed := 0,
    total := if field bs 0 1 = 1 then s.tct e 28 2 else 1, produced := 0, firstStep := 0, notExact := false,
    fallback := (s.ctxAt c).fallback, suspect := false, replayed := false, skipped := false, aborted := false, cut := false,
    committed := false, updateT := s.tct e 48 4, lastStep := 0, before := dg, after := dg, base := 0 }
/-- The form of a command entry is wrong (R197): its CMD_SEQ, OP or a reserved field. -/
def State.badForm (s : State) (q : Nat) (bs : List Byte) : Bool :=
  decide (field bs 40 4 ≠ s.qHead q ∨ 2 < field bs 0 1 ∨ field bs 1 3 ≠ 0 ∨ 2 ^ 20 ≤ field bs 4 4 ∨ field bs 46 18 ≠ 0)
/-- NSEQ is wrong for the operation (R197). -/
def State.badNseq (s : State) (m : OpenCmd) : Bool :=
  if m.op = 1 then decide (m.nseq ≠ s.tct m.entry 28 2 * s.tct m.entry 30 2) else decide (m.nseq ≠ 1)
/-- Rows of sequence `j` of a command. -/
def State.seqRows (s : State) (c : Nat) (m : OpenCmd) (j : Nat) : Nat := field (s.seqListEntry c m j) 8 4
/-- The sequences per tenant micro-batch. -/
def State.perMb (s : State) (m : OpenCmd) : Nat := if m.op = 1 then s.tct m.entry 30 2 else 1
/-- A sequence is longer than ROWS (R202). -/
def State.tooLong (s : State) (c : Nat) (m : OpenCmd) : Bool :=
  (List.range m.nseq).any fun j => decide (s.rows c < s.seqRows c m j)

/-- What a queue's next command comes to: it completes at once with a status, its queue stops, or it can be placed. -/
inductive Take
  | done (status : Nat) (event : Option Nat)
  | stop
  | full
  | place (m : OpenCmd)
deriving DecidableEq, Repr

/-- A tenant can take part in a context's batch (R195, R202): it is bound there, or can be bound. -/
def State.bindable (s : State) (c e : Nat) (m : OpenCmd) : Take :=
  let x := s.ctxAt c
  if x.slots.any fun y => y.entry == e then .place m
  else if 256 ≤ x.slots.length ∨ (s.boundIn e).any (fun d => d != c) then .stop
  else if 16384 ≤ s.odGet kCachePinned then .full
  else .place m
/-- Decide a queue's next command (R193, R195, R197, R202, R212, R229, R281, R326). -/
def State.decideCmd (s : State) (c q : Nat) (bs : List Byte) : Take :=
  let m := s.parseCmd c q bs
  let x := s.ctxAt c
  let e := m.entry
  if s.marks.contains (c, q, m.seq) then .done 2 none
  else if s.badForm q bs then .done 4 (some 3)
  else if m.op = 0 then .done 0 none
  else if !s.cache.contains e ∧ !s.tctOk e then .done 6 (some 4)
  else if !s.tctValid e then .done 6 none
  else if s.badNseq m then .done 4 (some 3)
  else if (s.boundIn e).any fun d => d != c then .done 7 none
  else if s.tct e 6 1 ≠ s.interval c ∨ !s.imagesInWindow c e then .done 6 none
  else if s.tooLong c m then .done 5 none
  else if s.tctHeld e ∨ s.drains c ∨ x.cmds.any (fun o => o.entry == e && o.placed == 0 && !o.committed) then .stop
  else if m.op = 1 ∧ (x.cmds.any (fun o => o.entry == e && o.op == 1 && !o.committed)
      || decide (s.tct e 6 1 ≤ s.unconfirmedOf e)) then .stop
  else s.bindable c e m

/-! ### Placing (R202) -/

/-- The sequence entries of micro-batch `k` of a command from row `row0` of mixed micro-batch `mm`; only a TRAIN_UPDATE has a last
tenant micro-batch (Table 9-7). -/
def State.mbEntries (s : State) (c : Nat) (m : OpenCmd) (slot mm k : Nat) : List Nat → Nat → List SeqEntry
  | [], _ => []
  | j :: r, row0 =>
    let n := s.seqRows c m j
    { slot := slot, mmb := mm, seqnum := m.seq0 + j, row0 := row0, nrows := n, tokpos := 0, leaf := k,
      data := field (s.seqListEntry c m j) 0 8, first := true, last := m.op == 1 && k + 1 == m.total, queue := m.queue,
      cmdSeq := m.seq, evalSeq := decide (m.op = 2) } :: s.mbEntries c m slot mm k r (row0 + n)

/-- The cache with a tenant's entry in it: a full cache gives up its oldest entry that is not pinned (R195). -/
def State.cacheIn (s : State) (e : Nat) : List Nat :=
  if s.cache.contains e then s.cache
  else if s.cache.length < 16384 then s.cache ++ [e]
  else (match s.cache.find? fun d => !s.tctBound d with
    | some d => s.cache.erase d
    | none => s.cache) ++ [e]
/-- Bind a tenant to a context: the lowest free slot, a cache entry, its Nose states (R195, R199). -/
def State.bind (s : State) (c e : Nat) : State :=
  let x := s.ctxAt c
  if x.slots.any fun q => q.entry == e then s
  else
    let slot := (lowest 256 fun i => !(x.slots.any fun q => q.slot == i)).getD 255
    let s1 := (s.modCtx c fun y => { y with slots := y.slots ++ [⟨slot, e⟩] }).odSet kCachePinned (s.odGet kCachePinned + 1)
    { s1 with cache := s1.cacheIn e }.noseRestore e
/-- The slot of a bound tenant. -/
def State.slotOf (s : State) (c e : Nat) : Nat :=
  (((s.ctxAt c).slots.find? fun q => q.entry == e).map SlotEntry.slot).getD 0

/-- Place the next micro-batch of a command, if it fits; `isNew` takes the command from its queue. -/
def State.placeMb (s : State) (c : Nat) (m : OpenCmd) (isNew : Bool) : Option State :=
  let x := s.ctxAt c
  let spm := s.perMb m
  let js := (List.range spm).map (· + m.placed * spm)
  let r := (js.map (s.seqRows c m)).sum
  match s.findRoom c x.seqs r with
  | none => none
  | some mm =>
    if 1024 < x.seqs.length + spm then none
    else
      let s1 := s.bind c m.entry
      let es := s1.mbEntries c m (s1.slotOf c m.entry) mm m.placed js (rowsUsed x.seqs mm)
      let m' := { m with placed := m.placed + 1, tokens := m.tokens + r }
      let s2 := s1.modCtx c fun y => { y with
        seqs := y.seqs ++ es,
        cmds := if isNew then y.cmds ++ [m'] else y.cmds.map fun o => if o.queue = m.queue ∧ o.seq = m.seq then m' else o }
      let s3 := if m.op = 1 then
          (s2.tctSet m.entry 92 2 m.queue).tctSet m.entry 96 4 m.seq
        else s2
      some (if isNew then s3.setQHead m.queue (m.seq + 1) else s3)

/-- The tail that a build sees of a queue: that of the DRYDOWN (R201). -/
def State.seenTail (s : State) (c q : Nat) : Nat :=
  match (s.ctxAt c).tails.find? fun e => e.1 == q with
  | some e => e.2
  | none => if (s.ctxAt c).started then s.qHead q else s.qTail q

/-- Admission waits for a cache entry (R195). -/
def State.cacheFull (s : State) : State := (s.bump kCacheFull 1).event .ctx 1
/-- Take commands from a queue until one can be placed or the queue stops: the state, and whether a micro-batch was
placed. A command whose completion is decided without admission is passed. -/
def State.takeQueue (s : State) (c q : Nat) : Nat → State × Bool
  | 0 => (s, false)
  | fuel + 1 =>
    if dist32 (s.seenTail c q) (s.qHead q) = 0 ∨ 2 ^ 31 ≤ dist32 (s.seenTail c q) (s.qHead q) then (s, false)
    else
      let bs := s.tierBytes false (s.qAddr q (s.qHead q)) 64
      let m := s.parseCmd c q bs
      match s.decideCmd c q bs with
      | .done st ev =>
        let (b, s0) := s.drawNat
        let s1 := match ev with
          | some n => s0.event .ctx n
          | none => s0
        let s2 := { s1 with marks := s1.marks.erase (c, q, m.seq) }.setQHead q (m.seq + 1)
        (s2.complete c { m with base := b % 2 ^ 128 } st false).takeQueue c q fuel
      | .stop => (s, false)
      | .full => (s.cacheFull, false)
      | .place m =>
        match s.placeMb c m true with
        | some t => (t, true)
        | none => (s, false)

/-- A command of a rolled-back tenant waits (R202, R281, R286): an earlier update of the tenant has not committed, or
HIST_DEPTH committed updates are unconfirmed. It has begun, so that a set mark does not hold it back: it runs to its commit (R229,
R326, log entry 200). -/
def State.waitsAgain (s : State) (c : Nat) (m : OpenCmd) : Bool :=
  let x := s.ctxAt c
  m.placed == 0 && (((x.cmds.takeWhile fun o => o != m).any fun o => o.entry == m.entry && o.op == 1 && !o.committed)
    || (m.op == 1 && decide (s.tct m.entry 6 1 ≤ s.unconfirmedOf m.entry)))

/-- One turn of a queue: its oldest command that still has unplaced micro-batches, else its next command (R202). -/
def State.turn (s : State) (c q : Nat) : State × Bool :=
  let x := s.ctxAt c
  match x.cmds.find? fun m => m.queue == q && decide (m.placed < m.total) && !m.aborted && !m.cut && !m.committed with
  | some m =>
    if s.tctHeld m.entry ∨ s.waitsAgain c m then (s, false)
    else match s.bindable c m.entry m with
      | .full => (s.cacheFull, false)
      | .place _ =>
        (match s.placeMb c m false with
         | some t => (t, true)
         | none => (s, false))
      | _ => (s, false)
  | none => s.takeQueue c q 65537

/-- One round over the queues that have not stopped. -/
def State.round (s : State) (c : Nat) : List Nat → State × List Nat
  | [] => (s, [])
  | q :: r =>
    let (s1, ok) := s.turn c q
    let (s2, live) := s1.round c r
    (s2, if ok then q :: live else live)
/-- Rounds until no queue places a micro-batch (R201 step 3). -/
def State.rounds (s : State) (c : Nat) : Nat → List Nat → State
  | 0, _ => s
  | _, [] => s
  | fuel + 1, qs =>
    let (s1, live) := s.round c qs
    s1.rounds c fuel live
/-- Step 3 of R201. -/
def State.fillBatch (s : State) (c : Nat) : State := s.rounds c 1025 (s.cmdQueues c)

/-! ### The descriptor (R199, Tables 9-6 and 9-7) -/

/-- The 16 bytes of a slot entry. -/
def State.slotBytes (s : State) (q : SlotEntry) : List Byte :=
  leBytes 4 (2 ^ 31 + q.entry) ++ leBytes 4 (s.tctId q.entry) ++ leBytes 8 (s.tct q.entry 8 8)
/-- The 32 bytes of a sequence entry. -/
def seqBytes (e : SeqEntry) : List Byte :=
  leBytes 1 e.slot ++ leBytes 1 (1 + 2 * b2n e.first + 4 * b2n e.last) ++ leBytes 2 e.mmb ++ leBytes 4 e.seqnum
    ++ leBytes 4 e.row0 ++ leBytes 4 e.nrows ++ leBytes 4 e.tokpos ++ leBytes 2 e.leaf ++ leBytes 2 0 ++ leBytes 8 e.data

/-- The physical address of image `k` of a tenant (R280). -/
def State.imageAddr (s : State) (e k : Nat) : Nat :=
  if k = 0 then s.tct e 16 8 else s.tct e 32 8 + (k - 1) * (s.tct e 24 4 * 65536)
/-- The image that an update writes. -/
def State.nextImage (s : State) (e : Nat) : Nat := (s.tct e 7 1 + 1) % (s.tct e 6 1 + 1)
/-- The state entry of a tenant slot (R280). -/
def State.stateEntry (s : State) (c e : Nat) : List Byte :=
  let x := s.ctxAt c
  leBytes 8 (s.imageAddr e (s.tct e 7 1) - x.baseBase) ++ leBytes 8 (s.imageAddr e (s.nextImage e) - x.baseBase)
    ++ leBytes 4 (s.tct e 48 4) ++ leBytes 8 (s.tct e 40 8 - x.heartBase) ++ leBytes 4 0
/-- The region entry of the state image that a tenant's update writes in the step (R267, R270). -/
def State.imageRegion (s : State) (c e : Nat) : List Byte :=
  let x := s.ctxAt c
  leBytes 32 (2 ^ 254 + (s.imageAddr e (s.nextImage e) - x.baseBase) * 2 ^ 210
    + (s.tct e 24 4 * 1024 - 1) % 2 ^ 34 * 2 ^ 176 + Config.imageTensorId % 2 ^ 24 * 2 ^ 152 + s.tctId e * 2 ^ 128
    + (s.tct e 48 4 + 1) * 2 ^ 64 + Config.imageTileBytes % 2 ^ 32 * 2 ^ 32 + 2 ^ 30)

/-- Write the running-batch descriptor of step `n`, the state entries and the manager's regions; the header last. -/
def State.writeBatch (s : State) (c n : Nat) : State :=
  let x := s.ctxAt c
  if x.heartSize < s.rbBase c + 0x22000 then s
  else
    let rb := x.heartBase + s.rbBase c
    let a := rb + n % 2 * 0x10000
    let s1 := x.slots.foldl (fun t q => t.devWrite false (a + 0x40 + 16 * q.slot) (t.slotBytes q)) (s.devZero false (a + 0x40) 0x1000)
    let s2 := x.seqs.zipIdx.foldl (fun t e => t.devWrite false (a + 0x1040 + 32 * e.2) (seqBytes e.1)) (s1.devZero false (a + 0x1040) 0x8000)
    let s3 := x.slots.foldl (fun t q => t.devWrite false (rb + 0x20000 + 32 * q.slot) (t.stateEntry c q.entry)) (s2.devZero false (rb + 0x20000) 0x2000)
    let tb := x.heartBase + s.silTable c + 32 * 512
    let fin := x.slots.filter fun q => x.seqs.any fun e => e.slot == q.slot && e.last && !e.evalSeq
    let s4 := if x.heartSize < s.silTable c + 0x8000 then s3
      else fin.foldl (fun t q => t.devWrite false (tb + 32 * q.slot) (t.imageRegion c q.entry)) (s3.devZero false tb 0x4000)
    s4.devWrite false a (Config.batchHeader n x.seqs.length x.slots.length)

/-- The whole build of the descriptor of the next step (R201 steps 3 and 4). -/
def State.build (s : State) (c : Nat) : State :=
  let s1 := s.fillBatch c
  (s1.writeBatch c (s1.stepOf c + 1)).modCtx c fun x => { x with built := true, buildPending := false }
end Sys2Proof.Machine
end

