-- ==== Sys2Proof/Machine/Sillage.lean ====
section
/-!
DEFINITION. Sillage at drydown (chapter 12): region latch, seal, FLOW digests, local and run verdict, discards, run stops,
confirmation, replica decisions and rollbacks.
-/
namespace Sys2Proof.Machine

/-! ### Run stops (R226, Table 10-2) -/

/-- The entry that a run stop writes on its own chip: the lowest that is not armed; with every entry armed the manual does not
say which, and it is free (log entry 32). -/
def State.stopEntry (s : State) : Nat × State :=
  match s.freeEntry with
  | some e => (e, s)
  | none => let (n, t) := s.drawNat; (n % 64, t)
/-- A run stop for a context: a STOP at G + STOP_LEAD on every chip of the run, with its own generation plus two. On its own chip
the firmware writes it through OD 0x1101, which R222 may refuse; the entry that is written on another chip is a free value (log
entry 32). It is recorded as a decision of the firmware (log entry 230); `cause` is the SEQ of the record that led to it. -/
def State.runStop (s : State) (c cause : Nat) : State :=
  let x := s.ctxAt c
  let v := stopValue (s.g + s.odGet kStopLead) c (x.gen + 2)
  let (e, s0) := (s.note 0x0D (unitId 12 0) 4 cause (some c) (some x.part) []).stopEntry
  let s1 := s0.launchWrite e v
  (x.chips.filter fun q => q != s.odGet kChipId).foldl (fun t q =>
    let (n, t1) := t.drawNat
    t1.sendLaunch q (1 + 256 * (n % 64)) v) (s1.trace 0x0301)

/-! ### Regions (R267 to R270) -/

/-- A region-table entry (Table 12-3). -/
def regionOf (i v : Nat) : Region :=
  { entry := i, base := bits v 255 254 == 1, off := bits v 253 210, size := (bits v 209 176 + 1) * 64,
    tensor := bits v 175 152, owner := bits v 151 128, version := bits v 127 64, tileBytes := bits v 63 32,
    kind := bits v 31 30, acc := 0, blocks := 0 }
/-- The active entries of a context's region table, by number. -/
def State.regionWords (s : State) (c : Nat) : List (Nat × Nat) :=
  match s.window c false (s.silTable c) 0x8000 false with
  | some a => ((List.range 1024).map fun i => (i, s.tierLE false (a + 32 * i) 32)).filter fun e => (regionOf e.1 e.2).kind != 0
  | none => []
/-- An entry names a range outside the context's windows; a TIER of 2 or 3 names no window (DEDUCED, log entry 208). -/
def State.regionOutside (s : State) (c : Nat) (e : Nat × Nat) : Bool :=
  let r := regionOf e.1 e.2
  decide (2 ≤ bits e.2 255 254) || (s.window c r.base r.off r.size true).isNone
/-- An OUTPUT region left open by an earlier step continues (R270). -/
def Region.continue_ (r : Region) (open_ : List Region) : Region :=
  match open_.find? fun o => { o with acc := 0, blocks := 0 } == { r with acc := 0, blocks := 0 } with
  | some o => o
  | none => r
/-- Latch the region table at a START: a region outside the windows is a program fault (R268). -/
def State.latchRegions (s : State) (c : Nat) : State :=
  let x := s.ctxAt c
  let l := s.regionWords c
  let s1 := s.setCtx c { x with regions := l.map fun e =>
    (let r := regionOf e.1 e.2
     if r.kind = 2 then r.continue_ x.snap.outputs else r) }
  match l.find? (s.regionOutside c) with
  | some e => s1.progFault c (unitId 12 1) 0 0xE e.1
  | none => s1

/-! ### The step of an evaluation sequence -/

/-- FINISHED of the sequence at place `i` of the running step's descriptor (Table 9-7). -/
def State.finishedFlag (s : State) (c i : Nat) : Bool :=
  bit (s.tierLE false ((s.ctxAt c).heartBase + s.rbBase c + s.stepOf c % 2 * 0x10000 + 0x1040 + 32 * i + 1) 1) 3
/-- An evaluation command produces its last token in the running step: its sequence is FINISHED, or MAX_NEW is reached. -/
def State.evalEnds (s : State) (c : Nat) (m : OpenCmd) : Bool :=
  (s.ctxAt c).seqs.zipIdx.any fun e => e.1.evalSeq && e.1.queue == m.queue && e.1.cmdSeq == m.seq
    && (s.finishedFlag c e.2 || decide (m.maxNew ≤ m.produced + 1))
/-- An OUTPUT region closes at this drydown: its command's last step is the running one (R270). -/
def State.outputCloses (s : State) (c : Nat) (r : Region) : Bool :=
  (s.ctxAt c).cmds.any fun m => m.op == 2 && m.tenant == r.owner && m.seq0 == r.version && !m.committed && s.evalEnds c m
/-- The regions that close at the running step's drydown. -/
def State.closing (s : State) (c : Nat) : List Region :=
  (s.ctxAt c).regions.filter fun r => r.kind == 1 || (r.kind == 2 && s.outputCloses c r)

/-! ### Discarding a step (R226, R277, R279) -/

/-- Return the DMA channels of a partition to IDLE. -/
def State.idleChannels (s : State) (p : Nat) : State :=
  (s.accordsOf p).foldl (fun t a => [0, 1, 2, 3, 4, 5, 6, 7].foldl (fun (u : State) (k : Fin 8) =>
    if u.odBit (kDmaCtrl a k) 31 then u
    else ((u.setChanState a k .idle).setChanPc a k 0).modChan a k fun _ => Channel.reset) t) s
/-- Stop what runs on a partition: transfers drained, token queues emptied, channels IDLE, any freeze ended. -/
def State.quietPart (s : State) (p : Nat) : State :=
  let l := s.accordsOf p
  let s1 := ((((s.quietCores p).eachAcc p fun A => { A.drain.quiet with tokq := [] }).idleChannels p).idleUnits p).setGuard p Guard.reset
  { s1 with codec := s1.codec.filter fun j => !l.contains j.acc }

/-- What every discard forgets of the step. -/
def Ctx.dropStep (x : Ctx) (gen : Nat) : Ctx :=
  { x with inStep := false, phasesDone := false, dry := .none, sealed_ := false, regions := [], folds := [],
           flowGot := [], verdicts := [], suspect := false, regionFault := false, gen := gen % 16,
           snap := { x.snap with nose := [] } }
/-- Discard the step in progress: no trace in committed state is left; the generation becomes `gen`. -/
def State.dropStep (s : State) (c gen : Nat) : State :=
  let x := s.ctxAt c
  let s1 := if x.inStep then (s.noseRollback c).odSet (kCtxStep c) (s.stepOf c - 1) else s
  (s1.modCtx c fun y => y.dropStep gen).quietPart x.part
/-- A discard under R277 or R278: counted, and the generation advances by one. -/
def State.discard (s : State) (c : Nat) : State :=
  ((s.dropStep c ((s.ctxAt c).gen + 1)).bump kStepsDiscarded 1).event .sil 2

/-! ### Confirmation (R278, R281, R288, R289) -/

/-- VCHIPS of a context's binary. -/
def Ctx.vchips (x : Ctx) : Nat :=
  match x.prog with
  | some b => b.vchips
  | none => 1
/-- REPLICAS of a context; 0 means 1 (R282). -/
def State.replicas (s : State) (c : Nat) : Nat := max 1 (s.odBits (kRepCfg c) 7 0)
/-- INDEX of a context's replica. -/
def State.repIndex (s : State) (c : Nat) : Nat := s.odBits (kRepCfg c) 15 8
/-- The context is replicated. -/
def State.replicated (s : State) (c : Nat) : Bool := decide (1 < s.replicas c)
/-- The live replicas by index. -/
def Ctx.liveList (x : Ctx) : List Nat := (List.range 4).filter fun i => bit x.liveMask i
/-- Show a context's replica state (Table 12-7). -/
def State.showRep (s : State) (c : Nat) : State :=
  let x := s.ctxAt c
  s.odSet (kRepState c) ((if !s.replicated c then 0 else if x.expelled then 2 else 1) * 2 ^ 28
    + (if s.replicated c then x.liveList.length * 2 ^ 24 + x.liveMask % 16 else 0))

/-- The closure of a command: of its key, from the step that committed its last result. -/
def OpenCmd.isKey (m : OpenCmd) (k : Closure) : Bool :=
  m.committed && m.tenant == k.tenant && m.lastStep == k.step
    && (if k.kind = 1 then m.op == 1 && m.updateT == k.version else k.kind == 2 && m.op == 2 && m.seq0 == k.version)
/-- An update is selected for a cross-check (R289). -/
def State.selected (s : State) (tenant t : Nat) : Bool :=
  let k := s.odGet kXcheckRateLog2
  k != 0xFF && decide (leNat ((sha3 (leBytes 16 (s.odGet kXcheckNonce) ++ leBytes 4 tenant ++ leBytes 4 t)).take 4) < 2 ^ 32 / 2 ^ k)

/-- A command with its last result confirmed completes: OK, or SKIPPED_NONFINITE. -/
def State.finishCmd (s : State) (c : Nat) (m : OpenCmd) (sampled : Bool) : State :=
  (s.modCtx c fun x => { x with cmds := x.cmds.erase m }).complete c m (if m.skipped then 1 else 0) sampled
/-- Evaluations without an OUTPUT region have no key: they complete with the run confirmation. -/
def State.finishPlain (s : State) (c : Nat) : State :=
  (s.ctxAt c).cmds.foldl (fun t m =>
    let x := t.ctxAt c
    if m.committed ∧ m.op = 2 ∧ m.result = none ∧ m.lastStep ≤ x.runConfirmed ∧ !x.expelled ∧ !x.doRollback.contains m.entry then
      t.finishCmd c m false
    else t) s

/-- The state of a context's checkpoint. -/
def State.ckptState (s : State) (c : Nat) : Nat := s.odBits (kCkptState c) 63 56
/-- Set the state of a context's checkpoint, in its entry and in its header. -/
def State.setCkpt (s : State) (c v : Nat) : State :=
  (s.odSetBits (kCkptState c) 63 56 v).devWrite true (s.odBits (kCkptCfg c) 63 0 + 2) (leBytes 1 v)
/-- Every key of a copied checkpoint is confirmed: it becomes valid (R311). -/
def State.ckptCheck (s : State) (c : Nat) : State :=
  if s.ckptState c = 1 ∧ (s.ctxAt c).ckpt.isEmpty then s.setCkpt c 2 else s
/-- A checkpoint is abandoned (R311). -/
def State.ckptAbandon (s : State) (c : Nat) : State :=
  (((s.setCkpt c 3).event .blot 8).note 0x13 (unitId 12 0) 4 0 (some c) (some (s.ctxAt c).part) []).modCtx c fun x =>
    { x with ckpt := [] }

/-- What the confirmation of a key leaves of a tenant (R281, R289, R291, R311): its update is confirmed, the image before a selected one
is kept, no roll-back counts any more, and a checkpoint waits for it no longer. -/
def Ctx.confirm (x : Ctx) (e : Nat) (k : Closure) (sel : Bool) : Ctx :=
  let u := x.unconf.find? fun u => k.kind == 1 && u.entry == e && u.step == k.step
  { x with
    unconf := match u with
      | some u => x.unconf.erase u
      | none => x.unconf,
    keep := match u with
      | some u => if sel then x.keep ++ [(e, field u.old 7 1)] else x.keep
      | none => x.keep,
    rollbacks := x.rollbacks.filter fun r => r.1 != e,
    ckpt := x.ckpt.erase (e, k.kind, k.version) }
/-- A key is confirmed with `live` replicas, `agreed` of them with the confirmed digest: its command completes, with the roll-backs
since the last confirmation in its record, and then the tenant has none. -/
def State.confirmKey (s : State) (c : Nat) (k : Closure) (live agreed : Nat) : State :=
  let sel := decide (k.kind = 1) && s.selected k.tenant k.version
  let s1 := s.modCtx c fun y => { y with
    closures := y.closures.erase k,
    cmds := y.cmds.map fun m => if m.isKey k then { m with live := live, agreed := agreed } else m }
  let l := (s1.ctxAt c).cmds.filter fun m => m.isKey k
  let s2 := if sel then s1.bump kXcheckSelected 1 else s1
  let s3 := l.foldl (fun t m => t.finishCmd c m sel) s2
  (s3.modCtx c fun y => match l with
    | m :: _ => y.confirm m.entry k sel
    | [] => { y with ckpt := y.ckpt.erase (2 ^ 20, k.kind, k.version) }).ckptCheck c

/-! ### Rollbacks, expulsions (R285 to R287) -/

/-- Force the tests of accords of a partition (R308): TEST_FORCED is recorded, and the running context is pre-empted. -/
def State.forceTests (s : State) (p : Nat) (l : List Nat) : State :=
  let s1 := { s with jobs := { s.jobs with forced := unionRising s.jobs.forced l } }
  (((s1.note 0x12 (unitId 14 p) 4 0 (s1.runningOn p) (some p) []).bump kTestsForced 1).event .blot 6).forcePart p
/-- Force a test of every accord of the chip, with a grace of zero (R310). -/
def State.quarantine (s : State) : State :=
  let l := (List.range s.accords).filter fun a => !s.accordFenced a
  let s1 := { s with jobs := { s.jobs with quar := some l } }.event .blot 7
  (List.range 16).foldl (fun t p =>
    let q := l.filter fun a => s.partOf a == some p
    if q.isEmpty then t else t.forceTests p q) (s1.beginTests (l.filter fun a => (s.partOf a).isNone) .forced)
/-- The syndrome of an SDC_SUSPECT record from digests (Table 13-4). -/
def digestSyn (tenant version digest : Nat) : List Byte := leBytes 4 tenant ++ leBytes 4 version ++ beBytes 16 digest

/-- Complete every command of a tenant with FAULT. -/
def State.faultTenant (s : State) (c e : Nat) : State :=
  (s.ctxAt c).cmds.foldl (fun t m =>
    if m.entry = e then (t.modCtx c fun x => { x with cmds := x.cmds.erase m }).complete c m 8 false else t) s
/-- The firmware of a multi-chip run may hold it so that every chip has the roll-back before the START (R286): whether it finds that it
has to, and for how many step periods, is free; no packet carries the roll-back itself (log entry 198). -/
def State.holdForRollback (s : State) (c : Nat) : State :=
  if !(s.ctxAt c).flag 0 then s
  else
    let (b, s1) := s.drawBool
    let (n, s2) := s1.drawNat
    if b then s2.holdFor c n else s2
/-- An unresolved key of a tenant: it is rolled back at the next START; the DISAGREE_LIMIT-th time in a row it is held and
its commands complete with FAULT (R286). -/
def State.rollbackTenant (s : State) (c : Nat) (k : Closure) : State :=
  let x := s.ctxAt c
  match ((x.cmds.filter fun m => m.isKey k) ++ x.cmds.filter fun m => m.tenant == k.tenant).head?.map
      OpenCmd.entry with
  | none => s.modCtx c fun y => { y with closures := y.closures.erase k }
  | some e =>
    let n := ((x.rollbacks.find? fun r => r.1 == e).map Prod.snd).getD 0 + 1
    let s1 := ((s.bump kRollbacks 1).event .sil 4).modCtx c fun y => { y with
      closures := y.closures.filter fun q => q.tenant != k.tenant, doRollback := unionRising y.doRollback [e],
      rollbacks := y.rollbacks.filter (fun r => r.1 != e) ++ [(e, n)] }
    let s2 := ((if (s1.ctxAt c).ckpt.any fun q => q.1 == e && q.2.1 != 0 then s1.ckptAbandon c else s1).holdForRollback c)
    if s.odGet kDisagreeLimit ≤ n then
      ((((s2.tctHold e).event .sil 6).blotAdd (s2.mkRec 4 0x16 0 4 (unitId 12 1) (some c) (some x.part) 0 0
        (digestSyn k.tenant k.version (k.own.getD 0)))).faultTenant c e)
    else s2

/-- Drop a replica from the live set. -/
def State.dropReplica (s : State) (c r : Nat) : State :=
  ((((s.modCtx c fun x => { x with liveMask := clearBit x.liveMask r }).bump kExpulsions 1).event .sil 5).showRep c)
/-- This replica is odd (R285): its SDC_SUSPECT record, a run stop, expulsion, and the test of every accord. -/
def State.oddSelf (s : State) (c : Nat) (k : Closure) : State :=
  let s0 := s.blotAdd (s.mkRec 4 0x0E 0 4 (unitId 12 1) (some c) (some (s.ctxAt c).part) 0 0
    (digestSyn k.tenant k.version (k.own.getD 0)))
  let s1 := s0.runStop c s0.blot.last
  ((((s1.modCtx c fun x => { x with expelled := true, closures := [] }).bump kExpulsions 1).event .sil 5).showRep c).quarantine

/-! ### Decisions (R284) -/

/-- The digests of a key by replica, the own one included; none while the own one is missing. -/
def State.keyVotes (s : State) (c : Nat) (k : Closure) : Option (List (Nat × Nat)) :=
  k.own.map fun d => (s.repIndex c, d) :: k.got.map fun e => (e.replica, e.digest)
/-- The live replicas of a context, one that is not replicated among them. -/
def State.voters (s : State) (c : Nat) : List Nat := if s.replicated c then (s.ctxAt c).liveList else [s.repIndex c]
/-- A key is missing from some live replica (R284). -/
def State.keyMissing (s : State) (c : Nat) (k : Closure) : Bool :=
  match s.keyVotes c k with
  | none => true
  | some v => !((s.voters c).all fun r => v.any fun e => e.1 == r)
/-- How many of the live replicas voted `d`. -/
def votesFor (live : List Nat) (v : List (Nat × Nat)) (d : Nat) : Nat := (v.filter fun e => live.contains e.1 && e.2 == d).length
/-- The digest that more than half the live replicas agree on. -/
def majority (live : List Nat) (v : List (Nat × Nat)) : Option Nat :=
  (v.map Prod.snd).find? fun d => decide (live.length < 2 * votesFor live v d)

/-- An unresolved key: its tenant is rolled back, or, for a model update, the context stops (R286, R287). -/
def State.unresolved (s : State) (c : Nat) (k : Closure) : State :=
  if k.kind = 3 then ((s.stopCtx c).enqueue s.blot.last (unitId 12 1) (.teardown c)).event .blot 0 else s.rollbackTenant c k

/-- Decide one key, if it can be decided (R284, R285). -/
def State.decideKey (s : State) (c : Nat) (k : Closure) : State :=
  let x := s.ctxAt c
  if x.expelled then s
  else match s.keyVotes c k with
    | none => s
    | some v =>
      let live := s.voters c
      if s.keyMissing c k then s
      else match majority live v with
        | none => s.unresolved c k
        | some d =>
          if x.runConfirmed < k.step then s
          else if k.own ≠ some d then s.oddSelf c k
          else
            let odd := live.filter fun r => v.any fun e => e.1 == r && e.2 != d
            (odd.foldl (fun t r => t.dropReplica c r) s).confirmKey c k live.length (votesFor live v d)
/-- Look at every key of a context once. -/
def State.decideOnce (s : State) (c : Nat) : State :=
  (s.ctxAt c).closures.foldl (fun t k => if (t.ctxAt c).closures.contains k then t.decideKey c k else t) s
/-- Decide every key of a context that can be decided: a replica that a decision drops from the live set can make others decidable, at
most three times. -/
def State.decideLoop (c : Nat) : Nat → State → State
  | 0, s => s
  | n + 1, s =>
    let t := s.decideOnce c
    if (t.ctxAt c).liveMask = (s.ctxAt c).liveMask then t else State.decideLoop c n t
/-- Decide every key of a context; evaluations without a key complete. -/
def State.decideAll (s : State) (c : Nat) : State := (State.decideLoop c 4 s).finishPlain c

/-- A comparison is over: keys still missing from some live replica MATCH_LIMIT comparison drydowns after the one that their first entry
went with are unresolved (R284). -/
def State.matchLimit (s : State) (c : Nat) : State :=
  (s.ctxAt c).closures.foldl (fun t k =>
    if (t.ctxAt c).closures.contains k ∧ t.keyMissing c k ∧ k.since ≠ 0 ∧ k.since + s.odGet kMatchLimit ≤ (t.ctxAt c).cmpNo then
      t.unresolved c k else t) s
/-- The live replicas whose CLOSURE_END of the latest comparison has not come (R285). -/
def State.endsMissing (s : State) (c : Nat) : List Nat :=
  let x := s.ctxAt c
  x.liveList.filter fun i => i != s.repIndex c && !x.ends.any fun e => e.1 == i && decide (x.cmpNo ≤ e.2)
/-- With every CLOSURE_END of the comparison in progress in, it is over: no replica was silent. -/
def State.endCompare (s : State) (c : Nat) : State :=
  if (s.ctxAt c).cmpOpen ∧ (s.endsMissing c).isEmpty then (s.modCtx c fun x => { x with silent := [], cmpOpen := false }).matchLimit c
  else s

/-! ### Verdicts (R277, R278) -/

/-- The run has confirmed steps up to `n` (R278). -/
def State.runConfirm (s : State) (c n : Nat) : State :=
  if n ≤ (s.ctxAt c).runConfirmed then s
  else ((s.modCtx c fun x => { x with runConfirmed := n, undo := none }).odSetBits (kDryState c) 127 64 n).decideAll c
/-- Another chip of the run did not commit a step that this one committed: a run stop, once (R278). -/
def State.learnRevert (s : State) (c : Nat) : State :=
  if (s.ctxAt c).revert then s
  else (((s.modCtx c fun x => { x with revert := true }).bump kRunReverts 1).event .sil 3).runStop c 0

/-- The verdict of virtual chip `v` on the running step. -/
def Ctx.verdictOf (x : Ctx) (step v : Nat) : Option VerdictIn := x.verdicts.find? fun y => y.vchip == v && y.step == step
/-- With every VERDICT of the run in, the run verdict and the run confirmation of the previous step (R277, R278). -/
def State.runVerdict (s : State) (c : Nat) : State :=
  let x := s.ctxAt c
  let n := s.stepOf c
  let l := (List.range x.vchips).map fun v => x.verdictOf n v
  if x.dry ≠ .verdict ∨ l.any Option.isNone then s
  else
    let vs := l.filterMap id
    let s1 := if vs.all VerdictIn.prevCommitted then s.runConfirm c (n - 1) else if x.prevCommitted then s.learnRevert c else s
    if vs.all VerdictIn.pass then
      s1.modCtx c fun y => { y with dry := .commit, suspect := y.suspect || vs.any VerdictIn.suspect }
    else s1.discard c

/-- The payload of a VERDICT (Table 12-4). -/
def verdictPayload (step : Nat) (pass prev suspect : Bool) : List Byte :=
  leBytes 6 step ++ leBytes 1 (b2n pass) ++ leBytes 1 (b2n prev) ++ leBytes 1 (b2n suspect) ++ leBytes 7 0
/-- The local verdict (R277): a single-chip context decides at once; any other sends its VERDICT. -/
def State.localVerdict (s : State) (c : Nat) (pass : Bool) : State :=
  let x := s.ctxAt c
  let n := s.stepOf c
  if !x.flag 0 then
    (if pass then s.modCtx c fun y => { y with dry := .commit } else s.discard c)
  else
    let s1 := s.sendFlow (s.runFlow c) 8 7 (0x10000 + 16 * x.vchip) 2 (verdictPayload n pass x.prevCommitted x.suspect) false true
    (s1.modCtx c fun y => { y with
      dry := .verdict, verdicts := y.verdicts ++ [⟨x.vchip, n, pass, x.prevCommitted, x.suspect⟩] }).runVerdict c

/-! ### FLOW digests (R271, R277) -/

/-- The data flows with EPCHK of a context's binary. -/
def State.epFlows (s : State) (c : Nat) : List Nat :=
  match (s.ctxAt c).prog with
  | some b => (b.flows.map Prod.fst).filter fun f => hasCompanion f (s.flowEnt f)
  | none => []
/-- The flows a context sends on from this chip. -/
def State.sendFlows (s : State) (c : Nat) : List Nat :=
  (s.epFlows c).filter fun f => let e := s.flowEnt f
    flowSendEn e && flowSend e == c && (flowDst e != s.odGet kChipId || (s.ctxAt c).folds.any fun y => y.flow == f && y.send)
/-- The flows a context receives on at this chip; to one of a multicast group it belongs once something has arrived on it. -/
def State.recvFlows (s : State) (c : Nat) : List Nat :=
  (s.epFlows c).filter fun f => let e := s.flowEnt f
    flowRecvEn e && flowRecv e == c && (flowDst e == s.odGet kChipId
      || (s.ctxAt c).folds.any (fun y => y.flow == f && !y.send) || (s.ctxAt c).flowGot.any fun q => q.1 == f)
/-- Send the FLOW digests of a step (Table 12-5 row 3). -/
def State.sendDigests (s : State) (c : Nat) : State :=
  (s.sendFlows c).foldl (fun t f =>
    t.sendFlow (companion f) 8 7 (32 * (f % 1024)) 1
      (((t.ctxAt c).flowFold f true).payload (t.ctxStepKey c) ++ leBytes 4 0) false false) s

/-- A received FLOW digest equals the receiving side's. -/
def State.flowMatches (s : State) (c f : Nat) : Bool :=
  (s.ctxAt c).flowGot.any fun e => e.1 == f && e.2 == leNat (((s.ctxAt c).flowFold f false).payload (s.ctxStepKey c))
/-- Count the flows whose digests do not match, and form the local verdict. -/
def State.flowVerdict (s : State) (c : Nat) : State :=
  let bad := (s.recvFlows c).filter fun f => !s.flowMatches c f
  let s1 := bad.foldl (fun t _ => (t.bump kFlowMismatches 1).event .sil 0) s
  s1.localVerdict c (bad.isEmpty && !(s.ctxAt c).regionFault)
/-- The local verdict once every FLOW digest is in. -/
def State.flowCheck (s : State) (c : Nat) : State :=
  let x := s.ctxAt c
  if x.dry = .flow ∧ x.sealed_ ∧ (s.recvFlows c).all (fun f => x.flowGot.any fun e => e.1 == f) then s.flowVerdict c else s

/-- DIGEST_SEAL (R266, R268, R270): SILLAGE_CLOSE, 24 tk, after DRYDOWN took effect the closing regions are sealed and their
coverage checked; the FLOW digests are sent. -/
def State.seal (s : State) (c : Nat) : State :=
  let x := s.ctxAt c
  if x.dry ≠ .flow ∨ x.sealed_ ∨ s.g < x.dryAt + 24 then s
  else
    let bad := (s.closing c).filter fun r => r.blocks != r.size / 16
    let s1 := (s.sendDigests c).modCtx c fun y => { y with sealed_ := true, regionFault := !bad.isEmpty }
    match bad with
    | r :: _ =>
      (((s1.bump kCoverageFaults bad.length).event .sil 1).progFault c (unitId 12 1) 0 0xF r.entry).flowCheck c
    | [] => s1.flowCheck c
/-- DIGEST_SEAL. -/
def execDigestSeal (c : Fin 256) (s : State) : Host.Outcome State Fault Refusal := .next (whenLive s (s.seal c))

/-! ### Exchanges (R272) -/

/-- A DIGEST_XCH of kind `kind`: delivered as a WRITE, then what the engine does with it; a kind that is not in the table
counts MALFORMED, another kind is another command's. -/
def onXch (kind : Nat) (p : Packet) (obs : List ReadObs) (f : State → Nat → State) (s : State) : State :=
  onPacket 8 p (fun s =>
    let k := p.aux.toNat % 256
    if k = 0 ∨ 4 < k then s.countMalformed
    else if k ≠ kind then s
    else
      let d := s.landPacket p obs
      match d.status with
      | none => d.st
      | some st =>
        let s1 := d.st.ack p st 0
        if st ≤ 1 then f s1 (flowRecv (s.flowEnt p.flow)) else s1) s

/-- FLOW_DIGEST (R271, R277). -/
def execFlowDigest (pkt : Packet) (obs : List ReadObs) (s : State) : Host.Outcome State Fault Refusal :=
  .next (whenLive s (onXch 1 pkt obs (fun t c =>
    (t.modCtx c fun x => { x with flowGot := x.flowGot ++ [(companion pkt.flow, leNat (pkt.payload.take 28))] }).flowCheck c) s))

/-- A received VERDICT. -/
def verdictIn (p : Packet) : VerdictIn :=
  ⟨(p.addr - 0x10000) / 16, field p.payload 0 6, field p.payload 6 1 == 1, field p.payload 7 1 == 1, field p.payload 8 1 == 1⟩
/-- VERDICT (R277, R278): one for an earlier step shows that its sender did not commit that step. -/
def execVerdict (pkt : Packet) (obs : List ReadObs) (s : State) : Host.Outcome State Fault Refusal :=
  .next (whenLive s (onXch 2 pkt obs (fun t c =>
    let v := verdictIn pkt
    let n := t.stepOf c
    let x := t.ctxAt c
    if v.step < n ∧ x.runConfirmed < v.step then t.learnRevert c
    else (t.modCtx c fun y => { y with verdicts := y.verdicts ++ [v] }).runVerdict c) s))

/-- The latest counts of rows 4 and 6 of Table 12-5, after DRYDOWN took effect: 24 tk to the seal and XCH_TIMEOUT, one tk to the
VERDICT and XCH_TIMEOUT again. -/
def State.xchLatest (s : State) (c : Nat) : XchRow → Nat
  | .flow => (s.ctxAt c).dryAt + 24 + s.odGet kXchTimeout
  | .verdict => (s.ctxAt c).dryAt + 25 + 2 * s.odGet kXchTimeout
/-- XCH_TIMEOUT (R276, R277): the latest count of row 4 or row 6 has passed. -/
def execXchTimeout (c : Fin 256) (row : XchRow) (s : State) : Host.Outcome State Fault Refusal :=
  .next (whenLive s (if s.g < s.xchLatest c row then s
    else match row, (s.ctxAt c).dry with
    | .flow, .flow => if (s.ctxAt c).sealed_ then s.flowVerdict c else s
    | .verdict, .verdict => s.discard c
    | _, _ => s))

/-- The replica a CLOSURE packet came from. -/
def closureReplica (p : Packet) : Nat := (p.addr - 0x20000) / 0x10000
/-- Enter a replica's entry at the first of its key where `fits` holds; at a new one where `new`. -/
def enterGot (tenant kind version : Nat) (e : ClosureIn) (fits : Closure → Bool) (new : Bool) : List Closure → List Closure
  | [] => if new then [⟨tenant, kind, version, none, 0, false, [e], e.cmp⟩] else []
  | k :: r =>
    if k.tenant = tenant ∧ k.kind = kind ∧ k.version = version ∧ fits k then
      { k with got := k.got.filter (fun o => o.replica != e.replica) ++ [e],
               since := if k.since = 0 then e.cmp else min k.since e.cmp } :: r
    else k :: enterGot tenant kind version e fits new r
/-- Enter a replica's entry for a key (R283): a step that was discarded and closed again sends its entries again, which replace those of
an earlier comparison; any other entry belongs to the first result of its key that has none of that replica. The comparison that it
came with is the one after the replica's latest CLOSURE_END. -/
def Ctx.addGot (x : Ctx) (r tenant kind version digest step : Nat) : Ctx :=
  let e : ClosureIn := ⟨r, digest, step, ((x.ends.find? fun q => q.1 == r).map Prod.snd).getD 0 + 1⟩
  let again := fun (k : Closure) => k.got.any fun o => o.replica == r && o.step == step && o.cmp != e.cmp
  let is := fun (k : Closure) => k.tenant == tenant && k.kind == kind && k.version == version
  { x with closures :=
      if x.closures.any (fun k => is k && again k) then enterGot tenant kind version e again false x.closures
      else enterGot tenant kind version e (fun k => !k.got.any fun o => o.replica == r) true x.closures }
/-- A closure entry tells of an update that a rollback still to come has discarded (R286). -/
def State.ofDiscarded (s : State) (c : Nat) (entry : List Byte) : Bool :=
  let x := s.ctxAt c
  decide (field entry 28 4 ≤ s.stepOf c) &&
    x.cmds.any fun m => m.tenant == field entry 0 3 && x.doRollback.contains m.entry
/-- CLOSURE (R283, R284). -/
def execClosure (c : Fin 256) (pkt : Packet) (obs : List ReadObs) (s : State) : Host.Outcome State Fault Refusal :=
  .next (whenLive s (onXch 3 pkt obs (fun t d =>
    if d ≠ c.val ∨ (t.ctxAt d).expelled ∨ t.ofDiscarded d pkt.payload then t
    else (t.modCtx d fun x => x.addGot (closureReplica pkt) (field pkt.payload 0 3) (field pkt.payload 3 1)
      (field pkt.payload 4 8) (beNat ((pkt.payload.drop 12).take 16)) (field pkt.payload 28 4)).decideAll d) s))
/-- CLOSURE_END (R283, R285). -/
def execClosureEnd (c : Fin 256) (pkt : Packet) (obs : List ReadObs) (s : State) : Host.Outcome State Fault Refusal :=
  .next (whenLive s (onXch 4 pkt obs (fun t d =>
    if d ≠ c.val then t
    else
      let r := closureReplica pkt
      (t.modCtx d fun x => { x with ends := x.ends.filter (fun e => e.1 != r) ++ [(r, field pkt.payload 0 4)] }).endCompare d) s))

/-- CMP_TIMEOUT (R285): CMP_TIMEOUT tk after the CLOSURE entries were sent, a live replica whose CLOSURE_END of the comparison in progress
is missing for the second time in a row is expelled as silent. -/
def execCmpTimeout (c : Fin 256) (s : State) : Host.Outcome State Fault Refusal :=
  let x := s.ctxAt c
  .next (whenLive s (if x.cmpOpen ∧ x.cmpAt + s.odGet kCmpTimeout ≤ s.g then
    let l := s.endsMissing c
    let again := l.filter fun r => x.silent.any fun e => e.1 == r
    let s1 := s.modCtx c fun y => { y with cmpOpen := false, silent := (l.filter fun r => !again.contains r).map fun r => (r, 1) }
    ((again.foldl (fun t r => t.dropReplica c r) s1).decideAll c).matchLimit c
  else s))

/-! ### Cross-checks and the audit engine (R289, R290, R292) -/

/-- XCHECK_RELEASE (R289): the kept image of a tenant's entry is released. -/
def execXcheckRelease (value : W32) (s : State) : Host.Outcome State Fault Refusal :=
  let e := value.toNat % 2 ^ 20
  .next (s.ctx.foldl (fun t x => t.modCtx x.1 fun y => { y with keep := y.keep.filter fun k => k.1 != e }) s)
/-- XCHECK_REPORT (R290): an SDC_SUSPECT record that names the tenant, t and digest, and the test of every accord. -/
def execXcheckReport (data : List Byte) (s : State) : Host.Outcome State Fault Refusal :=
  .next (if data.length ≠ 32 then s.refuse 3
    else ((s.event .sil 7).blotAdd (s.mkRec 4 0x0E 0 4 (unitId 12 1) none none 0 0 (data.take 24))).quarantine)
/-- AUDIT_REQ (R292): refused outside the context's windows, else busy until AUDIT_DONE. -/
def execAuditReq (data : List Byte) (s : State) : Host.Outcome State Fault Refusal :=
  let c := field data 0 1
  .next (if data.length ≠ 32 then s.refuse 3
    else if s.jobs.audit.isSome then s.refuse 6
    else if 1 < field data 1 1 ∨ (s.ctxAt c).st = .free
        ∨ (s.window c (field data 1 1 == 1) (field data 8 8) (field data 16 8) false).isNone then (s.odSet kAuditStatus 2).refuse 7
    else { s with jobs := { s.jobs with audit := some data } }.odSet kAuditStatus 1)
/-- AUDIT_DONE (R292): the range's SHA3-256 is the result; a range that has left the windows is refused. -/
def execAuditDone (s : State) : Host.Outcome State Fault Refusal :=
  .next (match s.jobs.audit with
    | none => s
    | some d =>
      let s1 := { s with jobs := { s.jobs with audit := none } }
      let base := field d 1 1 == 1
      match s.window (field d 0 1) base (field d 8 8) (field d 16 8) false with
      | some a => (s1.odSet kAuditResult (leNat (sha3 (s.tierBytes base a (field d 16 8))))).odSet kAuditStatus 0
      | none => s1.odSet kAuditStatus 2)

end Sys2Proof.Machine
end

