-- ==== Sys2Proof/Machine/Commit.lean ====
section
/-!
DEFINITION. COMMIT: what the drydown of a passed step records (R185, R197 to R202, R206, R210 to R213, R277 to R291, R311,
R326, R327).
-/
namespace Sys2Proof.Machine

/-! ### Updates and evaluations (R198, R279, R280) -/

/-- The digest of the region of a key that closes in the running step; none where no such region was latched. -/
def State.closedDigest (s : State) (c kind owner version : Nat) : Option Region :=
  (s.closing c).find? fun r => r.kind == kind && r.owner == owner && r.version == version
/-- A command's last tenant micro-batch runs in the step. -/
def Ctx.updates (x : Ctx) (m : OpenCmd) : Bool :=
  m.op == 1 && m.placed == m.total && !m.committed && !m.aborted
    && x.seqs.any fun e => e.last && !e.evalSeq && e.queue == m.queue && e.cmdSeq == m.seq
/-- A command has rows in the running step. -/
def Ctx.inBatch (x : Ctx) (m : OpenCmd) : Bool := x.seqs.any fun e => e.queue == m.queue && e.cmdSeq == m.seq
/-- Replace a command. -/
def Ctx.putCmd (x : Ctx) (m : OpenCmd) : Ctx :=
  { x with cmds := x.cmds.map fun o => if o.queue = m.queue ∧ o.seq = m.seq then m else o }

/-- The bytes of an image of a tenant, as the cells of the base tier that hold them. -/
def State.imageCells (s : State) (e k : Nat) : List (Nat × Byte) :=
  let a := s.imageAddr e k
  (s.base.filter fun q => decide (a ≤ q.1 ∧ q.1 < a + s.tct e 24 4 * 65536)).map fun q => (q.1 - a, q.2)
/-- A tenant's update was skipped (R182, R280): master, moments and working copy stand unchanged in the image that it wrote. The
manual gives the manager no other sign of the program's OK (DEDUCED, log entry 33). -/
def State.skipped (s : State) (e : Nat) : Bool := s.imageCells e (s.nextImage e) == s.imageCells e (s.tct e 7 1)
/-- Enter what has closed here as the own entry of its key (R283): of the first one of that key that has none, which another replica
has named; else of a new one. -/
def closeKey (tenant kind version digest step : Nat) : List Closure → List Closure
  | [] => [⟨tenant, kind, version, some digest, step, false, [], 0⟩]
  | k :: r =>
    if k.tenant = tenant ∧ k.kind = kind ∧ k.version = version ∧ k.own = none then
      { k with own := some digest, step := step, sent := false } :: r
    else k :: closeKey tenant kind version digest step r
/-- Write the committed fields of a tenant's update into its entry (R195, R198, R280). -/
def State.commitUpdate (s : State) (c : Nat) (m : OpenCmd) : State :=
  let e := m.entry
  let old := s.tctBytes e
  let t := s.tct e 48 4 + 1
  let dg := match s.closedDigest c 1 m.tenant t with
    | some r => r.digest
    | none => Config.openDigest m.tenant t % 2 ^ 128
  let skip := s.skipped e
  let s2 := s.tctSet e 7 1 (s.nextImage e)
  let s3 := if skip then s2.tctSet e 52 4 (s.tct e 52 4 + 1) else s2.tctSet e 48 4 t
  let s4 := (s3.tctSet e 56 8 (s.tct e 56 8 + m.tokens)).tctPut e 64 (beBytes 16 dg)
  let s5 := ((s4.tctSet e 90 2 0).tctSet e 104 8 s.g)
  s5.modCtx c fun y =>
    { (y.putCmd { m with committed := true, skipped := skip, updateT := t, after := dg, lastStep := s.stepOf c }) with
      unconf := y.unconf ++ [⟨e, t, s.stepOf c, old⟩],
      closures := closeKey m.tenant 1 t dg (s.stepOf c) y.closures }
/-- A step of an evaluation command is committed: one more token; with the last one its result is committed. -/
def State.commitEval (s : State) (c : Nat) (m : OpenCmd) : State :=
  let ends := s.evalEnds c m
  let m' := { m with produced := m.produced + 1 }
  if !ends then s.modCtx c fun y => y.putCmd m'
  else
    let r := s.closedDigest c 2 m.tenant m.seq0
    s.modCtx c fun y =>
      let z := y.putCmd { m' with committed := true, lastStep := s.stepOf c,
                                  result := r.map fun q => (q.base, q.off, q.size, q.digest) }
      match r with
      | none => z
      | some q => { z with closures := closeKey m.tenant 2 m.seq0 q.digest (s.stepOf c) z.closures }
/-- The closures of program-owned weights of a replicated context (R287): one for each region, in the order of the region table. -/
def State.commitModel (s : State) (c : Nat) : State :=
  if !s.replicated c then s
  else
    let l := (s.closing c).filter fun r => r.kind == 1 && r.owner == 0xFFFFFF
    s.modCtx c fun y => { y with
      closures := l.foldl (fun ks r => closeKey 0xFFFFFF 3 r.version r.digest (s.stepOf c) ks) y.closures }

/-- Return a tenant entry's committed fields to those of an earlier entry: HIST_POS, UPDATE_T, SKIPPED, TOKENS_DONE,
EPOCH_DIGEST; the open update is dropped (R213, R286). -/
def State.tctRestore (s : State) (e : Nat) (old : List Byte) : State :=
  ((s.tctPut e 7 ((old.drop 7).take 1)).tctPut e 48 ((old.drop 48).take 32)).tctSet e 90 2 0

/-- An aborted or cut command completes at this drydown; a TRAIN_UPDATE whose update has committed without confirmation
returns its tenant to the image before it (R213). -/
def State.dropCmd (s : State) (c : Nat) (m : OpenCmd) (status : Nat) : State :=
  let x := s.ctxAt c
  let u := if m.op = 1 ∧ m.committed then x.unconf.find? fun u => u.entry == m.entry && u.updateT == m.updateT else none
  let s1 := match u with
    | some q => s.tctRestore m.entry q.old
    | none => if m.op = 1 then s.tctSet m.entry 90 2 0 else s
  (s1.modCtx c fun y => { y with
    cmds := y.cmds.filter fun o => !(o.queue == m.queue && o.seq == m.seq),
    seqs := y.seqs.filter fun e => !(e.queue == m.queue && e.cmdSeq == m.seq),
    unconf := match u with
      | some q => y.unconf.erase q
      | none => y.unconf,
    closures := y.closures.filter fun k => !m.isKey k }).complete c { m with result := none } status false

/-- The marks that a committed step leaves on its commands (Tables 9-5 and 12-6). -/
def Ctx.markCmds (x : Ctx) : Ctx :=
  { x with cmds := x.cmds.map fun m => if !x.inBatch m then m else
      { m with notExact := m.notExact || x.notExact, fallback := m.fallback || x.fallback, suspect := m.suspect || x.suspect,
               replayed := m.replayed || x.again } }
/-- MB_DONE of the tenants whose open update had micro-batches in the step: their leaves exist now (Table 9-2). -/
def State.commitLeaves (s : State) (c : Nat) : State :=
  ((s.ctxAt c).cmds.filter fun m => m.op == 1 && !m.committed && !m.aborted && (s.ctxAt c).inBatch m).foldl
    (fun t m => t.tctSet m.entry 90 2 m.placed) s
/-- The results of the step: aborted commands, updates, leaves, evaluations, program-owned weights. -/
def State.commitResults (s : State) (c : Nat) : State :=
  let x := s.ctxAt c
  let s1 := (x.cmds.filter OpenCmd.aborted).foldl (fun t m => t.dropCmd c m 2) s
  let y := s1.ctxAt c
  let s2 := ((y.cmds.filter fun m => y.updates m).foldl (fun t m => t.commitUpdate c m) s1).commitLeaves c
  let s3 := (y.cmds.filter fun m => m.op == 2 && !m.committed && y.inBatch m).foldl (fun t m => t.commitEval c m) s2
  s3.commitModel c

/-! ### Comparison drydowns (R282 to R284) -/

/-- The drydown that commits the step is a comparison drydown by its step counter or because the step is suspect (R282). -/
def State.compares (s : State) (c : Nat) : Bool :=
  let x := s.ctxAt c
  s.replicated c && !x.expelled && (s.stepOf c % s.interval c == 0 || x.suspect)
/-- Order of closure entries: tenant id, then version. -/
def closureLe (a b : Closure) : Bool := decide (a.tenant < b.tenant) || (a.tenant == b.tenant && decide (a.version ≤ b.version))
/-- Insert in order, after its equals. -/
def insertClosure (k : Closure) : List Closure → List Closure
  | [] => [k]
  | y :: r => if closureLe y k then y :: insertClosure k r else k :: y :: r
/-- The payload of a CLOSURE entry (Table 12-4). -/
def closurePayload (k : Closure) : List Byte :=
  leBytes 3 k.tenant ++ leBytes 1 k.kind ++ leBytes 8 k.version ++ beBytes 16 (k.own.getD 0) ++ leBytes 4 k.step
/-- Send the closure entries of a comparison drydown, then CLOSURE_END (R283). -/
def State.compareNow (s : State) (c : Nat) : State :=
    let x := s.ctxAt c
    let n := x.cmpNo + 1
    let addr := 0x20000 + 0x10000 * s.repIndex c
    let out := ((x.closures.filter fun k => k.own.isSome && !k.sent).foldl (fun l k => insertClosure k l) []).take 2047
    let s1 := out.zipIdx.foldl (fun t e => t.sendFlow (s.repFlow c) 8 7 (addr + 32 * (e.2 + 1)) 3 (closurePayload e.1) false true) s
    let s2 := s1.sendFlow (s.repFlow c) 8 7 addr 4 (leBytes 4 n ++ leBytes 4 out.length ++ List.replicate 24 0) false true
    s2.modCtx c fun y => { y with
      cmpNo := n, cmpOpen := true, cmpAt := s.g,
      closures := y.closures.map fun k =>
        if out.contains k then { k with sent := true, since := if k.since = 0 then n else min k.since n } else k }
/-- The comparison of a drydown that commits a step (R282). -/
def State.compare (s : State) (c : Nat) : State := if s.compares c then s.compareNow c else s

/-! ### The deadline monitor (R210, R211, Table 9-11) -/

/-- A signed 64-bit value as the entry stores it. -/
def int64 (v : Int) : Nat := (v % (2 ^ 64 : Int)).toNat
/-- The slacks of a context: its own deadline and those of its evaluation commands. -/
def State.slacks (s : State) (c : Nat) : List Int :=
  let x := s.ctxAt c
  let cfg := s.odGet (kDlCfg c)
  let w := if x.fallback then bits cfg 255 192 else bits cfg 191 128
  let own := bits cfg 63 0
  (if own = 0 then [] else [(own : Int) - (s.g + bits cfg 287 256 * w : Nat)])
    ++ (x.cmds.filter fun m => m.op == 2 && m.deadline != 0 && !m.committed && x.inBatch m).map fun m =>
      (m.deadline : Int) - (s.g + (m.maxNew - m.produced) * w : Nat)
/-- The least of a list. -/
def leastInt : List Int → Option Int
  | [] => none
  | a :: r => some (r.foldl min a)
/-- The monitor at a drydown, once the commit has been recorded: SLACK is computed at every one; in replay mode it raises no event
and makes no decision (R210, R211). -/
def State.deadline (s : State) (c : Nat) : State :=
  let cfg0 := s.odGet (kDlCfg c)
  let s1 := s.odSet (kDlCfg c) (setBits cfg0 287 256 (bits cfg0 287 256 - 1))
  let x := s1.ctxAt c
  match leastInt (s1.slacks c) with
  | none => s1
  | some k =>
    let cfg := s1.odGet (kDlCfg c)
    let s2 := s1.odSet (kDlSlack c) (int64 k)
    if x.replay then s2
    else
      let can := x.fbProg.isSome && !x.fallback
      let s3 := if k < (bits cfg 127 64 : Nat) then
          (let t := s2.event .ctx 5
           if can then ((t.modCtx c fun y => { y with fallbackNext := true }).odSet (kDlCfg c)
             (setBits cfg 287 256 (bits cfg 319 288))).event .ctx 7 else t)
        else s2
      if k < 0 ∧ !can ∧ !x.missRaised then (s3.modCtx c fun y => { y with missRaised := true }).event .ctx 6 else s3

/-! ### Weight switches at a drydown (R326, R327) -/

/-- A counted old-epoch step; at the DRAIN_STEPS-th the open work of the old epoch is cut with EPOCH_CUT (R327). -/
def State.drain (s : State) (c : Nat) : State :=
  let x := s.ctxAt c
  if !x.draining then s
  else
    let n := x.drainCount + 1
    let s1 := (s.modCtx c fun y => { y with drainCount := n }).odSetBits (kEpochStatus c) 15 0 (min n 65535)
    if n < s.odGet kDrainSteps then s1
    else
      let cut := x.cmds.filter fun m => !m.committed
      cut.foldl (fun t m => ((t.dropCmd c { m with cut := true } 3).bump kEpochCuts 1).event .flacon 2) s1

/-! ### Checkpoints (R311) -/

/-- An entry of a checkpoint before it is copied: kind, owner, version, tier, physical address, size. -/
structure CkptItem where
  kind : Nat
  owner : Nat
  version : Nat
  base : Bool
  addr : Nat
  size : Nat
deriving DecidableEq, Repr

/-- What a checkpoint of a context holds: program-owned EPOCH regions closed at the commit; each bound tenant's image at
HIST_POS and its tenant context entry. -/
def State.ckptItems (s : State) (c : Nat) (closed : List Region) : List CkptItem :=
  let x := s.ctxAt c
  ((closed.filter fun r => r.kind == 1 && r.owner == 0xFFFFFF).map fun r => ⟨2, r.owner, r.version, r.base, x.regionAddr r, r.size⟩)
    ++ x.slots.flatMap fun q =>
      let e := q.entry
      [⟨1, s.tctId e, s.tct e 48 4, true, s.imageAddr e (s.tct e 7 1), s.tct e 24 4 * 65536⟩,
       ⟨3, s.tctId e, s.tct e 48 4, true, s.tctAddr e, 128⟩]
/-- A multiple of 64 KiB not below `n`. -/
def up64k (n : Nat) : Nat := (n + 65535) / 65536 * 65536
/-- The offsets of the copies: after the header and the table, each a multiple of 64 KiB. -/
def ckptOffsets : Nat → List CkptItem → List Nat
  | _, [] => []
  | o, i :: r => o :: ckptOffsets (up64k (o + i.size)) r
/-- The 64-byte table entry of an item at an offset, with the hash of its bytes. -/
def CkptItem.entryBytes (i : CkptItem) (off : Nat) (bs : List Byte) : List Byte :=
  leBytes 1 i.kind ++ leBytes 3 0 ++ leBytes 4 i.owner ++ leBytes 8 i.version ++ leBytes 8 off ++ leBytes 8 i.size ++ sha3 bs
/-- Write a context's checkpoint at its commit. `ckpt` then holds, with kind 0, the tenants whose queues stop while the copy
runs, and the keys whose confirmation makes it valid. -/
def State.checkpoint (s : State) (c : Nat) (closed : List Region) : State :=
  let x := s.ctxAt c
  if !x.snapReq then s
  else
    let s0 := s.modCtx c fun y => { y with snapReq := false }
    let base := s.odBits (kCkptCfg c) 63 0
    let size := s.odBits (kCkptCfg c) 127 64 * 65536
    let l := s.ckptItems c closed
    let offs := ckptOffsets (up64k (128 + 64 * l.length)) l
    let total := (l.zip offs).foldl (fun n e => max n (e.2 + e.1.size)) (128 + 64 * l.length)
    let s1 := s0.odSet (kCkptState c) (s.stepOf c)
    if size < total then s1.ckptAbandon c
    else
      let tab := (l.zip offs).flatMap fun e => e.1.entryBytes e.2 (s.tierBytes e.1.base e.1.addr e.1.size)
      let hdr := leBytes 2 1 ++ leBytes 1 0 ++ leBytes 1 c ++ leBytes 4 l.length ++ leBytes 8 (s.stepOf c) ++ s.runNonce c
        ++ (x.digests.take 32) ++ leBytes 8 total ++ leBytes 8 s.g ++ beBytes 16 x.latched.digest ++ sha3 tab
      let s2 := (l.zip offs).foldl (fun t e => t.devWrite true (base + e.2) (s.tierBytes e.1.base e.1.addr e.1.size)) s1
      (s2.devWrite true base (hdr ++ tab)).modCtx c fun y => { y with
        ckpt := (y.slots.map fun q => (q.entry, 0, s.tct q.entry 7 1)) ++ y.closures.filterMap fun k => if k.own.isSome ∧ k.kind ≠ 2 then
          (some ((((y.cmds.find? fun m => m.isKey k).map OpenCmd.entry).getD (2 ^ 20)), k.kind, k.version))
          else none }
/-- CHECKPOINT_COPY_DONE (R311): the copy is complete and awaits the confirmation of its keys. -/
def execCheckpointCopyDone (c : Fin 256) (s : State) : Host.Outcome State Fault Refusal :=
  .next (whenLive s (if s.ckptState c = 0 ∧ s.odGet (kCkptState c) ≠ 0 then
    ((s.modCtx c fun x => { x with ckpt := x.ckpt.filter fun q => q.2.1 != 0 }).setCkpt c 1).ckptCheck c else s))

/-! ### Test windows (R307) -/

/-- The count of the next armed START of a context. -/
def State.nextStart (s : State) (c : Nat) : Option Nat :=
  ((List.range 64).filterMap fun e =>
    let v := s.launch e
    if armed v ∧ lAction v = 1 ∧ lTarget v = c then some (lCount v) else none).min?
/-- Live ranges of the step boundary are saved, as under R207, before a test in a test window; the end of the tests restores them
(R307). -/
def State.windowSave (s : State) (c : Nat) : State :=
  if ((s.ctxAt c).liveAt 0xFFFFFFFF).isEmpty then s
  else
    let s1 := (s.modCtx c fun x => { x with savePhase := 0xFFFFFFFF, savePtr := false, saveTime := (s.guardAt x.part).now }).writeSave c
    { s1 with jobs := { s1.jobs with winSaved := unionRising s1.jobs.winSaved [c] } }
/-- An open test window of a context: the partition's due accords are tested if the time to its next START suffices; live
ranges are saved before and restored after (R307). A self-launched context waits, and its next
step is not time-exact. -/
def State.testWindow (s0 : State) (c : Nat) : State :=
  let x := s0.ctxAt c
  let s := s0.modGuard x.part fun g => { g with window := true }
  let l := (s.jobs.due.map Prod.fst).filter fun a => s.inPart x.part a
  let need := s.odGet kTestTime + s.odGet kTestMargin + if (x.liveAt 0xFFFFFFFF).isEmpty then 0 else 2 * s.saveTk x.part
  if l.isEmpty then s
  else match s.nextStart c with
    | some n => if s.g + need ≤ n then (s.windowSave c).beginTests l .scheduled else s
    | none => ((s.windowSave c).beginTests l .scheduled).modCtx c fun y => { y with notExact := true }

/-! ### COMMIT -/

/-- What is kept of the state before a commit, until it is run-confirmed (R278). -/
def State.undoOf (s : State) (c : Nat) : Undo :=
  let x := s.ctxAt c
  { cmds := x.cmds, seqs := x.seqs, withheld := x.withheld, slots := x.slots, closures := x.closures, unconf := x.unconf,
    snap := x.snap, tct := x.slots.map fun q => (q.entry, s.tctBytes q.entry), dl := s.odGet (kDlCfg c) }
/-- The step is over: its regions, folds and exchanges are forgotten; open OUTPUT regions are kept. -/
def State.endStep (s : State) (c : Nat) (closed : List Region) : State :=
  s.modCtx c fun x => { x with
    inStep := false, phasesDone := false, dry := .none, sealed_ := false, folds := [], flowGot := [],
    verdicts := [], prevCommitted := true, regionFault := false, built := false,
    snap := { outputs := x.regions.filter fun r => r.kind == 2 && !closed.contains r, nose := [] },
    regions := [] }
/-- The tenant of a sequence is marked HELD (R189). -/
def State.heldSeq (s : State) (c : Nat) (e : SeqEntry) : Bool :=
  match (s.ctxAt c).slots.find? fun q => q.slot == e.slot with
  | some q => s.tctHeld q.entry
  | none => false
/-- Steps 1 and 2 of the next build (R201). The decoding sequences of a tenant marked HELD are withheld from the batch, and come
back once the host readmits the tenant and there is room for them beside those that remain (R189). -/
def State.carryOver (s : State) (c : Nat) : State :=
  let x := s.ctxAt c
  let goesOn := fun (e : SeqEntry) => e.evalSeq && x.cmds.any fun m =>
    m.queue == e.queue && m.seq == e.cmdSeq && !m.committed && !m.aborted && !m.cut
  let now := (x.seqs.filter goesOn).map SeqEntry.ran
  let old := x.withheld.filter goesOn
  let l := (now ++ old).filter fun e => !s.heldSeq c e
  let q := s.carry c l []
  (s.modCtx c fun y => { y with withheld := (now ++ old).filter (s.heldSeq c) ++ q.2, seqs := q.1 }).unbindIdle c
/-- The build at a commit: it completes within ADMIT_TIME of the DRYDOWN, so that before that count whether it is complete
is a free value (R201). -/
def State.commitBuild (s : State) (c : Nat) : State :=
  let s1 := s.carryOver c
  if s.g < (s.ctxAt c).dryAt + s.odGet kAdmitTime then
    (let (b, s2) := s1.drawBool
     if b then s2.build c else s2.modCtx c fun x => { x with buildPending := true })
  else s1.build c
/-- A held-back completion counts a stall each step (R198). -/
def State.stallCount (s : State) : State := if s.heldCompl.isEmpty then s else (s.bump kCqStall 1).event .ctx 8

/-- A context is at a step boundary and a request waits: it is saved (R206). The drydown of that step is a comparison drydown
(R282): `compared` tells whether it has been one. -/
def State.boundarySave (s : State) (c : Nat) (compared : Bool) : State :=
  let x := s.ctxAt c
  if x.preempt ∧ x.st = .running ∧ s.boundaryPoint c then
    (if compared || !s.replicated c || x.expelled then s else (s.compareNow c).decideAll c |>.endCompare c).beginSave c 0xFFFFFFFF
  else s

/-- Record the commit of a step whose run verdict is PASS. -/
def State.commit (s : State) (c : Nat) : State :=
  let x := s.ctxAt c
  let n := s.stepOf c
  if x.st ≠ .running ∨ x.dry ≠ .commit then s
  else
    let closed := s.closing c
    let u := s.undoOf c
    let s1 := ((s.modCtx c Ctx.markCmds).commitResults c).noseCommit c
    let s2 := (s1.checkpoint c closed).endStep c closed
    let s3 := (s2.odSetBits (kDryState c) 63 0 n).compare c
    let s4 := if x.flag 0 then s3.modCtx c fun y => { y with undo := some u } else s3.runConfirm c n
    let s5 := (((s4.decideAll c).endCompare c).deadline c).drain c
    let open_ := (s5.ctxAt c).cmds.any fun m => !m.committed
    let s6 := ((s5.modCtx c fun y => { y with switchOk := s5.switchMark c && !open_ }).commitBuild c).stallCount
    let s7 := s6.modCtx c fun y => { y with suspect := false, notExact := false, testReq := false }
    (if x.testReq then s7.testWindow c else s7).boundarySave c (x.cmpNo != (s3.ctxAt c).cmpNo)
/-- COMMIT. -/
def execCommit (c : Fin 256) (s : State) : Host.Outcome State Fault Refusal := .next (whenLive s (s.commit c))

end Sys2Proof.Machine
end

