-- ==== Sys2Proof/Machine/Sha2.lean ====
section
/-!
DEFINITION. SHA-256, SHA-384 and SHA-512 of FIPS 180-4, HMAC-SHA-512 and the mask generation function MGF1, which the manual names and
does not restate (R322, R334, R348; log entry 11).
-/
namespace Sys2Proof.Machine

/-- The round constants of SHA-512; those of SHA-256 are their upper halves, the first 64. -/
def sha512K : List Nat := [
  0x428A2F98D728AE22, 0x7137449123EF65CD, 0xB5C0FBCFEC4D3B2F, 0xE9B5DBA58189DBBC, 0x3956C25BF348B538,
  0x59F111F1B605D019, 0x923F82A4AF194F9B, 0xAB1C5ED5DA6D8118, 0xD807AA98A3030242, 0x12835B0145706FBE,
  0x243185BE4EE4B28C, 0x550C7DC3D5FFB4E2, 0x72BE5D74F27B896F, 0x80DEB1FE3B1696B1, 0x9BDC06A725C71235,
  0xC19BF174CF692694, 0xE49B69C19EF14AD2, 0xEFBE4786384F25E3, 0x0FC19DC68B8CD5B5, 0x240CA1CC77AC9C65,
  0x2DE92C6F592B0275, 0x4A7484AA6EA6E483, 0x5CB0A9DCBD41FBD4, 0x76F988DA831153B5, 0x983E5152EE66DFAB,
  0xA831C66D2DB43210, 0xB00327C898FB213F, 0xBF597FC7BEEF0EE4, 0xC6E00BF33DA88FC2, 0xD5A79147930AA725,
  0x06CA6351E003826F, 0x142929670A0E6E70, 0x27B70A8546D22FFC, 0x2E1B21385C26C926, 0x4D2C6DFC5AC42AED,
  0x53380D139D95B3DF, 0x650A73548BAF63DE, 0x766A0ABB3C77B2A8, 0x81C2C92E47EDAEE6, 0x92722C851482353B] ++ [
  0xA2BFE8A14CF10364, 0xA81A664BBC423001, 0xC24B8B70D0F89791, 0xC76C51A30654BE30, 0xD192E819D6EF5218,
  0xD69906245565A910, 0xF40E35855771202A, 0x106AA07032BBD1B8, 0x19A4C116B8D2D0C8, 0x1E376C085141AB53,
  0x2748774CDF8EEB99, 0x34B0BCB5E19B48A8, 0x391C0CB3C5C95A63, 0x4ED8AA4AE3418ACB, 0x5B9CCA4F7763E373,
  0x682E6FF3D6B2B8A3, 0x748F82EE5DEFB2FC, 0x78A5636F43172F60, 0x84C87814A1F0AB72, 0x8CC702081A6439EC,
  0x90BEFFFA23631E28, 0xA4506CEBDE82BDE9, 0xBEF9A3F7B2C67915, 0xC67178F2E372532B, 0xCA273ECEEA26619C,
  0xD186B8C721C0C207, 0xEADA7DD6CDE0EB1E, 0xF57D4F7FEE6ED178, 0x06F067AA72176FBA, 0x0A637DC5A2C898A6,
  0x113F9804BEF90DAE, 0x1B710B35131C471B, 0x28DB77F523047D84, 0x32CAAB7B40C72493, 0x3C9EBE0A15C9BEBC,
  0x431D67C49C100D4C, 0x4CC5D4BECB3E42B6, 0x597F299CFC657E2A, 0x5FCB6FAB3AD6FAEC, 0x6C44198C4A475817]
/-- What tells SHA-256 from SHA-512: the rotations of its functions (the last of each small one is a shift), and its constants. -/
structure ShaKind (w : Nat) where
  up0 : Nat × Nat × Nat
  up1 : Nat × Nat × Nat
  low0 : Nat × Nat × Nat
  low1 : Nat × Nat × Nat
  consts : List (BitVec w)
/-- SHA-256. -/
def sha256Kind : ShaKind 32 :=
  ⟨(2, 13, 22), (6, 11, 25), (7, 18, 3), (17, 19, 10), (sha512K.take 64).map fun k => BitVec.ofNat 32 (k / 2 ^ 32)⟩
/-- SHA-512 and SHA-384. -/
def sha512Kind : ShaKind 64 := ⟨(28, 34, 39), (14, 18, 41), (1, 8, 7), (19, 61, 6), sha512K.map (BitVec.ofNat 64)⟩

/-- An upper sigma function. -/
def shaUp {w : Nat} (r : Nat × Nat × Nat) (x : BitVec w) : BitVec w := x.rotateRight r.1 ^^^ x.rotateRight r.2.1 ^^^ x.rotateRight r.2.2
/-- A lower sigma function. -/
def shaLow {w : Nat} (r : Nat × Nat × Nat) (x : BitVec w) : BitVec w := x.rotateRight r.1 ^^^ x.rotateRight r.2.1 ^^^ x >>> r.2.2
/-- The working variables. -/
structure ShaVars (w : Nat) where
  a : BitVec w
  b : BitVec w
  c : BitVec w
  d : BitVec w
  e : BitVec w
  f : BitVec w
  g : BitVec w
  h : BitVec w
/-- One round with its constant and its word of the message schedule. -/
def shaRound {w : Nat} (q : ShaKind w) (v : ShaVars w) (kw : BitVec w × BitVec w) : ShaVars w :=
  let t1 := v.h + shaUp q.up1 v.e + ((v.e &&& v.f) ^^^ (~~~v.e &&& v.g)) + kw.1 + kw.2
  let t2 := shaUp q.up0 v.a + ((v.a &&& v.b) ^^^ (v.a &&& v.c) ^^^ (v.b &&& v.c))
  ⟨t1 + t2, v.a, v.b, v.c, v.d + t1, v.e, v.f, v.g⟩
/-- The message schedule, latest word first, with `n` more words. -/
def shaWords {w : Nat} (q : ShaKind w) : Nat → List (BitVec w) → List (BitVec w)
  | 0, l => l
  | n + 1, l => shaWords q n
      ((shaLow q.low1 (l.getD 1 0) + l.getD 6 0 + shaLow q.low0 (l.getD 14 0) + l.getD 15 0) :: l)
/-- The big-endian words of bytes. -/
def shaChunk (w : Nat) (l : List Byte) : List (BitVec w) :=
  (List.range (l.length / (w / 8))).map fun i => BitVec.ofNat w (beNat ((l.drop (w / 8 * i)).take (w / 8)))
/-- The hash value after one block. -/
def shaBlock {w : Nat} (q : ShaKind w) (v : ShaVars w) (l : List Byte) : ShaVars w :=
  let words := (shaWords q (q.consts.length - 16) (shaChunk w l).reverse).reverse
  let u := (q.consts.zip words).foldl (shaRound q) v
  ⟨v.a + u.a, v.b + u.b, v.c + u.c, v.d + u.d, v.e + u.e, v.f + u.f, v.g + u.g, v.h + u.h⟩
/-- A message padded to whole blocks of `2 w` bytes. -/
def shaPad (w : Nat) (l : List Byte) : List Byte :=
  let z := (2 * w - (l.length + 1 + w / 4) % (2 * w)) % (2 * w)
  l ++ 0x80#8 :: List.replicate z 0 ++ beBytes (w / 4) (8 * l.length)
/-- The hash value of a padded message. -/
def shaRun {w : Nat} (q : ShaKind w) : Nat → ShaVars w → List Byte → ShaVars w
  | 0, v, _ => v
  | n + 1, v, l => shaRun q n (shaBlock q v (l.take (2 * w))) (l.drop (2 * w))
/-- The bytes of a hash value. -/
def ShaVars.bytes {w : Nat} (v : ShaVars w) : List Byte :=
  [v.a, v.b, v.c, v.d, v.e, v.f, v.g, v.h].flatMap fun x => beBytes (w / 8) x.toNat
/-- A hash of a message from an initial value. -/
def shaOf {w : Nat} (q : ShaKind w) (iv : ShaVars w) (msg : List Byte) : List Byte :=
  let l := shaPad w msg
  (shaRun q (l.length / (2 * w)) iv l).bytes

/-- SHA-256. -/
def sha256 (msg : List Byte) : List Byte := shaOf sha256Kind
  ⟨0x6A09E667, 0xBB67AE85, 0x3C6EF372, 0xA54FF53A, 0x510E527F,
   0x9B05688C, 0x1F83D9AB, 0x5BE0CD19⟩ msg
/-- SHA-512. -/
def sha512 (msg : List Byte) : List Byte := shaOf sha512Kind
  ⟨0x6A09E667F3BCC908, 0xBB67AE8584CAA73B, 0x3C6EF372FE94F82B, 0xA54FF53A5F1D36F1,
   0x510E527FADE682D1, 0x9B05688C2B3E6C1F, 0x1F83D9ABFB41BD6B, 0x5BE0CD19137E2179⟩ msg
/-- SHA-384. -/
def sha384 (msg : List Byte) : List Byte := (shaOf sha512Kind
  ⟨0xCBBB9D5DC1059ED8, 0x629A292A367CD507, 0x9159015A3070DD17, 0x152FECD8F70E5939,
   0x67332667FFC00B31, 0x8EB44A8768581511, 0xDB0C2E0D64F98FA7, 0x47B5481DBEFA4FA4⟩ msg).take 48

/-- HMAC-SHA-512 with a key of at most 128 bytes. -/
def hmac512 (key msg : List Byte) : List Byte :=
  let k := (key ++ List.replicate 128 0).take 128
  sha512 (k.map (· ^^^ 0x5C#8) ++ sha512 (k.map (· ^^^ 0x36#8) ++ msg))
/-- The first `n` bytes of MGF1 with a hash of `len` bytes. -/
def mgf1 (hash : List Byte → List Byte) (len : Nat) (seed : List Byte) (n : Nat) : List Byte :=
  ((List.range ((n + len - 1) / len)).flatMap fun c => hash (seed ++ beBytes 4 c)).take n

end Sys2Proof.Machine
end

