-- ==== Sys2Proof/Machine/Rsa.lean ====
section
/-!
DEFINITION. RSASSA-PSS of PKCS#1 v2.2 with SHA-384, MGF1 with SHA-384 and a salt of 48 bytes (R321, R322 step 4, R334; log entry 11).
-/
namespace Sys2Proof.Machine

/-- `b` to the power `e` modulo `n`, for an exponent of at most `f` bits. -/
def powMod (n : Nat) : (f b e : Nat) → Nat
  | 0, _, _ => 1 % n
  | f + 1, b, e => if e = 0 then 1 % n else
      (let h := powMod n f (b * b % n) (e / 2)
       if e % 2 = 1 then b * h % n else h)
/-- The bits of a number. -/
def numBits (n : Nat) : Nat := if n = 0 then 0 else Nat.log2 n + 1
/-- Bytes combined by exclusive or. -/
def xorBytes (a b : List Byte) : List Byte := List.zipWith (· ^^^ ·) a b
/-- The first byte with its `z` highest bits zero. -/
def clearTop (z : Nat) : List Byte → List Byte
  | [] => []
  | b :: l => BitVec.ofNat 8 (b.toNat % 2 ^ (8 - z)) :: l
/-- The hash over a message's hash and its salt. -/
def pssHash (msg salt : List Byte) : List Byte := sha384 (List.replicate 8 0 ++ sha384 msg ++ salt)
/-- The data block before its salt: zeros and a one. -/
def pssLead (emLen : Nat) : List Byte := List.replicate (emLen - 98) 0 ++ [0x01#8]
/-- EMSA-PSS encoding for a modulus of `modBits` bits. -/
def pssEncode (modBits : Nat) (msg salt : List Byte) : List Byte :=
  let emLen := (modBits + 6) / 8
  let h := pssHash msg salt
  let db := pssLead emLen ++ salt
  clearTop (8 * emLen - (modBits - 1)) (xorBytes db (mgf1 sha384 48 h (emLen - 49))) ++ h ++ [0xBC#8]
/-- EMSA-PSS verification of an encoded message. -/
def pssVerify (modBits : Nat) (msg em : List Byte) : Bool :=
  let emLen := (modBits + 6) / 8
  let z := 8 * emLen - (modBits - 1)
  let masked := em.take (emLen - 49)
  let h := (em.drop (emLen - 49)).take 48
  let db := clearTop z (xorBytes masked (mgf1 sha384 48 h (emLen - 49)))
  decide (98 ≤ emLen) && em.getLast? == some 0xBC#8 && clearTop z masked == masked && db.take (emLen - 97) == pssLead emLen
    && h == pssHash msg (db.drop (emLen - 97))
/-- RSASSA-PSS verification: modulus, most significant byte first, exponent, message, signature. -/
def rsaVerify (modulus : List Byte) (exponent : Nat) (msg sig : List Byte) : Bool :=
  let n := beNat modulus
  let k := (numBits n + 7) / 8
  let emLen := (numBits n + 6) / 8
  let m := powMod n 32 (beNat sig) exponent
  decide (sig.length = k ∧ beNat sig < n ∧ m < 256 ^ emLen) && pssVerify (numBits n) msg (beBytes emLen m)
/-- RSASSA-PSS signature of 384 bytes with a private exponent and a salt. -/
def rsaSign (modulus : List Byte) (d : Nat) (salt msg : List Byte) : List Byte :=
  let n := beNat modulus
  beBytes 384 (powMod n (numBits n) (beNat (pssEncode (numBits n) msg salt)) d)

/-! ### The identity key (R333) -/

/-- The inverse of `e` modulo `m` by the extended algorithm of Euclid: `fuel` bounds its steps. -/
def invGo (m : Nat) : (fuel a b : Nat) → (x y : Int) → Nat
  | 0, _, _, _, _ => 0
  | f + 1, a, b, x, y => if b = 0 then (x % (m : Int)).toNat else invGo m f b (a % b) y (x - (a / b : Nat) * y)
/-- The modulus of the identity key, most significant byte first. -/
def idModulus : List Byte := beBytes 384 (Config.idRsaPrimes.1 * Config.idRsaPrimes.2)
/-- ID_RSA_PUB: the modulus and the exponent (R321, Table 14-6). -/
def idRsaPub : List Byte := idModulus ++ leBytes 4 65537
/-- The private exponent. -/
def idRsaExp : Nat :=
  let m := Nat.lcm (Config.idRsaPrimes.1 - 1) (Config.idRsaPrimes.2 - 1)
  invGo m 6144 (65537 % m) m 1 0
/-- A signature with the identity key. -/
def idRsaSign (salt msg : List Byte) : List Byte := rsaSign idModulus idRsaExp salt msg

end Sys2Proof.Machine
end

