-- ==== Sys2Proof/Machine/SlhDsa.lean ====
section
/-!
DEFINITION. SLH-DSA-SHA2-192s of FIPS 205 (R321, R322 step 5, R333, R334; log entry 11): n = 24, h = 63, d = 7, h' = 9, a = 14, k = 17,
lg w = 4, m = 39.
-/
namespace Sys2Proof.Machine

/-! ### Addresses and hash functions -/

/-- An address: layer, tree, type, and the three words that follow. -/
structure SlhAddr where
  layer : Nat
  tree : Nat
  type : Nat
  w1 : Nat
  w2 : Nat
  w3 : Nat
/-- The address with another type and key pair, its other words zero. -/
def SlhAddr.as (x : SlhAddr) (type pair : Nat) : SlhAddr := { x with type := type, w1 := pair, w2 := 0, w3 := 0 }
/-- The compressed form of 22 bytes. -/
def SlhAddr.bytes (x : SlhAddr) : List Byte :=
  beBytes 1 x.layer ++ beBytes 8 x.tree ++ beBytes 1 x.type ++ beBytes 4 x.w1 ++ beBytes 4 x.w2 ++ beBytes 4 x.w3
/-- F and PRF: 24 bytes of SHA-256 over the public seed, an address and a value. -/
def slhF (seed : List Byte) (x : SlhAddr) (m : List Byte) : List Byte :=
  (sha256 (seed ++ List.replicate 40 0 ++ x.bytes ++ m)).take 24
/-- H and T: 24 bytes of SHA-512. -/
def slhH (seed : List Byte) (x : SlhAddr) (m : List Byte) : List Byte :=
  (sha512 (seed ++ List.replicate 104 0 ++ x.bytes ++ m)).take 24
/-- The digest of a message: 39 bytes. -/
def slhMsg (r seed root msg : List Byte) : List Byte :=
  mgf1 sha512 64 (r ++ seed ++ sha512 (r ++ seed ++ root ++ msg)) 39
/-- The first `n` values of `b` bits of a byte string. -/
def slhBase (l : List Byte) (b n : Nat) : List Nat :=
  let v := beNat l
  (List.range n).map fun i => v / 2 ^ (8 * l.length - b * (i + 1)) % 2 ^ b
/-- The `i`-th piece of 24 bytes. -/
def piece (l : List Byte) (i : Nat) : List Byte := (l.drop (24 * i)).take 24

/-! ### WOTS+ -/

/-- `s` steps of a chain from place `i`. -/
def slhChain (seed : List Byte) (x : SlhAddr) : (s i : Nat) → List Byte → List Byte
  | 0, _, m => m
  | s + 1, i, m => slhChain seed x s (i + 1) (slhF seed { x with w3 := i } m)
/-- The 51 digits of a message with its check sum. -/
def wotsDigits (m : List Byte) : List Nat :=
  let l := slhBase m 4 48
  l ++ slhBase (beBytes 2 ((l.map (15 - ·)).sum * 16)) 4 3
/-- The public key that the ends of the chains make. -/
def wotsRoot (seed : List Byte) (x : SlhAddr) (ends : List (List Byte)) : List Byte := slhH seed (x.as 1 x.w1) ends.flatten
/-- The public key from a signature; `x` has type 0 and its key pair. -/
def wotsFromSig (seed : List Byte) (x : SlhAddr) (sig m : List Byte) : List Byte :=
  wotsRoot seed x ((wotsDigits m).zipIdx.map fun e => slhChain seed { x with w2 := e.2 } (15 - e.1) e.1 (piece sig e.2))
/-- The secret of a chain. -/
def wotsSecret (sk seed : List Byte) (x : SlhAddr) (i : Nat) : List Byte := slhF seed { x.as 5 x.w1 with w2 := i } sk
/-- The chains of a key pair up to the given places. -/
def wotsChains (sk seed : List Byte) (x : SlhAddr) (places : List Nat) : List (List Byte) :=
  places.zipIdx.map fun e => slhChain seed { x with w2 := e.2 } e.1 0 (wotsSecret sk seed x e.2)

/-! ### Merkle trees -/

/-- Climb from a leaf with its authentication path: `i` is the index of the node within its level. -/
def slhClimb (seed : List Byte) (x : SlhAddr) : (path : List (List Byte)) → (height i : Nat) → List Byte → List Byte
  | [], _, _, m => m
  | p :: r, z, i, m =>
    slhClimb seed x r (z + 1) (i / 2) (slhH seed { x with w2 := z + 1, w3 := i / 2 } (if i % 2 = 0 then m ++ p else p ++ m))
/-- A node of a tree of height `z` at index `i`, given its leaves. -/
def slhNode (seed : List Byte) (x : SlhAddr) (leaf : Nat → List Byte) : (z i : Nat) → List Byte
  | 0, i => leaf i
  | z + 1, i => slhH seed { x with w2 := z + 1, w3 := i } (slhNode seed x leaf z (2 * i) ++ slhNode seed x leaf z (2 * i + 1))
/-- The authentication path of leaf `i` in a tree of height `n`. -/
def slhPath (seed : List Byte) (x : SlhAddr) (leaf : Nat → List Byte) (n i : Nat) : List Byte :=
  (List.range n).flatMap fun j => slhNode seed x leaf j ((i / 2 ^ j) ^^^ 1)
/-- The pieces of a path. -/
def pieces (l : List Byte) (n : Nat) : List (List Byte) := (List.range n).map (piece l)

/-- The root of an XMSS tree from a signature of 60 pieces at leaf `i`; `x` names layer and tree. -/
def xmssFromSig (seed : List Byte) (x : SlhAddr) (i : Nat) (sig m : List Byte) : List Byte :=
  slhClimb seed (x.as 2 0) (pieces (sig.drop (24 * 51)) 9) 0 i (wotsFromSig seed (x.as 0 i) sig m)
/-- A leaf of an XMSS tree. -/
def xmssLeaf (sk seed : List Byte) (x : SlhAddr) (i : Nat) : List Byte :=
  wotsRoot seed (x.as 0 i) (wotsChains sk seed (x.as 0 i) (List.replicate 51 15))
/-- An XMSS signature. -/
def xmssSign (sk seed : List Byte) (x : SlhAddr) (i : Nat) (m : List Byte) : List Byte :=
  (wotsChains sk seed (x.as 0 i) (wotsDigits m)).flatten ++ slhPath seed (x.as 2 0) (xmssLeaf sk seed x) 9 i
/-- The root of the hypertree from the signatures of its remaining layers. -/
def htFromSig (seed : List Byte) : (n layer tree leaf : Nat) → (sig m : List Byte) → List Byte
  | 0, _, _, _, _, m => m
  | n + 1, j, t, i, sig, m =>
    htFromSig seed n (j + 1) (t / 512) (t % 512) (sig.drop (24 * 60)) (xmssFromSig seed ⟨j, t, 0, 0, 0, 0⟩ i (sig.take (24 * 60)) m)
/-- The hypertree signature of the remaining layers. -/
def htSign (sk seed : List Byte) : (n layer tree leaf : Nat) → (m : List Byte) → List Byte
  | 0, _, _, _, _ => []
  | n + 1, j, t, i, m =>
    let x : SlhAddr := ⟨j, t, 0, 0, 0, 0⟩
    let s := xmssSign sk seed x i m
    s ++ htSign sk seed n (j + 1) (t / 512) (t % 512) (xmssFromSig seed x i s m)

/-! ### FORS -/

/-- The FORS public key that its roots make. -/
def forsRoot (seed : List Byte) (x : SlhAddr) (roots : List (List Byte)) : List Byte := slhH seed (x.as 4 x.w1) roots.flatten
/-- The FORS public key from a signature: 17 trees of height 14; `x` has type 3 and its key pair. -/
def forsFromSig (seed : List Byte) (x : SlhAddr) (sig md : List Byte) : List Byte :=
  forsRoot seed x ((slhBase md 14 17).zipIdx.map fun e =>
    let s := sig.drop (24 * 15 * e.2)
    slhClimb seed x (pieces (s.drop 24) 14) 0 (e.2 * 2 ^ 14 + e.1) (slhF seed { x with w3 := e.2 * 2 ^ 14 + e.1 } (piece s 0)))
/-- A FORS secret. -/
def forsSecret (sk seed : List Byte) (x : SlhAddr) (i : Nat) : List Byte := slhF seed { x.as 6 x.w1 with w3 := i } sk
/-- A FORS signature. -/
def forsSign (sk seed : List Byte) (x : SlhAddr) (md : List Byte) : List Byte :=
  (slhBase md 14 17).zipIdx.flatMap fun e =>
    let i := e.2 * 2 ^ 14 + e.1
    forsSecret sk seed x i ++ slhPath seed x (fun q => slhF seed { x with w3 := q } (forsSecret sk seed x q)) 14 i

/-! ### Signatures -/

/-- The message that pure SLH-DSA with an empty context signs. -/
def slhPure (msg : List Byte) : List Byte := 0x00#8 :: 0x00#8 :: msg
/-- What a digest names: the FORS message, the tree and the leaf. -/
def slhSplit (dg : List Byte) : List Byte × Nat × Nat :=
  (dg.take 30, beNat ((dg.drop 30).take 7) % 2 ^ 54, beNat ((dg.drop 37).take 2) % 2 ^ 9)
/-- slh_verify: public key (seed, root), message, signature. -/
def slhVerify (key msg sig : List Byte) : Bool :=
  let seed := key.take 24
  let root := (key.drop 24).take 24
  let r := sig.take 24
  let (md, t, i) := slhSplit (slhMsg r seed root (slhPure msg))
  let fors := forsFromSig seed ⟨0, t, 3, i, 0, 0⟩ ((sig.drop 24).take (24 * 255)) md
  decide (sig.length = 16224) && htFromSig seed 7 0 t i (sig.drop (24 * 256)) fors == root
/-- slh_sign with the secret seed, the secret of its randomiser, and 24 random bytes. -/
def slhSign (sk prf key rand msg : List Byte) : List Byte :=
  let seed := key.take 24
  let m := slhPure msg
  let r := (hmac512 prf (rand ++ m)).take 24
  let (md, t, i) := slhSplit (slhMsg r seed ((key.drop 24).take 24) m)
  let x : SlhAddr := ⟨0, t, 3, i, 0, 0⟩
  let f := forsSign sk seed x md
  r ++ f ++ htSign sk seed 7 0 t i (forsFromSig seed x f md)

/-! ### The identity key (R333) -/

/-- ID_SLH_PUB: the public seed, and the root of the top tree of the hypertree. -/
def idSlhPub : List Byte :=
  let seed := piece Config.idSlhSeeds 2
  let x : SlhAddr := ⟨6, 0, 0, 0, 0, 0⟩
  seed ++ slhNode seed (x.as 2 0) (xmssLeaf (piece Config.idSlhSeeds 0) seed x) 9 0
/-- A signature with the identity key. -/
def idSlhSign (rand msg : List Byte) : List Byte := slhSign (piece Config.idSlhSeeds 0) (piece Config.idSlhSeeds 1) idSlhPub rand msg

end Sys2Proof.Machine
end

