-- ==== Sys2Proof/Machine/OdView.lean ====
section
/-!
DEFINITION. What the object dictionary shows: which entries exist (R359), the values that are derived from the rest of
the state, the bytes of a DOMAIN entry (R363), and the configuration stream of R374.
-/
namespace Sys2Proof.Machine

/-! ### Existence (R359) -/

/-- An entry that a table lists is one of this grade and population. -/
def State.odPresent (s : State) (index sub : Nat) : Bool :=
  if index = 0x1001 ∨ (0x2201 ≤ index ∧ index ≤ 0x2203) ∨ index = 0x6010 ∨ index = 0x6011 then decide (sub ≤ s.accords)
  else if (0x2101 ≤ index ∧ index ≤ 0x2104) ∨ (0x2301 ≤ index ∧ index ≤ 0x2303) then decide (sub ≤ 4 * s.accords)
  else if 0x2410 ≤ index ∧ index ≤ 0x249F then s.hasAccord (index % 16)
  else if index = 0x2510 ∨ index = 0x2520 ∨ index = 0x2530 then s.hasChipArb (sub - 1)
  else if 0x3010 ≤ index ∧ index ≤ 0x3037 then s.odBit kHeartPositions (index % 16)
  else if 0x3101 ≤ index ∧ index ≤ 0x3104 then s.odBit kBaseChannels (sub - 1)
  else if index = 0x4300 then s.isBridge || sub == 1 || sub == 5
  else true
/-- The row of an entry that exists. -/
def State.odRow (s : State) (index sub : Nat) : Option OdRow :=
  match odFind index sub with
  | some r => if s.odPresent index sub then some r else none
  | none => none

/-- Subindex 0x00 of an index whose chapter gives it one: the number of its subindices or units. -/
def State.odCount (s : State) (index : Nat) : Option Nat :=
  if (0x2101 ≤ index ∧ index ≤ 0x2104) ∨ (0x2301 ≤ index ∧ index ≤ 0x2303) then some (4 * s.accords)
  else if (0x2201 ≤ index ∧ index ≤ 0x2203) ∨ index = 0x6010 ∨ index = 0x6011 then some s.accords
  else if index = 0x1101 then some 64
  else if index = 0x1102 then some 16
  else if index = 0x1103 then some 15
  else if 0x4010 ≤ index ∧ index ≤ 0x401F then some 0x15
  else if index = 0x9010 then some 8
  else if index = 0x9011 then some 64
  else if 0xA101 ≤ index ∧ index ≤ 0xA103 then some 16
  else if (0x2610 ≤ index ∧ index ≤ 0x2615) ∨ (0x5010 ≤ index ∧ index ≤ 0x5017) ∨ (0x5210 ≤ index ∧ index ≤ 0x5213) ∨ (0x6020 ≤ index ∧ index ≤ 0x6023) ∨ (0x7100 ≤ index ∧ index ≤ 0x713F)
      ∨ (0x8010 ≤ index ∧ index ≤ 0x8017) ∨ (0xA110 ≤ index ∧ index ≤ 0xA117) then some 128
  else none

/-! ### Derived values -/

/-- The code of a context state (Table 9-1). -/
def CtxSt.code : CtxSt → Nat
  | .free => 0 | .loaded => 1 | .ready => 2 | .running => 3 | .saving => 4 | .saved => 5 | .restoring => 6 | .stopped => 7
/-- CTX_STATE of a context (Table 9-14). -/
def Ctx.stateWord (x : Ctx) : Nat :=
  x.st.code * 2 ^ 28 + b2n (x.inStep && x.notExact) * 2 ^ 27 + b2n x.fallback * 2 ^ 26 + min x.cmds.length 2047
/-- CTX_CTRL as it reads: the bits that are written as 1 read zero. -/
def Ctx.ctrlWord (x : Ctx) : Nat := b2n x.replay * 2 ^ 28 + x.part % 16

/-- The context of an entry of a family of two indices from `base`. -/
def ctxOfKey (base index sub : Nat) : Nat := (index - base) * 128 + sub - 1

/-- The granule fences of one tier as FENCE_LIST shows them (Table 7-9): 1,024 entries of U64 in order of fencing, bit 63 the
tier, unused ones all ones. -/
def State.granList (s : State) (base : Bool) : List Byte :=
  let l := (s.granFences.filter fun e => e.1 == base).map Prod.snd
  (l.flatMap (fun g => leBytes 8 (tierBit base + g % 2 ^ 26)) ++ List.replicate 8192 (0xFF#8)).take 8192
/-- The fenced units, U16 each, unused entries all ones. -/
def State.unitList (s : State) : List Byte := ((s.unitFences.flatMap (leBytes 2)) ++ List.replicate 512 (0xFF#8)).take 512

/-- The entry that FLOW_DATA shows (R243). -/
def State.flowShown (s : State) : Nat :=
  let f := s.odGet kFlowSelect
  if f = 0 ∨ 2 ^ 20 ≤ f then 0 else s.flowEnt f

/-- The entries whose default the grade or the stepping gives (R369, Tables 3-10, 4-5, 6-12, 7-9, 14-6, 16-9): the number and the presence
of the units, the read-out latency, the heart tier's capacity; the scrub intervals that R163
computes; and what production sets of the identity (R333). -/
def State.gradeValue (s : State) (k : Nat) : Option Nat :=
  if k = kAccordCount ∨ k = kVeCount then some s.accords
  else if k = kMeCount ∨ k = kPcCount then some (4 * s.accords)
  else if k = kVePresent then some (2 ^ s.accords - 1)
  else if k = kMePresent ∨ k = kPcPresent then some (2 ^ (4 * s.accords) - 1)
  else if k = kChipArbCount then some (if s.reduced then 66 else 82)
  else if k = kAccReadLat then some s.lrd
  else if k = kI3cPid then some (setBits (s.odGet k) 31 16 (if s.reduced then 0x0632 else 0x0640))
  else if k = kHeartCapacity then some (if s.reduced then 3 * 2 ^ 38 else 2 ^ 40)
  else if k = kHeartScrubInterval then some (s.scrubInterval false)
  else if k = kBaseScrubInterval then some (s.scrubInterval true)
  else if k = kIdRsaPub then some (leNat idRsaPub)
  else if k = kIdSlhPub then some (leNat idSlhPub)
  else if k = kRootDigest then some (leNat (sha3 (Config.rootKeys.take 436)))
  else if k = kIdCerts then some (leNat (Config.idCerts.take 65536))
  else none

/-- The value of an entry that is no ring: the stored one, or what the state gives it. -/
def State.odValue (s : State) (index sub : Nat) : Nat :=
  let k := index * 256 + sub
  if k = kGlobalCount then s.g
  else if k = kRecoveryDepth then s.recQ.length
  else if k = kFlashPending then min 255 s.fw.jobs.length
  else if k = kFlowData then s.flowShown
  else if k = kTctData then leNat (s.tctBytes (s.odGet kTctSelect))
  else if k = kChipManifest then leNat (manifestBytes (s.odGet kStepping) (s.chipManifest []))
  else if k = kMemFenceList then leNat (s.granList false ++ s.granList true)
  else if k = kBlotFenceList then leNat s.unitList
  else if index = 0x5010 ∨ index = 0x5011 then (s.ctxAt (ctxOfKey 0x5010 index sub)).ctrlWord
  else if index = 0x5012 ∨ index = 0x5013 then (s.ctxAt (ctxOfKey 0x5012 index sub)).stateWord
  else if 0x2480 ≤ index ∧ index ≤ 0x248F then (s.tokq (index - 0x2480) (sub - 1)).items.length
  else (s.gradeValue k).getD (s.odGet k)

/-! ### DOMAIN entries (R363) -/

/-- The rings of R339, by the key of the entry that shows each: offset in the firmware part and size. -/
def ringOf (k : Nat) : Option (Nat × Nat) :=
  if k = kBlotterRing then some (0, 0x100000)
  else if k = kProvRing then some (0x100000, 0x140000)
  else if k = kEventRing then some (0x240000, 0x20000)
  else if k = kLogRing then some (0x260000, 0x80000)
  else none
/-- An entry holds a slot-table image of an arbiter (Table 6-2), whose first byte gives its size. -/
def isImage (index : Nat) : Bool :=
  decide ((0x2410 ≤ index ∧ index ≤ 0x242F) ∨ index = 0x2510 ∨ index = 0x2520)
/-- The size of an entry in bytes: the row's, and for the bounded DOMAIN entries that of their contents. -/
def State.odSize (s : State) (r : OdRow) (index sub : Nat) : Nat :=
  if isImage index then imageSize (s.odGet (index * 256 + sub))
  else if index * 256 + sub = kAttestResult then (if s.sec.reportSeq = 0 then 0 else r.size)
  else if index * 256 + sub = kIdCerts then min 65536 Config.idCerts.length
  else if index * 256 + sub = kChipManifest then (manifestBytes 0 (s.chipManifest [])).length
  else r.size
/-- `n` bytes of an entry from byte `off`. -/
def State.odBytes (s : State) (r : OdRow) (index sub off n : Nat) : List Byte :=
  match ringOf (index * 256 + sub) with
  | some (o, _) => s.fwGet (o + off) n
  | none => ((leBytes (s.odSize r index sub) (s.odValue index sub)).drop off).take n

/-! ### The configuration stream (R374) -/

/-- Every row of every chapter's table. -/
def odRows : List OdRow :=
  odRowsIdentity ++ odRowsTime ++ odRowsPins ++ odRowsDict ++ odRowsMe ++ odRowsVe ++ odRowsPc ++ odRowsTop ++ odRowsGuard
    ++ odRowsMem ++ odRowsFabric ++ odRowsCtx ++ odRowsBlot ++ odRowsNose ++ odRowsSil ++ odRowsFw ++ odRowsSec
/-- The indices that hold CFG entries, rising. -/
def cfgIndices : List Nat :=
  ((odRows.filter fun r => r.acc == .cfg).flatMap fun r => (List.range (r.i1 + 1 - r.i0)).map (· + r.i0)).eraseDups
/-- One entry's part of the stream: its value bytes as a read returns them. -/
def State.cfgEntry (s : State) (index sub : Nat) : List Byte :=
  match s.odRow index sub with
  | some r => if r.acc = .cfg then
      leBytes 2 index ++ leBytes 1 sub ++ leBytes 4 (s.odSize r index sub) ++ s.odBytes r index sub 0 (s.odSize r index sub) else []
  | none => []
/-- One index's part of the stream. -/
def State.cfgPart (s : State) (index : Nat) : List Byte := (List.range 256).flatMap (s.cfgEntry index)
/-- The configuration CRC. -/
def State.cfgCrc (s : State) : Nat := crc32c (cfgIndices.flatMap s.cfgPart)
/-- The index CRCs. -/
def State.indexCrcs (s : State) : List (Nat × Nat) := cfgIndices.map fun i => (i, crc32c (s.cfgPart i))
/-- A commit succeeds (R375): the index references are latched, the state is COMMITTED. -/
def State.committed (s : State) : State :=
  ({ s with mgmt := { s.mgmt with crcRefs := s.indexCrcs, commitWait := false } }.odSet kConfigState 1).odSet kConfigCommit 0
/-- What a firmware job does that writes CFG entries (R376): from COMMITTED it ends with a commit against its own reference;
else its writes are left to the host's commit. -/
def cfgJob (f : State → State) (s : State) : State :=
  let t := f s
  if s.odGet kConfigState = 1 then ((t.odSet kConfigCrcRef t.cfgCrc).odSet kConfigCrcLast t.cfgCrc).committed
  else t.cfgTouched

end Sys2Proof.Machine
end

