-- ==== Sys2Proof/Machine/Launch.lean ====
section
/-!
DEFINITION. The launch table (R220 to R229): launch-entry and hold writes, START, STOP, DRYDOWN, SNAPSHOT, TEST_WINDOW,
SWITCH_WEIGHTS, waiting actions and self-launch; COUNTER_CLEAR (R234).
-/
namespace Sys2Proof.Machine

/-! ### Writes of the table (R222, R227) -/

/-- The acknowledgement of a LAUNCH packet (R255): OK, or REFUSED with a detail. -/
def State.launchAck (s : State) (via : Option Packet) (refused : Option Nat) : State :=
  match via, refused with
  | none, _ => s
  | some p, none => s.ack p 0 0
  | some p, some d => s.ack p 6 d
/-- What a LAUNCH packet of a code does, when it is well formed (R242); one of another code is another command's. -/
def viaLaunch (code : Nat) (p : Packet) (f : State → State) (s : State) : State :=
  onPacket 10 p (fun t => if p.aux.toNat % 16 = code then f t else t) s
/-- A launch-entry write, acknowledged where it came by packet. -/
def State.entryWrite (s : State) (via : Option Packet) (e v : Nat) : State :=
  (s.launchWrite e v).launchAck via (if s.launchOk e v then none else some 0x10)
/-- LAUNCH_ENTRY: through OD 0x1101, or through a LAUNCH packet, which names the entry in AUX[13:8] and carries the value as its
payload (Table 11-3). -/
def execLaunchEntry (e : Fin 64) (value : W128) (via : Option Packet) (s : State) : Host.Outcome State Fault Refusal :=
  .next (match via with
    | none => s.entryWrite none e value.toNat
    | some p => viaLaunch 1 p (fun t => t.entryWrite via (bits p.aux.toNat 13 8) (leNat (p.payload.take 16))) s)

/-- A hold write, acknowledged where it came by packet; an organ master relays the hold of another organ's master to its own
organ (R230). -/
def State.holdIn (s : State) (via : Option Packet) (v : Nat) : State :=
  let code := (s.holdPlan (bits v 127 64) (bits v 5 0) (bits v 15 8)).1
  let s1 := (s.holdWrite v).launchAck via (if code = 0 then none else some code)
  match via with
  | some p => if s.odGet kSyncRole ≠ 0 ∧ (List.range 15).any (fun i => s.odGet (kPeerMasters i) == p.srcChip) then
      s1.sendHolds (Config.organChips (s.odGet kChipId)) v else s1
  | none => s1
/-- HOLD_WRITE: through OD 0x1100.0D, or through a LAUNCH packet, which carries the value as its payload. -/
def execHoldWrite (value : W128) (via : Option Packet) (s : State) : Host.Outcome State Fault Refusal :=
  .next (match via with
    | none => s.holdIn none value.toNat
    | some p => viaLaunch 2 p (fun t => t.holdIn via (leNat (p.payload.take 16))) s)

/-! ### START (R223, R224, R228, R232) -/

/-- The epoch pointer of a 32-byte entry value (R315). -/
def epochPtr (v : Nat) : EpochPtr := ⟨bits v 7 0, bits v 127 64, beNat (leBytes 16 (bits v 255 128))⟩
/-- The active pointer. -/
def State.activePtr (s : State) (c : Nat) : EpochPtr := epochPtr (s.odGet (kEpochActive c))
/-- A START now would copy the pending pointer (R228, R229, R326). -/
def State.copies (s : State) (c : Nat) : Bool :=
  let x := s.ctxAt c
  s.switchMark c && (x.switchOk || x.cmds.all OpenCmd.committed)
/-- The pointer that a START now would latch. -/
def State.wouldLatch (s : State) (c : Nat) : EpochPtr :=
  if s.copies c then epochPtr (s.odGet (kEpochPending c)) else s.activePtr c
/-- A START must wait for the context's weight set: after a failure until it is ACTIVE again, and in a multi-chip context for a closed gate
(R331, R332). A set that a pointer names is EMPTY or LOADING only after a failure. -/
def State.setHolds (s : State) (c : Nat) : Bool :=
  let q := s.wouldLatch c
  decide (q.version ≠ 0) && (s.wsState q.set == 6 || s.wsState q.set == 0 || s.wsState q.set == 1
    || (s.wsState q.set == 5 && (s.wsAt q.set).failed)
    || ((s.ctxAt c).flag 0 && s.wsState q.set == 5 && (List.range 4096).any fun i => s.layerSt q.set i == 4))
/-- A START can take effect (Table 10-3). -/
def State.canStart (s : State) (c : Nat) : Bool :=
  let x := s.ctxAt c
  !s.setHolds c && !s.testing x.part && match x.st with
    | .running => !x.inStep
    | .loaded => s.partFree x.part
    | .ready => s.partFree x.part
    | _ => false
/-- Keep an action waiting (R224). A late DRYDOWN makes the step in progress not time-exact, a late START the step that it
begins. -/
def State.waitFor (s : State) (c code : Nat) : State :=
  let s1 := ((s.bump kLaunchLate 1).event .time 2).modCtx c fun x => { x with
    notExact := x.notExact || code == 4, launchWait := x.launchWait ++ [code] }
  if code = 1 ∧ (s1.ctxAt c).st = .loaded ∧ !s1.partFree (s1.ctxAt c).part then s1.modCtx c fun x => { x with st := .ready } else s1
/-- An action has waited and now takes effect; others that fired meanwhile wait on. -/
def State.waitOver (s : State) (c code : Nat) : State := s.modCtx c fun x => { x with launchWait := x.launchWait.erase code }

/-- Copy the pending pointer, or count the step on the old epoch (R228, R327). -/
def State.takeEpoch (s : State) (c : Nat) : State :=
  if s.copies c then
    let s1 := (s.odSet (kEpochActive c) (s.odGet (kEpochPending c))).odSet (kEpochStatus c) 0
    s1.modCtx c fun x => { x with draining := false, drainCount := 0, switchOk := false }
  else if s.switchMark c then (s.odSetBit (kEpochStatus c) 30 true).modCtx c fun x => { x with draining := true }
  else s
/-- Use the fallback program from this START on, its images and channel programs in place (R210, R211). -/
def State.takeFallback (s : State) (c : Nat) : State :=
  let x := s.ctxAt c
  let step := s.stepOf c + 1
  let want := if x.replay then decide (bits (s.odGet (kDlCfg c)) 367 320 = step ∧ step ≠ 0) else x.fallbackNext
  if want ∧ x.fbProg.isSome ∧ !x.fallback then
    (s.setCtx c { x with prog := x.fbProg, fallback := true, fallbackNext := false, switchStep := step }).placeUnits c
  else s

/-- Roll back a tenant (R286): its entry returns to the last confirmed image, its rows leave the batch, the OUTPUT regions that its
evaluations left open are forgotten, and its commands are admitted again from their first micro-batch. -/
def State.rollEntry (s : State) (c e : Nat) : State :=
  let x := s.ctxAt c
  let s1 := match x.unconf.find? fun u => u.entry == e with
    | some u => s.tctRestore e u.old
    | none => s
  let of := fun (y : Ctx) (q : SeqEntry) => y.slots.any fun z => z.slot == q.slot && z.entry == e
  s1.modCtx c fun y => { y with
    unconf := y.unconf.filter fun u => u.entry != e,
    seqs := repack (y.seqs.filter fun q => !of y q),
    withheld := y.withheld.filter fun q => !of y q,
    snap := { y.snap with outputs := y.snap.outputs.filter fun r => r.owner != s.tctId e },
    cmds := y.cmds.map fun m => if m.entry = e then
      { m with placed := 0, produced := 0, tokens := 0, committed := false, skipped := false, replayed := true, result := none }
      else m }
/-- The rollbacks that wait for this START; the running batch is built anew without the discarded sequences. -/
def State.takeRollbacks (s : State) (c : Nat) : State :=
  let x := s.ctxAt c
  if x.doRollback.isEmpty then s
  else ((x.doRollback.foldl (fun t e => t.rollEntry c e) s).modCtx c fun y => { y with doRollback := [] }).build c

/-- The batch of a starting step: the first build; or a build that is not complete, which counts ADMIT_LATE and runs with
the carried-over sequences (R201). -/
def State.takeBatch (s : State) (c : Nat) : State :=
  let x := s.ctxAt c
  if x.buildPending then
    (((s.bump kAdmitLate 1).event .ctx 0).writeBatch c (s.stepOf c + 1)).modCtx c fun y => { y with built := true, buildPending := false }
  else if x.built then s
  else s.build c

/-- What every START sets in the context. -/
def Ctx.startStep (x : Ctx) (step : Nat) (ptr : EpochPtr) : Ctx :=
  { x with inStep := true, phasesDone := false, started := true, dry := .none, sealed_ := false, folds := [], flowGot := [],
           verdicts := [], suspect := false, regionFault := false, testReq := false, latched := ptr, poolHead := 0,
           again := decide (step ≤ x.maxStep), maxStep := max step x.maxStep, snap := { x.snap with nose := [] },
           cmds := x.cmds.map fun m => if x.inBatch m && m.firstStep == 0 then { m with firstStep := step, base := ptr.digest } else m }
/-- The cycles of schedule time since the partition's last START. -/
def State.sinceStart (s : State) (p : Nat) : Nat :=
  max (s.guardAt p).now (s.time.ec - (s.guardAt p).startEc - (s.guardAt p).held)
/-- The timing records of a partition's units restart with schedule time; what the last step issued has landed. What its tasks and
channels have under way runs on, `n` cycles of schedule time earlier. -/
def State.startPart (s : State) (p : Nat) : State :=
  let n := s.sinceStart p
  (s.eachAcc p fun A => { A.settleAll with
    tasks := A.tasks.map fun e => (e.1, e.2 - n),
    cores := A.cores.map fun x => { x with run := x.run.map fun r => { r with at_ := r.at_ - n } },
    eng := A.eng.map fun e => { e with activeAt := 0, arrayFree := 0, epiFree := 0, last := [], ports := [] },
    ve := { A.ve with land := [], pipeFree := 0, loadFree := 0, storeFree := 0 },
    access := A.access.map fun e => { e with free := 0, flight := e.flight.map (InFlight.mapReady (· - n)) },
    chan := A.chan.map fun e => { e with moveFree := 0, firstAt := 0, outstanding := e.outstanding.map (· - n) },
    tokq := A.tokq.map fun e => (e.1, { items := e.2.items.map fun t => { t with pushed := none }, popAt := 0, popped := 0 }),
    grants := [] }).setGuard p { Guard.reset with startEc := s.time.ec }

/-- A START takes effect (R223): a step counter at its limit stops the context (R232). -/
def State.startNow (s : State) (c : Nat) : State :=
  let x := s.ctxAt c
  let step := s.stepOf c + 1
  let s0 := s.waitOver c 1
  if 2 ^ 48 ≤ step then
    s0.fault { cls := 3, action := 6, level := 1, unit := unitId 12 0, part := none, ctx := some c, instr := 0,
               syn := progSyn 0x11 (s.stepOf c), cause := 0, flags := 0, window := false }
  else
    let s1 := if x.st = .running then s0 else s0.enterRunning c
    let s2 := if x.started then s1 else (s1.modCtx c fun y => { y with liveMask := 2 ^ s1.replicas c - 1 }).showRep c
    let s3 := ((((s2.takeFallback c).swapPart x.part).takeEpoch c).takeRollbacks c).takeBatch c
    let s4 := ((s3.odSet (kCtxStep c) step).modCtx c fun y => y.startStep step (s3.activePtr c)).startFlows c
    let s5 := ((if s4.halved || x.launchWait.contains 1 then s4.modCtx c fun y => { y with notExact := true } else s4).startPart x.part).latchRegions c
    if (s5.ctxAt c).st = .running then s5.beginPhase c 0 0 else s5
/-- START: it takes effect, or waits (R224); where an earlier one still waits, that one takes effect and this one waits. -/
def State.startReq (s : State) (c : Nat) : State :=
  if (s.ctxAt c).st = .free then s
  else if s.canStart c then (if (s.ctxAt c).launchWait.contains 1 then s.waitFor c 1 else s).startNow c
  else s.waitFor c 1
/-- START. -/
def execStart (c : Fin 256) (s : State) : Host.Outcome State Fault Refusal := .next (whenLive s (s.startReq c))

/-! ### DRYDOWN -/

/-- DRYDOWN takes effect (R201, R223, Table 12-5 row 1): the step ends; the TAILs of the command queues are those that the
next build sees. -/
def State.drydownNow (s : State) (c : Nat) : State :=
  (s.waitOver c 4).modCtx c fun x => { x with
    dry := .flow, sealed_ := false, dryAt := s.g, tails := (s.cmdQueues c).map fun q => (q, s.qTail q) }
/-- A DRYDOWN can take effect: the last phase of the step has ended. -/
def State.canDry (s : State) (c : Nat) : Bool :=
  let x := s.ctxAt c
  x.st == .running && x.inStep && x.phasesDone && x.dry == .none
/-- DRYDOWN: it takes effect, or waits (R224), behind one that waits already. -/
def State.drydownReq (s : State) (c : Nat) : State :=
  if (s.ctxAt c).st = .free then s
  else if s.canDry c then (if (s.ctxAt c).launchWait.contains 4 then s.waitFor c 4 else s).drydownNow c
  else s.waitFor c 4
/-- DRYDOWN. -/
def execDrydown (c : Fin 256) (s : State) : Host.Outcome State Fault Refusal := .next (whenLive s (s.drydownReq c))

/-- An action of a context waits (R224). -/
def State.waits (s : State) (c code : Nat) : Bool := (s.ctxAt c).launchWait.contains code
/-- LAUNCH_LATE (R224): a START or DRYDOWN that waits takes effect once its target can take it; no other action waits. -/
def execLaunchLate (c : Fin 256) (a : LaunchAct) (s : State) : Host.Outcome State Fault Refusal :=
  .next (whenLive s (match a with
    | .start => if s.waits c 1 ∧ s.canStart c then s.startNow c else s
    | .drydown => if s.waits c 4 ∧ s.canDry c then s.drydownNow c else s
    | _ => s))

/-- A context launches itself: it has no armed START entry (R225; log entry 56). -/
def State.launchesItself (s : State) (c : Nat) : Bool := (s.nextStart c).isNone
/-- SELF_LAUNCH (R225): a step starts once the previous commit is recorded and ADMIT_TIME has passed since its DRYDOWN. -/
def State.selfStart (s : State) (c : Nat) : State :=
  let x := s.ctxAt c
  if s.launchesItself c ∧ s.canStart c ∧ (!x.started ∨ x.dryAt + s.odGet kAdmitTime ≤ s.g) then s.startNow c else s
/-- SELF_LAUNCH. -/
def execSelfLaunch (c : Fin 256) (s : State) : Host.Outcome State Fault Refusal := .next (whenLive s (s.selfStart c))

/-! ### STOP (R226, R278) -/

/-- The keys of a context when the step of counter `n` is undone (R278): what closed in it here is open again, and a key that no
other replica has named is forgotten. What has come from the other replicas, and what has been decided, stays. -/
def reopen (n : Nat) (l : List Closure) : List Closure :=
  (l.map fun k => if k.own.isSome ∧ k.step = n then { k with own := none, step := 0, sent := false } else k).filter fun k =>
    k.own.isSome || !k.got.isEmpty
/-- Undo the latest commit, which the run has not confirmed (R278): everything committed since is discarded, and the next
START replays that step with the same running batch. Aborts and confirmations that came since stand. -/
def State.undoCommit (s : State) (c : Nat) : State :=
  let x := s.ctxAt c
  match x.undo with
  | none => s.setCtx c { x with revert := false }
  | some u =>
    let old := u.cmds.filterMap fun m => (x.cmds.find? fun o => o.queue == m.queue && o.seq == m.seq).map fun o =>
      { m with aborted := m.aborted || o.aborted }
    let new := (x.cmds.filter fun m => !(u.cmds.any fun o => o.queue == m.queue && o.seq == m.seq)).map fun m =>
      { m with placed := 0, tokens := 0, produced := 0 }
    let s1 := u.tct.foldl (fun t e => t.tctPut e.1 0 (leBytes 4 (if t.tctHeld e.1 then setBit (field e.2 0 4) 30 else field e.2 0 4)
      ++ (e.2.drop 4).take 120)) s
    let s2 := u.snap.nose.foldl (fun t e => t.odSet (kMonState (e.1 % 4096)) e.2) s1
    let n := s.stepOf c - 1
    let s3 := (((s2.odSet (kCtxStep c) n).odSetBits (kDryState c) 63 0 n).odSet (kDlCfg c) u.dl).odSet kCachePinned
      (s.odGet kCachePinned + u.slots.length - x.slots.length)
    let s4 := s3.setCtx c { x with cmds := old ++ new, seqs := u.seqs, withheld := u.withheld, slots := u.slots,
                                   closures := reopen (s.stepOf c) x.closures, unconf := x.unconf.filter u.unconf.contains,
                                   snap := { u.snap with nose := [] }, built := true, buildPending := false, revert := false,
                                   undo := none }
    ((s4.writeBatch c (n + 1)).bump kStepsDiscarded 1).event .sil 2

/-- STOP (R226): the step in progress is rolled back; the context stays RUNNING between steps with the next generation, or
the entry's. A DRYDOWN that waits for the step is dropped with it. -/
def State.stop (s : State) (c : Nat) (setgen : Bool) (gen : Nat) : State :=
  let x := s.ctxAt c
  let g := if setgen then gen else x.gen + 1
  if x.st = .free ∨ x.st = .stopped then s
  else
    let s1 := if x.st = .running then s.dropStep c g
      else (if x.inStep then (s.noseRollback c).odSet (kCtxStep c) (s.stepOf c - 1) else s).modCtx c fun y => y.dropStep g
    let s2 := s1.waitOver c 4
    if x.revert then s2.undoCommit c else s2
/-- STOP. -/
def execStop (c : Fin 256) (setgen : Bool) (gen : Fin 16) (s : State) : Host.Outcome State Fault Refusal :=
  .next (whenLive s (s.stop c setgen gen))

/-! ### SNAPSHOT, TEST_WINDOW, SWITCH_WEIGHTS -/

/-- SNAPSHOT (R311): the next commit also writes a checkpoint; ignored and recorded while one is in state 0 or 1. -/
def execSnapshot (c : Fin 256) (s : State) : Host.Outcome State Fault Refusal :=
  .next (whenLive s (if (s.ctxAt c).st = .free then s
    else if s.odGet (kCkptState c) ≠ 0 ∧ s.ckptState c ≤ 1 then s.note 0 (unitId 12 0) 4 0 (some c.val) (some (s.ctxAt c).part) []
    else s.modCtx c fun x => { x with snapReq := true }))
/-- TEST_WINDOW (R223, R307): from the firing, or from the commit of the step in progress. -/
def execTestWindow (c : Fin 256) (s : State) : Host.Outcome State Fault Refusal :=
  .next (whenLive s (if (s.ctxAt c).st = .free then s
    else if (s.ctxAt c).inStep then s.modCtx c fun x => { x with testReq := true }
    else s.testWindow c))
/-- SWITCH_WEIGHTS (R228): the pending pointer is marked for use. -/
def execSwitchWeights (c : Fin 256) (s : State) : Host.Outcome State Fault Refusal :=
  .next (whenLive s (if (s.ctxAt c).st = .free then s else s.odSetBit (kEpochStatus c) 31 true))

/-! ### COUNTER_CLEAR (R232, R234) -/

/-- The event counters of the dictionary: first index, last index, first and last subindex. -/
def counterRanges : List (Nat × Nat × Nat × Nat) := [
  (0x1100, 0x1100, 0x07, 0x07), (0x1100, 0x1100, 0x0B, 0x0C), (0x1100, 0x1100, 0x12, 0x13), (0x1200, 0x1200, 0x04, 0x04),
  (0x1200, 0x1200, 0x06, 0x06), (0x1200, 0x1200, 0x09, 0x09), (0x1F00, 0x1F00, 0x0D, 0x0F), (0x2100, 0x2100, 0x05, 0x07),
  (0x2101, 0x2102, 0x01, 0x40), (0x2104, 0x2104, 0x01, 0x40), (0x2200, 0x2200, 0x04, 0x04), (0x2200, 0x2200, 0x07, 0x09),
  (0x2201, 0x2202, 0x01, 0x10), (0x2300, 0x2300, 0x06, 0x08), (0x2300, 0x2300, 0x0A, 0x0A), (0x2301, 0x2302, 0x01, 0x40),
  (0x2400, 0x2400, 0x03, 0x03), (0x2400, 0x2400, 0x06, 0x09), (0x2490, 0x249F, 0x01, 0x08), (0x2500, 0x2500, 0x02, 0x02),
  (0x2600, 0x2600, 0x05, 0x05), (0x2600, 0x2600, 0x07, 0x08), (0x2600, 0x2600, 0x0A, 0x0B)] ++ [
  (0x3010, 0x3027, 0x01, 0x20), (0x3102, 0x3103, 0x01, 0x10), (0x3200, 0x3200, 0x09, 0x09), (0x3200, 0x3200, 0x11, 0x11),
  (0x4000, 0x4000, 0x07, 0x0D), (0x4010, 0x401F, 0x06, 0x08), (0x4010, 0x401F, 0x0A, 0x0C), (0x4010, 0x401F, 0x13, 0x14),
  (0x4300, 0x4300, 0x06, 0x09), (0x5000, 0x5000, 0x08, 0x09), (0x5000, 0x5000, 0x0D, 0x0F), (0x6000, 0x6000, 0x03, 0x04),
  (0x6000, 0x6000, 0x09, 0x09), (0x6000, 0x6000, 0x15, 0x15), (0x7000, 0x7000, 0x0A, 0x0E), (0x8000, 0x8000, 0x09, 0x0F),
  (0x9000, 0x9000, 0x0E, 0x10), (0xA000, 0xA000, 0x0C, 0x0C), (0xA100, 0xA100, 0x06, 0x08)]
/-- An entry is an event counter of this grade and population (R359). -/
def State.isCounter (s : State) (index sub : Nat) : Bool :=
  (s.odRow index sub).isSome && counterRanges.any fun r =>
    decide (r.1 ≤ index ∧ index ≤ r.2.1 ∧ r.2.2.1 ≤ sub ∧ sub ≤ r.2.2.2)
/-- COUNTER_CLEAR (R234): an event counter returns to zero; any other name is ignored and counted. -/
def execCounterClear (value : W32) (s : State) : Host.Outcome State Fault Refusal :=
  let index := bits value.toNat 31 16
  let sub := bits value.toNat 15 8
  .next (if s.isCounter index sub then s.odSet (index * 256 + sub) 0 else s.launchRefused)

end Sys2Proof.Machine
end

