-- ==== Sys2Proof/Machine/TimeBase.lean ====
section
/-!
DEFINITION. The time base (R215 to R219, R257): measurements, corrections, beacons, holdover and loss; thermal holds and
the emergency trip (R230, R231, R395, R396).
-/
namespace Sys2Proof.Machine

/-! ### Synchronisation -/

/-- SYNC_STATE. -/
def State.syncState (s : State) : Nat := s.odGet kSyncState
/-- The chip is locked: LOCKED or HOLDOVER. -/
def State.syncLocked (s : State) : Bool := s.syncState == 2 || s.syncState == 3
/-- The offset estimate in ec. -/
def State.syncEst (s : State) : Int := signedOf 32 (s.odGet kSyncOffset)
/-- Set the offset estimate. -/
def State.setSyncEst (s : State) (v : Int) : State := s.odSet kSyncOffset (v % (2 ^ 32 : Int)).toNat
/-- A multi-chip context is loaded: run stops for each of them, for the record of SEQ `cause`. -/
def State.runStopAll (s : State) (cause : Nat) : State :=
  (s.loadedCtxs.filter fun c => (s.ctxAt c).flag 0).foldl (fun t c => t.runStop c cause) s
/-- Synchronisation is lost (R219). -/
def State.syncLose (s : State) : State :=
  if s.syncState = 4 then s
  else
    let s1 := (s.odSet kSyncState 4).blotAdd ((s.odSet kSyncState 4).mkRec 5 0 0 0 (unitId 13 0) none none 0 0 [])
    (s1.event .time 0).runStopAll s1.blot.last
/-- A measurement of the offset with its bound in ec (R217, R218 steps 1 and 2). -/
def State.measure (s : State) (est : Int) (bound : Nat) : State :=
  let (r, s1) := (s.setSyncEst est).drawNat
  let s2 := s1.odSet kRatePpb (r % 2 ^ 32)
  let ok := decide (est.natAbs ≤ bound ∧ s.odGet kSyncHops ≤ 6)
  match s.syncState with
  | 1 =>
    let n := if ok then s.time.good + 1 else 0
    let s3 := { s2 with time := { s2.time with good := n } }
    if 3 ≤ n then s3.odSet kSyncState 2 else s3
  | 2 => if ok then s2 else s2.syncLose
  | 3 => if ok then s2.odSet kSyncState 2 else s2.syncLose
  | _ => s2

/-- The count of G in one tick: 0, 1 or 2, at most one correction in any 1,024 tk (R215, R218 step 2). In HOLDOVER the
correction follows the rate estimate, whose value the manual does not give: it is free. -/
def State.advanceG (s : State) : State :=
  let may := match s.time.lastCorr with
    | some t => decide (t + 1024 ≤ s.g)
    | none => true
  let go := fun (u : State) (d : Nat) => { u with time := { u.time with g := u.time.g + d } }
  let fix := fun (u : State) (d : Nat) => { go (u.bump kCorrections 1) d with time := { (go u d).time with lastCorr := some u.time.g } }
  if !may then go s 1
  else if s.syncState = 3 then
    (let (n, s1) := s.drawNat
     match n % 3 with
     | 0 => go s1 1
     | 1 => fix s1 0
     | _ => fix s1 2)
  else if s.syncState = 1 ∨ s.syncState = 2 then
    (if 2 < s.syncEst then fix (s.setSyncEst (s.syncEst - 4)) 0
     else if s.syncEst < -2 then fix (s.setSyncEst (s.syncEst + 4)) 2
     else go s 1)
  else go s 1

/-- SYNC_PULSE (R218, R390): an organ member's measurement at an edge of SYNC_IN; while locked, an edge more than 64 tk from
a count with G mod 2^20 = 0 is ignored and counted. -/
def execSyncPulse (offsetEc : Int) (s : State) : Host.Outcome State Fault Refusal :=
  let r := s.g % 2 ^ 20
  .next (whenLive s (if s.odGet kSyncRole ≠ 0 then s
    else if s.syncLocked ∧ 64 < min r (2 ^ 20 - r) then (s.bump kSyncSpurious 1).event .pins 2
    else s.measure offsetEc 4))

/-- What a beacon of the upstream port tells of the grandmaster: its chip id and the hops to it (R217, R257). -/
def State.beaconHeard (s : State) (master hops : Nat) : State :=
  { s with time := { s.time with master := master % 2 ^ 16 } }.odSet kSyncHops (min 255 (hops + 1))
/-- No context is loaded and no launch entry is armed: G may be set (R218 step 1). -/
def State.mayAcquire (s : State) : Bool := s.loadedCtxs.isEmpty && (List.range 64).all fun e => !armed (s.launch e)
/-- Acquisition (R218 step 1): G is set once from a beacon of the upstream port, whose stamp in ec is that of its departure; half the
round trip measured at training is added. -/
def State.acquire (s : State) (stampEc master hops : Nat) : State :=
  let u := s.odGet kSyncUpstream
  let t := stampEc + if u < 16 then s.odGet (kLinkFlight u) else 0
  let s1 := s.beaconHeard master hops
  ({ s1 with time := { s1.time with g := t / 4 % 2 ^ 64, good := 0, lastCorr := none } }.odSet kSyncState 1).setSyncEst 0
/-- TIME_BEACON (R218, R257): a beacon of the upstream port is acquired, which sets G once; afterwards an organ master measures
it. A chip that has lost synchronisation keeps its G (R215; log entry 96). -/
def execTimeBeacon (port : Fin 16) (stampEc : Nat) (master hops : Nat) (s : State) : Host.Outcome State Fault Refusal :=
  let t := stampEc + s.odGet (kLinkFlight port)
  .next (whenLive s (if s.odGet kSyncUpstream ≠ port.val ∨ s.odGet kSyncRole = 2 then s
    else if s.syncState = 0 then
      (if s.mayAcquire then s.acquire stampEc master hops else s)
    else if s.odGet kSyncRole = 1 then (s.beaconHeard master hops).measure (((4 * s.g : Nat) : Int) - (t : Int)) 8
    else s.beaconHeard master hops))

/-- The payload of a beacon (R257): the estimate of grandmaster time in ec, the grandmaster's chip id, SYNC_HOPS. -/
def State.beaconPayload (s : State) : List Byte :=
  leBytes 8 ((((4 * s.g : Nat) : Int) - s.syncEst).toNat)
    ++ leBytes 2 (if s.odGet kSyncRole = 2 then s.odGet kChipId else s.time.master) ++ leBytes 1 (s.odGet kSyncHops) ++ leBytes 5 0
/-- A port is up. -/
def State.portUp (s : State) (p : Nat) : Bool := s.odGet (kPortState p) == 2
/-- BEACON_SEND (R257): a beacon waits on virtual lane 7 of each enabled port; it is stamped as it leaves. -/
def State.beaconSend (s : State) : State :=
  if s.odGet kSyncRole = 0 ∨ s.g % 4096 ≠ 0 then s
  else ((List.range 16).filter fun p => bit (s.portAt p).cfg 8 && s.portUp p).foldl (fun t p =>
    let x := t.flowAt 0
    let q := { mgmtPacket (t.odGet kChipId) 0xFFFF 9 0 t.beaconPayload with seq := BitVec.ofNat 32 x.seq }
    (t.setFlow 0 { x with seq := (x.seq + 1) % 2 ^ 32 }).modPort p fun y => { y with waiting := y.waiting ++ [⟨7, 16, pktSeal q⟩] }) s
/-- BEACON_SEND. -/
def execBeaconSend (s : State) : Host.Outcome State Fault Refusal := .next (whenLive s s.beaconSend)

/-- SYNC_HOLDOVER (R218 step 3): four pulses or beacons in a row are missing. -/
def execSyncHoldover (s : State) : Host.Outcome State Fault Refusal :=
  .next (whenLive s (if s.syncState = 2 then (s.odSet kSyncState 3).event .time 1 else s))
/-- SYNC_LOST (R218 step 3, R219): sixteen are missing, or a measurement exceeds its bound. -/
def execSyncLost (s : State) : Host.Outcome State Fault Refusal :=
  .next (whenLive s (if s.syncLocked then s.syncLose else s))
/-- GRANDMASTER_FAILOVER (R218 step 4): the organ master of next priority goes on from its own G. -/
def execGrandmasterFailover (s : State) : Host.Outcome State Fault Refusal :=
  .next (whenLive s (if s.odGet kSyncRole = 1 ∧ s.odGet kMasterPriority ≠ 0 then
      ((((s.odSet kSyncRole 2).odSet kSyncState 2).odSet kSyncHops 0).setSyncEst 0)
    else s))

/-! ### Thermal holds (R230) -/

/-- The hottest sensor of a report, in °C × 8. -/
def reportTemp (v : Nat) : Int := signedOf 12 (bits v 11 0)
/-- The hold value of R230. -/
def thermalHold (g group : Nat) : Nat := (g + 475000) * 2 ^ 64 + 1 * 2 ^ 8 + group
/-- The D of a hold, as the organ master knows it: that of its own entries; where it holds none of the group the manual does not
say how it learns D, which is then a free count from AT on (log entry 201). -/
def State.holdPoint (s : State) (v : Nat) : Nat × State :=
  let r := s.holdPlan (bits v 127 64) (bits v 5 0) (bits v 15 8)
  if r.1 = 0 then (r.2.1, s) else let (n, t) := s.drawNat; (bits v 127 64 + n, t)
/-- Write one thermal hold for a group, unless the D of its previous one has not passed. -/
def State.holdGroup (s : State) (group : Nat) : State :=
  let until_ := ((s.time.holdUntil.find? fun e => e.1 == group).map Prod.snd)
  if (match until_ with
      | some d => decide (s.g ≤ d)
      | none => false) then s
  else
    let v := thermalHold s.g group
    let (d, s0) := s.holdPoint v
    let peers := ((List.range 15).map fun i => s.odGet (kPeerMasters i)).filter fun q => q != 0xFFFF
    let s1 := ((s0.trace 0x0400).holdWrite v).sendHolds (Config.organChips (s.odGet kChipId) ++ peers) v
    { s1 with time := { s1.time with holdUntil := s1.time.holdUntil.filter (fun e => e.1 != group) ++ [(group, d)] } }
/-- A report arrives at the organ master: the position turns hot or cool, and holds are written while it is hot. -/
def State.reportIn (s : State) (pos v : Nat) : State :=
  let was := s.time.hot.contains pos
  let hot := if was then decide ((8 * s.odGet kHoldExit : Nat) < reportTemp v) else decide ((8 * s.odGet kHoldEnter : Nat) ≤ reportTemp v)
  let s1 := s.odSet (kThermReport pos) (keepBits v [(127, 64), (11, 0)])
  let s2 := { s1 with time := { s1.time with hot := if hot then unionRising s1.time.hot [pos] else s1.time.hot.erase pos } }
  if hot then ((List.range 64).filter fun g => bit (bits v 127 64) g).foldl (fun t g => t.holdGroup g) s2 else s2
/-- THERMAL_REPORT (R230): at the organ master the report of a position arrives; on any other chip its firmware sends the
report to the organ master. -/
def execThermalReport (pos : Fin 16) (value : W128) (s : State) : Host.Outcome State Fault Refusal :=
  .next (if s.odGet kSyncRole ≠ 0 then s.reportIn pos value.toNat
    else s.sendMgmt (mgmtPacket (s.odGet kChipId) (Config.bridgeChipId (s.odGet kChipId)) 6 (kThermReport pos) (leBytes 16 value.toNat)))

/-! ### Sensors and the trip (R231, R395, R396) -/

/-- An ENV record that names a sensor and its value. -/
def State.envRecord (s : State) (action sensor value : Nat) : State :=
  s.blotAdd (s.mkRec 5 action 0 0 (unitId 13 0) none none 0 0 (leBytes 2 sensor ++ leBytes 4 value))
/-- The emergency trip: clocks halved, THERM_N asserted, run stops, no step in progress time-exact. -/
def State.trip (s : State) (sensor value : Nat) : State :=
  let s1 := (((s.odSetBit kClockState 0 true).bump kTrips 1).event .time 5).envRecord 8 sensor value
  let s2 := { s1 with pins := { s1.pins with thermN := true } }
  { s2 with ctx := s2.ctx.map fun (e : Nat × Ctx) => (e.1, { e.2 with notExact := e.2.notExact || e.2.inStep }) }.runStopAll s1.blot.last
/-- The critical temperature: every unit stops as for FATAL, and THERM_N is asserted. -/
def State.critical (s : State) : State :=
  let s1 := (s.goFatal 0).event .pins 3
  { s1 with pins := { s1.pins with thermN := true } }
/-- The index and value of the first of the greatest temperatures. -/
def hottest (l : List Int) : Nat × Int :=
  l.zipIdx.foldl (fun b e => if b.2 < e.1 then (e.2, e.1) else b) (0, l.headD 0)
/-- TEMP_PEAK: the highest reading since the start (Table 17-12). -/
def State.raisePeak (s : State) (t : Int) : State :=
  if signedOf 32 (s.odGet kTempPeak) < t then s.odSet kTempPeak (t % (2 ^ 32 : Int)).toNat else s
/-- SENSOR_READ (R395): the sixteen sensors, in °C × 8. -/
def execSensorRead (temps : List Int) (s : State) : Host.Outcome State Fault Refusal :=
  let l := temps.take 16
  let (n, t) := hottest l
  let s1 := (l.zipIdx.foldl (fun u e => u.odSet (kSensorTemp e.2) (e.1 % (2 ^ 32 : Int)).toNat) s).raisePeak t
  let cool := l.all fun x => decide (x ≤ (8 * s.odGet kHoldExit : Nat))
  let s2 := { s1 with time := { s1.time with coolSince := if cool then some (s1.time.coolSince.getD s1.g) else none } }
  .next (if l = [] then s
    else
      let s3 := if (8 * s.odGet kTripTemp : Nat) ≤ t ∧ !s.halved then s2.trip n (t % (2 ^ 32 : Int)).toNat else s2
      if 880 ≤ t ∧ !s.dumping then s3.critical else s3)
/-- CLOCK_RESTORED (R231): every sensor has stayed at or below HOLD_EXIT for 47,500,000 tk. -/
def execClockRestored (s : State) : Host.Outcome State Fault Refusal :=
  .next (match s.time.coolSince with
    | some t =>
      if s.halved ∧ t + 47500000 ≤ s.g then
        (let s1 := (s.odSetBit kClockState 0 false).envRecord 9 0 0
         { s1 with pins := { s1.pins with thermN := false } })
      else s
    | none => s)

end Sys2Proof.Machine
end

