-- ==== Sys2Proof/Machine/Fabric.lean ====
section
/-!
DEFINITION. Ports, the link layer, the switch and the slot tables (R236 to R241, R243, R249 to R254, R261), and the
repetition of unacknowledged LAUNCH writes (R255).
-/
namespace Sys2Proof.Machine

/-! ### Routes (R249, R250) -/

/-- The lane rate that a port runs at: that of PORT_CFG at its latest training (R262). -/
def State.portRate (s : State) (p : Nat) : Nat := [200, 100, 50, 25].getD (bits (s.portAt p).cfg 1 0) 200
/-- The port runs in fabric mode, as its latest training has it (R262), and is not fenced. -/
def State.portValid (s : State) (p : Nat) : Bool :=
  decide (p < 16) && bits (s.portAt p).cfg 31 30 == 1 && s.odGet (kPortState p) != 4 && s.odGet (kPortState p) != 5
/-- A port may carry a packet of a class: a port at 25 Gbit/s never carries scheduled packets (R238). -/
def State.carries (s : State) (cls p : Nat) : Bool := s.portValid p && !(cls == 8 && s.portRate p == 25)
/-- Where a packet goes: the ports it leaves by, and whether it is delivered here; none without a valid route. -/
def State.routeOf (s : State) (p : Packet) : Option (List Nat × Bool) :=
  let own := s.odGet kChipId
  if p.mcast then
    (if 1024 ≤ p.dstChip ∨ !s.odBit (kMcastGroup p.dstChip) 31 then none
     else
       let v := s.odGet (kMcastGroup p.dstChip)
       some ((List.range 16).filter fun i => bit v i && s.carries p.cls i, bit v 16))
  else if p.dstChip = own ∨ p.dstChip = 0xFFFF then some ([], true)
  else
    let q := if p.dstChip / 4096 ≠ own / 4096 then s.odGet (kDomainPort (p.dstChip / 4096))
      else if s.odBit (kRoute (p.dstChip % 4096)) 15 then s.odBits (kRoute (p.dstChip % 4096)) 3 0 else 0xFF
    if s.carries p.cls q then some ([q], false) else none
/-- A packet without a route is discarded. -/
def State.noRoute (s : State) : State := (s.bump kNoRoute 1).event .fabric 3
/-- Put a packet where it waits for output port `o`: scheduled packets apart from the virtual lanes. -/
def State.queueOut (s : State) (input : Nat) (p : Packet) (o : Nat) : State :=
  s.modPort o fun y => if p.cls = 8 then { y with sched := y.sched ++ [⟨8, input, p⟩] }
    else { y with waiting := y.waiting ++ [⟨p.cls, input, p⟩] }
/-- The host receive ring of a packet that the bridge chip delivers to the host (R259): a flow whose receive half has HOST
set, or a response whose RTAG has HOST set. -/
def State.hostRingOf (s : State) (p : Packet) : Option Nat :=
  let e := s.flowEnt p.flow
  if !s.isBridge || s.pktMalformed p then none
  else if p.opcode = 3 then (if bit p.rtag 6 then some (p.rtag % 64) else none)
  else if p.flow ≠ 0 ∧ flowRecvEn e ∧ flowHost e then some (flowRing e)
  else none
/-- Deliver a packet to this chip from a switch input: its own command carries out what it does. -/
def State.deliverIn (s : State) (input : Nat) (p : Packet) : State :=
  match s.hostRingOf p with
  | some r => { s with bridge := { s.bridge with held := s.bridge.held ++ [⟨r, input, p, false⟩] } }
  | none => { s with inbox := s.inbox ++ [p] }
/-- Route one packet of this chip. -/
def State.routeLocal (s : State) (p : Packet) : State :=
  match s.routeOf p with
  | none => s.noRoute
  | some (l, here) => let s1 := l.foldl (fun t o => t.queueOut 16 p o) s
                      if here then s1.deliverIn 16 p else s1
/-- Route every packet that the chip has formed, in order. -/
def State.routeOutbox (s : State) : State := s.outbox.foldl State.routeLocal { s with outbox := [] }

/-! ### Sending a frame (R238, R239, R253) -/

/-- Wire bytes per slot of a port (Table 11-1). -/
def State.wireSlot (s : State) (p : Nat) : Nat :=
  match s.portRate p with
  | 200 => 3368
  | 100 => 1684
  | 50 => 842
  | _ => 421
/-- The wire time of a packet in tk, rounded up. -/
def State.wireTime (s : State) (p len : Nat) : Nat := ((len + 56) * 16 + s.wireSlot p - 1) / s.wireSlot p
/-- The bytes that a replay buffer holds. -/
def replayBytes (l : List SentFrame) : Nat := (l.map fun f => f.pkt.payload.length + 48).sum
/-- A frame of `len` payload bytes fits a port's replay buffer of 64 KiB (R239). -/
def Port.room (x : Port) (len : Nat) : Bool := decide (replayBytes x.replay + len + 48 ≤ 65536)
/-- A beacon is stamped as it leaves the pin (R257). -/
def State.stampOut (s : State) (p : Packet) : Packet := if p.opcode = 9 then pktSeal { p with payload := s.beaconPayload } else p
/-- Put a packet on the wire of a port, with the acknowledgement and a credit that the port owes. -/
def State.transmit (s : State) (p : Nat) (q : Packet) : State :=
  let x := s.portAt p
  let k := s.stampOut q
  let f : Frame := ⟨x.txSeq, x.owe, x.creditOut.head?, .none, 0, some k⟩
  (s.modPort p fun y => { y with
    txSeq := (y.txSeq + 1) % 4096, owe := .none, creditOut := y.creditOut.drop 1, replay := y.replay ++ [⟨y.txSeq, k, x.owe, x.creditOut.head?⟩],
    wire := y.wire ++ [f], busyUntil := max y.busyUntil s.g + s.wireTime p k.payload.length }).bump (kTxBytes p) k.payload.length
/-- An idle frame, which returns what the port owes. -/
def State.sendIdle (s : State) (p : Nat) : State :=
  s.modPort p fun y => { y with owe := .none, creditOut := y.creditOut.drop 1,
                                wire := y.wire ++ [⟨y.txSeq, y.owe, y.creditOut.head?, .none, 0, none⟩] }

/-! ### Slots (R251, R252) -/

/-- The slot of a port in the tick of count `g`. -/
def slotNo (g : Nat) : Nat := g / 16 % 4096
/-- An entry of a port's active image. -/
def State.slotAt (s : State) (p i : Nat) : Nat := bits (s.odGet (kSlotActive p)) (32 * i + 31) (32 * i)
/-- A slot-table entry is owned. -/
def slotOwned (v : Nat) : Bool := bit v 31
/-- SRC of a slot-table entry. -/
def slotSrc (v : Nat) : Nat := bits v 30 26
/-- FLOW of a slot-table entry. -/
def slotFlow (v : Nat) : Nat := bits v 19 0
/-- The oldest scheduled packet of a flow that this chip has ready for a port, if the replay buffer takes it. -/
def Port.readySched (x : Port) (f : Nat) : Option QueuedPkt :=
  (x.sched.find? fun q => q.input == 16 && q.pkt.flow == f).filter fun q => x.room q.pkt.payload.length
/-- The tick in which the next owned slot of a port after that of `g` begins, within one table period. -/
def State.nextOwned (s : State) (p g : Nat) : Option Nat :=
  ((List.range 4096).map (· + 1)).findSome? fun k =>
    if slotOwned (s.slotAt p ((g / 16 + k) % 4096)) then some ((g / 16 + k) * 16) else none
/-- A virtual-lane packet of `len` bytes may start on a port: the slot that runs is not owned, or is a local one without a
packet, and the packet ends by the start of the next owned slot. -/
def State.laneTime (s : State) (p len : Nat) : Bool :=
  let v := s.slotAt p (slotNo s.g)
  let free := !slotOwned v || (slotSrc v == 16 && ((s.portAt p).readySched (slotFlow v)).isNone)
  free && match s.nextOwned p s.g with
    | some t => decide (s.g + s.wireTime p len ≤ t)
    | none => true
/-- Count a scheduled miss, drop or off-slot. -/
def State.schedCount (s : State) (k : Nat) : State := (s.bump k 1).event .fabric 6

/-- Take a packet out of a port's scheduled queue and send it. -/
def State.sendSched (s : State) (p : Nat) (q : QueuedPkt) : State :=
  let v := s.slotAt p (slotNo s.g)
  let off := q.input != 16 && !(slotOwned v && slotSrc v == q.input)
  let s1 := (s.modPort p fun y => { y with sched := y.sched.erase q }).transmit p q.pkt
  if off then s1.schedCount (kSchedOffslot p) else s1
/-- SCHEDULED_SLOT (R252): the first ec of a slot owned by local injection. -/
def State.scheduledSlot (s : State) (p : Nat) : State :=
  let s1 := s.routeOutbox
  let v := s1.slotAt p (slotNo s1.g)
  if !s1.portUp p ∨ s1.g % 16 ≠ 0 ∨ !slotOwned v ∨ slotSrc v ≠ 16 then s1
  else match (s1.portAt p).readySched (slotFlow v) with
    | some q => s1.sendSched p q
    | none => s1.schedCount (kSchedMiss p)
/-- SCHEDULED_SLOT. -/
def execScheduledSlot (p : Fin 16) (s : State) : Host.Outcome State Fault Refusal := .next (s.scheduledSlot p)

/-- A virtual-lane packet may start: credits, replay buffer and wire time suffice. -/
def State.mayStart (s : State) (p : Nat) (q : QueuedPkt) : Bool :=
  let x := s.portAt p
  let n := q.pkt.payload.length
  decide (creditsOf n ≤ x.credits.getD q.lane 0) && x.room n && s.laneTime p n
/-- The packet an output port chooses: the highest lane, then the highest input, then the oldest. Within a lane and input
only the oldest may start. -/
def State.chooseOut (s : State) (p : Nat) : Option QueuedPkt :=
  let w := (s.portAt p).waiting
  let heads := (List.range 8).reverse.flatMap fun l => (List.range 17).reverse.filterMap fun i =>
    w.find? fun q => q.lane == l && q.input == i
  heads.find? fun q => s.mayStart p q
/-- A copy of a packet from an input still waits, for a port or for a host buffer (R253, R259). -/
def State.copyWaits (s : State) (q : QueuedPkt) : Bool :=
  s.ports.toList.any (fun x => x.waiting.contains q) || s.bridge.held.any fun h => h.input == q.input && h.pkt == q.pkt
/-- A copy of a packet has left: with the last, the credits of the input it came from are returned (R253). -/
def State.copyGone (s : State) (input : Nat) (p : Packet) : State :=
  if s.copyWaits ⟨p.cls, input, p⟩ then s else s.freeInput input p
/-- Send a virtual-lane packet: its credits are used, and those of the input it came from are returned when its last copy has left
the input's buffer (R253). -/
def State.sendLane (s : State) (p : Nat) (q : QueuedPkt) : State :=
  let n := creditsOf q.pkt.payload.length
  ((s.modPort p fun y => { y with
    waiting := y.waiting.erase q, credits := y.credits.set q.lane (y.credits.getD q.lane 0 - n) }).transmit p q.pkt).copyGone q.input q.pkt
/-- FREE_WIRE_TIME (R252, R253): a scheduled packet in transit goes first; then the virtual lanes; then an idle frame. -/
def State.freeWire (s : State) (p : Nat) : State :=
  let s1 := s.routeOutbox
  if !s1.portUp p ∨ s1.g < (s1.portAt p).busyUntil then s1
  else match (s1.portAt p).sched.find? fun q => q.input != 16 && (s1.portAt p).room q.pkt.payload.length with
    | some q => s1.sendSched p q
    | none =>
      match s1.chooseOut p with
      | some q => s1.sendLane p q
      | none => s1.sendIdle p
/-- FREE_WIRE_TIME. -/
def execFreeWireTime (p : Fin 16) (s : State) : Host.Outcome State Fault Refusal := .next (s.freeWire p)

/-- The bits of a port's image that are not reserved (Table 11-6, R10). -/
def cleanSlots (v : Nat) : Nat := v &&& repeated 4096 32 0xFC0FFFFF
/-- A port's image is well formed: no owned entry names a reserved SRC. -/
def slotsOk (v : Nat) : Bool :=
  (List.range 4096).all fun i => let e := bits v (32 * i + 31) (32 * i); !slotOwned e || decide (slotSrc e ≤ 16)
/-- Put a shadow image in place; SHADOW_READY is set. -/
def State.slotShadow (s : State) (p v : Nat) : State := (s.odSet (kSlotShadow p) (cleanSlots v)).odSetBit (kSlotCtrl p) 29 true
/-- SLOT_SHADOW (R251, R363): 4,096 entries; the last byte sets SHADOW_READY. -/
def execSlotShadow (p : Fin 16) (w : SeqWrite) (s : State) : Host.Outcome State Fault Refusal :=
  .next (s.seqApply (kSlotShadow p) w (fun _ => 16384) fun t v => t.slotShadow p (leNat v))
/-- SLOT_IMAGE_SWAP (R127, R251): the count has been reached; a swap without a ready image is missed, a malformed image is never
made active (log entry 180). -/
def execSlotImageSwap (p : Fin 16) (s : State) : Host.Outcome State Fault Refusal :=
  .next (if s.odGet (kSlotSwapCount p) = 0 ∨ s.g < s.odGet (kSlotSwapCount p) then s
    else
      let s1 := s.odSet (kSlotSwapCount p) 0
      if s1.odBit (kSlotCtrl p) 29 then
        (let s2 := s1.odSetBit (kSlotCtrl p) 29 false
         if slotsOk (s1.odGet (kSlotShadow p)) then s2.odSet (kSlotActive p) (s1.odGet (kSlotShadow p)) else s2)
      else (s1.odSetBits (kSlotCtrl p) 15 0 (min 65535 (s1.odBits (kSlotCtrl p) 15 0 + 1))).event .top 4)

/-! ### Replay and link faults (R237, R239) -/

/-- A port is down: it carries no scheduled traffic, and the link-down event is raised. -/
def State.linkDown (s : State) (p st : Nat) : State := ((s.odSet (kPortState p) st).odSet (kSchedOk p) 0).event .fabric 0
/-- A frame was replayed REPLAY_LIMIT times in succession: the port is FENCED, with the record that names the frame's packet, and run
stops. -/
def State.replayFence (s : State) (p : Nat) (f : Packet) : State :=
  let s1 := (s.linkDown p 4).fenceUnit (unitId 9 p) 2 0 0 (fabricSyn p f.flow f.seq.toNat f.words)
  s1.runStopAll s1.blot.last
/-- Resend from the named frame in the original order: whole frames, for the partner has taken nothing of them. -/
def State.replayFrom (s : State) (p n : Nat) : State :=
  let x := s.portAt p
  match x.replay.dropWhile fun f => f.lseq != n with
  | [] => s
  | f :: r =>
    let l := f :: r
    let k := if x.lastNak = n ∧ x.naks ≠ 0 then x.naks + 1 else 1
    let s1 := (s.modPort p fun y => { y with
      lastNak := n, naks := k, wire := y.wire ++ l.map fun f => ⟨f.lseq, f.ack, f.credit, .none, 0, some f.pkt⟩ }).bump (kReplays p) l.length
    if s.odGet (kReplayLimit p) ≤ k then s1.replayFence p f.pkt else s1
/-- NEGATIVE_ACK (R239). -/
def execNegativeAck (p : Fin 16) (lseq : Nat) (s : State) : Host.Outcome State Fault Refusal :=
  .next (if s.portUp p then s.replayFrom p lseq else s)
/-- PORT_DOWN (R237): the port is down as a whole. -/
def execPortDown (p : Fin 16) (s : State) : Host.Outcome State Fault Refusal :=
  .next (let st := s.odGet (kPortState p)
    if st = 4 ∨ st = 5 ∨ st = 0 then s else s.linkDown p 0)

/-! ### Receiving a frame (R239, R240, R249, R252) -/

/-- The frames up to and including an acknowledged one leave the replay buffer. -/
def ackedUpTo (n : Nat) : List SentFrame → List SentFrame
  | [] => []
  | l => if l.any fun f => f.lseq == n then (l.dropWhile fun f => f.lseq != n).drop 1 else l
/-- The acknowledgement and the credit of a frame for the reverse direction. -/
def State.frameBack (s : State) (p : Nat) (f : Frame) : State :=
  let s1 := match f.credit with
    | some (l, n) => s.modPort p fun y => { y with credits := y.credits.set l (y.credits.getD l 0 + n) }
    | none => s
  match f.ack with
  | .none => s1
  | .ack n => s1.modPort p fun y => { y with replay := ackedUpTo n y.replay, naks := 0 }
  | .nak n => s1.replayFrom p n
/-- The uncorrectable codewords of a frame. -/
def badWords (f : Frame) : Nat :=
  match f.bad with
  | .none => 0
  | .header => 1
  | .payload n => max 1 n
/-- Where an uncorrectable codeword discards the frame. -/
def badFrame (f : Frame) (p : Packet) : Bool := f.bad == .header || (f.bad != .none && checkedOp p.opcode)
/-- The packet of a frame as port `p` takes it: SUSPECT where an uncorrectable codeword lies in its payload (R240). -/
def takenPkt (p : Nat) (f : Frame) (k : Packet) : Packet :=
  { k with suspect := k.suspect || f.bad != .none, port := p, words := k.words + badWords f }
/-- A frame is discarded (R239): a negative acknowledgement of the frame that is expected, at the first discarded one and whenever
that frame comes again and fails. -/
def State.discardFrame (s : State) (p : Nat) (f : Frame) : State :=
  if (s.portAt p).discarding ∧ f.lseq ≠ (s.portAt p).rxSeq then s
  else s.modPort p fun y => { y with discarding := true, owe := .nak y.rxSeq }
/-- The scheduled packets of an input that wait for an output, each once (R252). -/
def State.schedHeld (s : State) (input : Nat) : Nat :=
  ((s.ports.toList.flatMap fun x => x.sched.filter fun q => q.input == input)).eraseDups.length
/-- A scheduled packet in transit for output port `o`: at once, or behind the frame in progress. -/
def State.schedTransit (s : State) (input : Nat) (p : Packet) (o : Nat) : State :=
  if s.portUp o ∧ (s.portAt o).busyUntil ≤ s.g ∧ (s.portAt o).room p.payload.length ∧ !((s.portAt o).sched.any fun q => q.input != 16) then
    (s.queueOut input p o).sendSched o ⟨8, input, p⟩
  else s.queueOut input p o
/-- Switch a packet that has arrived at port `i`. One for the host that waits for a buffer, and an access for which the queue of
R373 has no place, keep their credits. A scheduled packet that comes while four of its input wait is discarded (R252). -/
def State.switchPkt (s : State) (i : Nat) (p : Packet) : State :=
  match s.routeOf p with
  | none => (s.noRoute).freeInput i p
  | some (l, here) =>
    if p.cls = 8 ∧ 4 ≤ s.schedHeld i then s.schedCount (kSchedDrop i)
    else
    let s1 := l.foldl (fun t o => if p.cls = 8 then t.schedTransit i p o else t.queueOut i p o) s
    let held := here && ((s1.hostRingOf p).isSome || (odPacket p && decide (32 ≤ s1.odQueue.length)))
    let s2 := if here then s1.deliverIn i p else s1
    if l.isEmpty && !held then s2.freeInput i p else s2
/-- A frame whose packet may be taken: in order, whole, with a correct CRC. -/
def State.frameOk (s : State) (p : Nat) (f : Frame) (k : Packet) : Bool :=
  f.lseq == (s.portAt p).rxSeq && !badFrame f k && k.crc == BitVec.ofNat 32 (pktCrc k)
/-- FRAME_RECEIVE: a frame is taken whole, with its acknowledgement and credit, or discarded whole, and then comes again. -/
def State.frameIn (s : State) (p : Nat) (f : Frame) : State :=
  let s0 := (s.bump (kFecCorrected p) f.corrected).bump (kFecUncorrected p) (badWords f)
  if f.bad = .header then
    (match f.pkt with
     | none => s0
     | some _ => s0.discardFrame p f)
  else
    match f.pkt with
    | none => s0.frameBack p f
    | some k =>
      if !s0.frameOk p f k then s0.discardFrame p f
      else
        (((s0.frameBack p f).modPort p fun y => { y with rxSeq := (y.rxSeq + 1) % 4096, discarding := false, owe := .ack f.lseq }).bump
          (kRxBytes p) k.payload.length).switchPkt p (takenPkt p f k)
/-- FRAME_RECEIVE (R239, R240): only a port that is up receives. -/
def execFrameReceive (p : Fin 16) (f : Frame) (s : State) : Host.Outcome State Fault Refusal :=
  .next (if s.portUp p then s.frameIn p f else s)

/-! ### Training and loop-backs (R238, R254, R261) -/

/-- The FEC excess of a lane rate in ec (Table 11-1). -/
def fecExcess : Nat → Nat
  | 100 => 13
  | 50 => 37
  | _ => 0
/-- A training begins: PORT_CFG takes effect (R262). A port that it turns Off goes down; one in fabric mode is training. -/
def State.beginTraining (s : State) (p : Nat) : State :=
  let s1 := s.modPort p fun y => { y with cfg := s.odGet (kPortCfg p) }
  let st := b2n (s.odBits (kPortCfg p) 31 30 == 1)
  if s.odGet (kPortState p) = 2 then s1.linkDown p st else (s1.odSet (kPortState p) st).odSet (kSchedOk p) 0
/-- A link is up with the PORT_CFG given and the flight that its echo measured: SCHED_OK follows, and the link starts afresh. -/
def State.linkUp (s : State) (p cfg flight : Nat) : State :=
  let rate := [200, 100, 50, 25].getD (bits cfg 1 0) 200
  let sched := decide (rate ≠ 25 ∧ flight + fecExcess rate ≤ 40)
  let s1 := ((s.odSet (kPortState p) 2).odSet (kLinkFlight p) flight).odSet (kSchedOk p) (b2n sched)
  s1.modPort p fun y => { y with
    cfg := cfg, txSeq := 0, rxSeq := 0, discarding := false, replay := [], lastNak := 0, naks := 0, owe := .none, creditOut := [],
    credits := (List.range 8).map fun l => bits (s.odGet (kVlCredits p)) (16 * l + 15) (16 * l) }
/-- LINK_TRAINING (R237, R254): the port trains with the PORT_CFG of the moment; where that succeeds the flight is measured, SCHED_OK
follows, and the link starts afresh; where it does not the port goes on training (DESIGN CHOICE, log entry 229). FENCED, TEST and
PCIe ports, and those of a device that is in DUMP, do not train (R303). -/
def State.train (s : State) (p : Nat) (ok : Bool) (flight : Nat) : State :=
  let st := s.odGet (kPortState p)
  if st = 3 ∨ st = 4 ∨ st = 5 ∨ s.dumping then s
  else if !ok ∨ s.odBits (kPortCfg p) 31 30 ≠ 1 then s.beginTraining p
  else s.linkUp p (s.odGet (kPortCfg p)) flight
/-- LINK_TRAINING. -/
def execLinkTraining (p : Fin 16) (ok : Bool) (flight : Nat) (s : State) : Host.Outcome State Fault Refusal :=
  .next (s.train p ok (flight % 65536))

/-- A loaded context owns a slot on a port. -/
def State.portOwned (s : State) (p : Nat) : Bool :=
  s.loadedCtxs.any fun c => match (s.ctxAt c).variant with
    | some v => v.slots.any fun q => q.1 == .port p && (List.range 4096).any fun i => slotOwned (bits (leNat q.2) (32 * i + 31) (32 * i))
    | none => false
/-- PORT_LOOPBACK (R261): a write of a mode takes a port on which no loaded context owns a slot into TEST; the test runs
only there; a write of zero leaves TEST. -/
def State.portLoop (s : State) (p v : Nat) : State :=
  let m := v % 8
  let st := s.odGet (kPortState p)
  if m = 0 ∧ !bit v 31 then (s.odSet (kFabricLoopbackCtrl p) 0).odSet (kPortState p) (if st = 3 then 0 else st)
  else
    let s1 := if 1 ≤ m ∧ m ≤ 4 ∧ st ≤ 2 ∧ !s.portOwned p then s.odSet (kPortState p) 3 else s
    s1.loopStart (kFabricLoopbackCtrl p) v [(2, 0)] (s1.odGet (kPortState p) == 3 && decide (1 ≤ m ∧ m ≤ 4))
/-- PORT_LOOPBACK. -/
def execPortLoopback (p : Fin 16) (value : W32) (s : State) : Host.Outcome State Fault Refusal := .next (s.portLoop p value.toNat)
/-- PORT_LOOPBACK_DONE (R261). -/
def execPortLoopbackDone (p : Fin 16) (errors : Nat) (s : State) : Host.Outcome State Fault Refusal :=
  .next (s.loopDone (kFabricLoopbackCtrl p) (kFabricLoopbackErrors p) 1048576 errors)

/-! ### The flow table (R243) -/

/-- FLOW_DATA (R243): the selected entry is written, unless it is pinned or the selection is out of range. It is a narrow write of
the heart tier, and one whose read is uncorrectable is not performed (R159, R160). -/
def execFlowData (value : W128) (obs : List ReadObs) (s : State) : Host.Outcome State Fault Refusal :=
  let f := s.odGet kFlowSelect
  .next (if f = 0 ∨ 2 ^ 20 ≤ f then (s.odSet kFlowStatus 2).refuse 7
    else if flowPin (s.flowEnt f) then (s.odSet kFlowStatus 1).refuse 7
    else
      let a := s.odGet kFlowBase + 16 * f
      let r := s.mergeRead false a 16 (s.userOf .host) obs
      if r.2 then (r.1.devWrite false a (leBytes 16 (clearBit value.toNat 0))).odSet kFlowStatus 0 else r.1)
/-- FLOW_FETCH (R243): the fetch of an unpinned entry, a miss of the cache, ends; the packet that waits proceeds by its own
command. -/
def execFlowFetch (flow : Nat) (s : State) : Host.Outcome State Fault Refusal :=
  .next (if flow = 0 ∨ 2 ^ 20 ≤ flow ∨ (s.flowCache.any fun e => e.1 == flow) then s else s.bump kFlowMisses 1)

/-! ### Repeated LAUNCH writes (R255) -/

/-- The count of a LAUNCH write: COUNT of an entry, AT of a hold. -/
def launchCount (p : Packet) : Nat := field p.payload 8 8
/-- LAUNCH_REPEAT (R255): a write without an acknowledgement within 2,375 tk is sent again, until its count has passed. -/
def State.launchRepeat (s : State) : State :=
  let live := s.unacked.filter fun e => decide (s.g ≤ launchCount e.1)
  let due := live.filter fun e => decide (e.2 + 2375 ≤ s.g)
  let s1 := due.foldl (fun t e => t.send e.1) s
  { s1 with unacked := live.map fun e => if e.2 + 2375 ≤ s.g then (e.1, s.g) else e }
/-- LAUNCH_REPEAT. -/
def execLaunchRepeat (s : State) : Host.Outcome State Fault Refusal := .next s.launchRepeat

end Sys2Proof.Machine
end

