-- ==== Sys2Proof/Machine/Flacon.lean ====
section
/-!
DEFINITION. Flacons and weight sets (R314 to R332): verification, loading, sealing, decants, epoch pointers; key slots
(R321) and attestation (R334).
-/
namespace Sys2Proof.Machine

/-! ### Status and pointers -/

/-- The code of FLACON_STATUS, its signature bits cleared. -/
def State.flaconStatus (s : State) (v : Nat) : State := s.odSet kFlaconStatus v
/-- A flacon command is running. -/
def State.flaconBusy (s : State) : Bool := s.odBits kFlaconStatus 7 0 == 1
/-- A refused flacon command: its code, and the access's status REFUSED (R368). -/
def State.flaconRefused (s : State) (v : Nat) : State := (s.flaconStatus v).refuse 7
/-- A flacon command is carried out in the RUN phase unless another one is running. -/
def flaconCmd (f : State → State) (s : State) : Host.Outcome State Fault Refusal :=
  .next (whenLive s (if s.flaconBusy then s.refuse 6 else f s))
/-- The pending pointer. -/
def State.pendingPtr (s : State) (c : Nat) : EpochPtr := epochPtr (s.odGet (kEpochPending c))
/-- A loaded context's active or pending pointer names a set. -/
def State.namesSet (s : State) (n : Nat) : Bool :=
  s.loadedCtxs.any fun c => ((s.activePtr c).version != 0 && (s.activePtr c).set == n)
    || ((s.pendingPtr c).version != 0 && (s.pendingPtr c).set == n)
/-- Set the VERSION and digest of a set's active epoch. -/
def State.setActive (s : State) (n : Nat) (m : List Byte) : State :=
  (s.odSetBits (kWsetState n) 127 64 (manVersion m)).odSetBits (kWsetState n) 319 192 (field m 40 16)
/-- The manifest that a set's layers follow: the staged one while an epoch is staged, else the active one. -/
def State.wsManifest (s : State) (n : Nat) : List Byte :=
  if s.wsState n = 3 ∨ s.wsState n = 4 ∨ s.wsState n = 6 then (s.wsAt n).staged else (s.wsAt n).active
/-- The target range of a set's layers: tier and base address. -/
def State.wsTarget (s : State) (n : Nat) : Bool × Nat :=
  if s.wsState n = 1 then (false, s.wsCfg n 0) else (bit (s.wsCfg n 2) 63, bits (s.wsCfg n 2) 41 0)

/-! ### VERIFY (R317, R318, R322, R323) -/

/-- The length of a manifest. -/
def manLen (m : List Byte) : Nat := 128 + 96 * manLayers m
/-- A list of bytes is all zero. -/
def allZero (l : List Byte) : Bool := l.all fun b => b == 0
/-- Layers lie in strictly increasing order without overlap. -/
def layersApart : List Layer → Bool
  | a :: b :: r => decide (a.off + a.size ≤ b.off ∧ a.off < b.off) && layersApart (b :: r)
  | _ => true
/-- Layer entry `i` is well formed (Table 14-3). -/
def layerOk (m : List Byte) (i : Nat) : Bool :=
  let l := manLayer m i
  let b := 128 + 96 * i
  let leaf := 2 ^ field m 9 1
  decide (l.off % 65536 = 0 ∧ l.size % 65536 = 0 ∧ 0 < l.size ∧ l.off + l.size ≤ field m 24 8)
    && decide (l.tile ≠ 0 ∧ l.tile % 64 = 0 ∧ l.size % l.tile = 0 ∧ l.leaves = (l.size + leaf - 1) / leaf)
    && allZero ((m.drop (b + 21)).take 3) && allZero ((m.drop (b + 28)).take 4) && allZero ((m.drop (b + 80)).take 16)
/-- A manifest is consistent for a heart range of `size` bytes (R317, R318). -/
def manOk (m : List Byte) (size : Nat) : Bool :=
  let n := manLayers m
  decide (1 ≤ n ∧ n ≤ 4096 ∧ field m 8 1 ≤ 7 ∧ 16 ≤ field m 9 1 ∧ field m 9 1 ≤ 26 ∧ 0 < manVersion m)
    && allZero ((m.drop 6).take 2) && allZero ((m.drop 10).take 2) && allZero ((m.drop 96).take 32)
    && decide (field m 24 8 = size ∧ field m 24 8 % 65536 = 0 ∧ field m 32 8 % 65536 = 0)
    && decide (field m 56 8 = (manLen m + 63) / 64 * 64 ∧ field m 56 8 + 16608 ≤ field m 32 8)
    && layersApart ((List.range n).map (manLayer m)) && (List.range n).all (layerOk m)

/-- A key slot: 448 bytes. -/
def State.keySlot (s : State) (i : Nat) : List Byte := (leBytes 3584 (s.odGet kKeyslots)).drop (448 * i) |>.take 448
/-- A slot is empty. -/
def slotEmpty (k : List Byte) : Bool := allZero k
/-- Both signatures of a message under a slot's keys: RSA, SLH-DSA. -/
def sigsOk (k msg rsa slh : List Byte) : Bool × Bool :=
  (rsaVerify (k.take 384) (field k 384 4) msg rsa, slhVerify ((k.drop 388).take 48) msg slh)

/-- VERIFY (R322): starts on the manifest area of a set that may take a flacon and whose ranges are configured. -/
def State.verifyStart (s : State) (n : Nat) : State :=
  let st := s.wsState n
  if st ≠ 0 ∧ st ≠ 2 ∧ st ≠ 6 then s.flaconRefused 9
  else if s.wsCfg n 1 = 0 then s.flaconRefused 10
  else
    let a := s.wsCfg n 3
    let k := min 4096 (s.tierLE false (a + 12) 4)
    (s.modWs n fun w => { w with verifying := some (s.tierBytes false a (128 + 96 * k)) }).flaconStatus 1
/-- VERIFY. -/
def execVerify (set : Fin 16) (s : State) : Host.Outcome State Fault Refusal := flaconCmd (fun s => s.verifyStart set) s

/-- A verified flacon is bound by its manifest (R322, Table 14-1). -/
def State.bindFlacon (s : State) (n : Nat) (m : List Byte) : State :=
  let s1 := (s.odSet (kLayerState n) 0).odSetBits (kWsetState n) 63 32 (manLayers m)
  if s.wsState n = 2 then
    ((s1.modWs n fun w => { w with staged := m, folds := [], stagedIntact := false }).setWsState n 3).odSetBits (kWsetState n) 191 128
      (manVersion m)
  else (s1.modWs n fun w => { w with active := m, staged := [], folds := [], damaged := [] }).setWsState n 1
/-- The end of a VERIFY: the first of R322's steps that fails, or the set's new state. -/
def State.verifyEnd (s : State) (n : Nat) (m : List Byte) : State :=
  let s1 := s.modWs n fun w => { w with verifying := none }
  if field m 0 4 ≠ 0x31464C46 ∨ field m 4 2 ≠ 1 then s1.flaconStatus 2
  else if !manOk m (s.wsCfg n 1) then s1.flaconStatus 3
  else
    let k := s.keySlot (field m 8 1)
    if slotEmpty k then s1.flaconStatus 4
    else if s.wsState n = 2 ∧ manVersion m ≤ s.wsVersion n then s1.flaconStatus 5
    else
      let a := s.wsCfg n 3 + field m 56 8
      let r := sigsOk k m (s.tierBytes false a 384) (s.tierBytes false (a + 384) 16224)
      let v := 2 ^ 8 * b2n r.1 + 2 ^ 9 * b2n r.2
      if r.1 ∧ r.2 then (s1.bindFlacon n m).flaconStatus v
      else ((s1.bump kSigFailures 1).event .sec 0).flaconStatus (v + 6)
/-- VERIFY_DONE (R322, R323). -/
def execVerifyDone (set : Fin 16) (s : State) : Host.Outcome State Fault Refusal :=
  .next (whenLive s (match (s.wsAt set).verifying with
    | some m => s.verifyEnd set m
    | none => s))

/-! ### LOAD and SEAL (R319, R320, R324, R325) -/

/-- A set takes layers: LOADING, STAGING, or FAILED with a staging range that is not intact (R332). -/
def State.takesLayers (s : State) (n : Nat) : Bool :=
  s.wsState n == 1 || s.wsState n == 3 || (s.wsState n == 6 && !(s.wsAt n).stagedIntact && !(s.wsAt n).staged.isEmpty)
/-- Arm a layer's digest. A layer of a FAILED set's staging range that is sent again is not intact until it has passed (R332). -/
def State.armLayer (s : State) (n i : Nat) : State :=
  (s.modWs n fun w => { w with folds := w.folds.filter (fun f => f.layer != i) ++ [⟨i, 0, 0⟩],
                               damaged := if s.wsState n = 6 then unionRising w.damaged [i] else w.damaged }).setLayerSt n i 1
/-- LOAD of a layer, 0xFFF for all (R324). -/
def State.flaconLoad (s : State) (n layer : Nat) : State :=
  let k := manLayers (s.wsManifest n)
  if !s.takesLayers n ∨ (layer ≠ 0xFFF ∧ k ≤ layer) then s.flaconRefused 9
  else ((if layer = 0xFFF then List.range k else [layer]).foldl (fun t i => t.armLayer n i) s).flaconStatus 0
/-- FLACON_LOAD. -/
def execFlaconLoad (set : Fin 16) (layer : Nat) (s : State) : Host.Outcome State Fault Refusal :=
  flaconCmd (fun s => s.flaconLoad set layer) s

/-- One level of the hash tree of R319. -/
def hashLevel : List (List Byte) → List (List Byte)
  | a :: b :: r => sha3 (0x01#8 :: a ++ b) :: hashLevel r
  | l => l
/-- Reduce to the one remaining element. -/
def hashTree : Nat → List (List Byte) → List Byte
  | 0, l => l.headD []
  | n + 1, l => if l.length ≤ 1 then l.headD [] else hashTree n (hashLevel l)
/-- The root of the hash tree over bytes with leaves of `leaf` bytes. -/
def hashRoot (leaf : Nat) (bs : List Byte) : List Byte :=
  let l := (chunks leaf bs.length bs).map fun c => sha3 (0x00#8 :: c)
  hashTree l.length l
/-- A layer passes (R325): block count, sillage digest and tree root. -/
def State.layerPasses (s : State) (n i : Nat) : Bool :=
  let m := s.wsManifest n
  let l := manLayer m i
  let t := s.wsTarget n
  match (s.wsAt n).folds.find? fun f => f.layer == i with
  | some f => f.blocks == l.size / 16 && closeFold (manKey m) l.tile (l.size / l.tile) f.acc == l.sil
      && hashRoot (2 ^ field m 9 1) (s.tierBytes t.1 (t.2 + l.off) l.size) == l.root
  | none => false
/-- The epoch digest of a manifest (R320). -/
def manEpoch (m : List Byte) : Nat :=
  digest ((List.range (manLayers m)).flatMap fun i => beBytes 16 (manLayer m i).sil) (manKey m)

/-- SEAL (R324): the LOADING layers are closed; no further WRITE is accepted. -/
def State.sealStart (s : State) (n : Nat) : State :=
  if !s.takesLayers n then s.flaconRefused 9
  else (s.modWs n fun w => { w with sealing := true }).flaconStatus 1
/-- SEAL. -/
def execSeal (set : Fin 16) (s : State) : Host.Outcome State Fault Refusal := flaconCmd (fun s => s.sealStart set) s
/-- Every layer has passed: the set is ACTIVE or STAGED if the epoch digest matches the header (R325). -/
def State.sealAll (s : State) (n : Nat) : State :=
  let m := s.wsManifest n
  if manEpoch m ≠ beNat ((m.drop 40).take 16) then s.flaconStatus 8
  else if s.wsState n = 1 then ((s.setActive n m).setWsState n 2).flaconStatus 0
  else
    let s1 := s.modWs n fun w => { w with stagedIntact := true }
    (if s.wsState n = 3 then s1.setWsState n 4 else s1).flaconStatus 0
/-- A layer failed. -/
def State.layerFailed (s : State) : State := (s.bump kLayerFailures 1).event .flacon 0
/-- The end of a SEAL. A FAILED set needs only the layers that were not intact to pass (R332). -/
def State.sealEnd (s : State) (n : Nat) : State :=
  let k := manLayers (s.wsManifest n)
  let s1 := (List.range k).foldl (fun t i =>
    if s.layerSt n i ≠ 1 then t
    else if s.layerPasses n i then t.setLayerSt n i 2
    else (t.setLayerSt n i 3).layerFailed) (s.modWs n fun w => { w with
      sealing := false, folds := [], damaged := w.damaged.filter fun i => !(s.layerSt n i == 1 && s.layerPasses n i) })
  if s.wsState n = 6 ∧ (s1.wsAt n).damaged.isEmpty ∨ s.wsState n ≠ 6 ∧ (List.range k).all (fun i => s1.layerSt n i == 2) then s1.sealAll n
  else if (List.range k).any fun i => s1.layerSt n i == 3 then s1.flaconStatus 7
  else s1.flaconStatus 0
/-- SEAL_DONE (R325). -/
def execSealDone (set : Fin 16) (s : State) : Host.Outcome State Fault Refusal :=
  .next (whenLive s (if (s.wsAt set).sealing then s.sealEnd set else s))

/-- The LOADING layer of a set that holds a physical range whole. -/
def State.loadingLayer (s : State) (k : Nat) (base : Bool) (a n : Nat) : Option Nat :=
  let t := s.wsTarget k
  let m := s.wsManifest k
  if !s.takesLayers k || (s.wsAt k).sealing || t.1 != base then none
  else (List.range (manLayers m)).find? fun i =>
    let l := manLayer m i
    s.layerSt k i == 1 && decide (t.2 + l.off ≤ a ∧ a + n ≤ t.2 + l.off + l.size)
/-- Fold a WRITE into a LOADING layer (R324). -/
def State.foldLayer (s : State) (k i : Nat) (a : Nat) (data : List Byte) : State :=
  let m := s.wsManifest k
  let l := manLayer m i
  s.modWs k fun w => { w with folds := w.folds.map fun f => if f.layer = i then
    { f with acc := foldAt (manKey m) l.tile (a - (s.wsTarget k).2 - l.off) (blocks data) f.acc, blocks := f.blocks + data.length / 16 }
    else f }

/-! ### DECANT (R329 to R332) -/

/-- Every context whose active pointer names the set waits to switch to its staged epoch. -/
def State.allMarked (s : State) (n : Nat) : Bool :=
  s.loadedCtxs.all fun c => !((s.activePtr c).version != 0 && (s.activePtr c).set == n)
    || ((s.pendingPtr c).set == n && (s.pendingPtr c).version == s.wsStaged n && s.switchMark c)
/-- Virtual chip 0 of each run that names the set holds its group by one step (R331): when the decant is accepted, and again at each
gate that opens while another is closed (DESIGN CHOICE, log entry 110). -/
def State.holdRuns (s : State) (n : Nat) : State :=
  (s.loadedCtxs.filter fun c => (s.ctxAt c).flag 0 && (s.ctxAt c).vchip == 0 && (s.activePtr c).set == n
      && (s.activePtr c).version != 0).foldl (fun t c => t.holdRun c 1) s
/-- DECANT (R329): accepted, every layer's gate closes. -/
def State.decant (s : State) (n : Nat) : State :=
  let st := s.wsState n
  let intact := (s.wsAt n).stagedIntact
  if !((st == 4 || (st == 6 && intact)) && s.allMarked n) then s.flaconRefused 11
  else
    let m := (s.wsAt n).staged
    let s1 := (List.range (manLayers m)).foldl (fun t i => t.setLayerSt n i 4) s
    let s2 := ((s1.setWsState n 5).odSetBits (kWsetState n) 351 320 0).modWs n fun w => { w with
      active := m, copying := false, copyNext := 0, copyRetry := false }
    (s2.holdRuns n).flaconStatus 0
/-- DECANT. -/
def execDecant (set : Fin 16) (s : State) : Host.Outcome State Fault Refusal := flaconCmd (fun s => s.decant set) s

/-- A context is in a step that latched an epoch of the set: the new one, or an old one. -/
def State.inEpoch (s : State) (n : Nat) (new : Bool) : List Nat :=
  s.loadedCtxs.filter fun c => let x := s.ctxAt c
    x.st != .stopped && x.inStep && x.latched.version != 0 && x.latched.set == n && (x.latched.version == s.wsStaged n) == new
/-- The contexts that still drain the old epoch of a set: in a step that latched it, or between two steps, the next of which would
latch it again. -/
def State.drainsOld (s : State) (n : Nat) : List Nat :=
  s.loadedCtxs.filter fun c => let q := s.activePtr c
    (s.inEpoch n false).contains c || (decide ((s.ctxAt c).st ≠ .stopped ∧ q.version ≠ 0 ∧ q.set = n ∧ q.version ≠ s.wsStaged n) && !s.copies c)
/-- DECANT_COPY_START (R329): no context drains the old epoch any more. -/
def execDecantCopyStart (set : Fin 16) (s : State) : Host.Outcome State Fault Refusal :=
  .next (whenLive s (if s.wsState set = 5 ∧ !(s.wsAt set).copying ∧ (s.drainsOld set).isEmpty then
    s.modWs set fun w => { w with copying := true, copyNext := 0, copyRetry := false, copyBegan := s.g }
    else s))

/-- The set is FAILED (R332): its record, and the stop of every context in a step of the new epoch. -/
def State.failSet (s : State) (n layer cls : Nat) : State :=
  let s1 := ((s.setWsState n 6).modWs n fun w => { w with copying := false, failed := true }).event .flacon 1
  let s2 := s1.blotAdd (s1.mkRec cls 0 0 4 (unitId 12 1) none none 0 0 (leBytes 4 n ++ leBytes 4 layer))
  (s.inEpoch n true).foldl (fun t c => if (t.ctxAt c).flag 0 then t.runStop c s2.blot.last else t.stop c false 0) s2
/-- The last gate has opened: the set is ACTIVE at the new version. -/
def State.decantEnd (s : State) (n : Nat) : State :=
  let m := (s.wsAt n).staged
  (((s.setActive n m).setWsState n 2).odSetBits (kWsetState n) 191 128 0).modWs n fun w => { w with
    copying := false, staged := [], stagedIntact := false, damaged := [], failed := false }
/-- Virtual chip 0 repeats its hold until every chip of its run has reported its gates open (R331). How the others report is not stated:
for how many more step periods the last of them is waited for is free (log entry 110). -/
def State.holdForOthers (s : State) (n : Nat) : State :=
  (s.loadedCtxs.filter fun c => (s.ctxAt c).flag 0 && (s.ctxAt c).vchip == 0 && (s.activePtr c).set == n
      && (s.activePtr c).version != 0).foldl (fun t c =>
    let (k, t1) := t.drawNat
    if k % 256 = 0 then t1 else t1.holdRun c (k % 256)) s
/-- A layer's gate opens. -/
def State.openGate (s : State) (n i : Nat) : State :=
  let s1 := (s.setLayerSt n i 5).odSetBits (kWsetState n) 351 320 (s.odBits (kWsetState n) 351 320 + 1)
  let s2 := (s1.modWs n fun w => { w with copyNext := i + 1, copyRetry := false }).trace 0x0600
  let s3 := if i + 1 = manLayers (s.wsAt n).staged then (s2.decantEnd n).holdForOthers n else s2.holdRuns n
  s3.loadedCtxs.foldl (fun t c => t.gateOpened c) s3
/-- The copy of the next layer is complete: its digest opens the gate, repeats the copy once, or fails the set. A read of the
staging range that delivers no data fails the set; `obs` is what the controller sees of the layer's first code word. -/
def State.layerCopied (s : State) (n : Nat) (obs : ReadObs) : State :=
  let w := s.wsAt n
  let i := w.copyNext
  let m := w.staged
  let l := manLayer m i
  let base := bit (s.wsCfg n 2) 63
  let src := bits (s.wsCfg n 2) 41 0 + l.off
  let (s0, ok) := s.tierReadAt base src ⟨none, unitId 12 1, 0⟩ obs
  if !ok ∨ s.rangeFenced base src l.size then ((s0.modWs n fun w => { w with stagedIntact := false, damaged := [i] }).layerFailed).failSet n i 1
  else
    let bs := s.tierBytes base src l.size
    let s1 := s0.devWrite false (s.wsCfg n 0 + l.off) bs
    if closeFold (manKey m) l.tile (l.size / l.tile) (foldAt (manKey m) l.tile 0 (blocks bs) 0) = l.sil then s1.openGate n i
    else if w.copyRetry then s1.layerFailed.failSet n i 4
    else s1.layerFailed.modWs n fun w => { w with copyRetry := true }
/-- LAYER_COPY_DONE (R329, R332). -/
def execLayerCopyDone (set : Fin 16) (obs : ReadObs) (s : State) : Host.Outcome State Fault Refusal :=
  .next (whenLive s (if s.wsState set = 5 ∧ (s.wsAt set).copying then s.layerCopied set obs else s))
/-- GATE_LIMIT (R332): a gate is still closed GATE_LIMIT after the copy began. -/
def execGateLimit (set : Fin 16) (s : State) : Host.Outcome State Fault Refusal :=
  .next (whenLive s (let w := s.wsAt set
    if s.wsState set = 5 ∧ w.copying ∧ w.copyBegan + s.odGet kGateLimit ≤ s.g then s.layerFailed.failSet set w.copyNext 4
    else s))

/-- An EMPTY set. -/
def State.emptySet (s : State) (n : Nat) : State :=
  ((s.odSet (kWsetState n) 0).odSet (kLayerState n) 0).modWs n fun _ => WeightSet.reset
/-- RELEASE (Table 14-1). -/
def State.releaseSet (s : State) (n : Nat) : State :=
  match s.wsState n with
  | 1 => (s.emptySet n).flaconStatus 0
  | 2 => if s.namesSet n then s.flaconRefused 9 else (s.emptySet n).flaconStatus 0
  | 3 =>
    ((((s.setWsState n 2).odSetBits (kWsetState n) 191 128 0).odSetBits (kWsetState n) 63 32 (manLayers (s.wsAt n).active)).modWs n
      fun w => { w with staged := [], folds := [], stagedIntact := false }).flaconStatus 0
  | 6 => (s.emptySet n).flaconStatus 0
  | _ => s.flaconRefused 9
/-- RELEASE. -/
def execRelease (set : Fin 16) (s : State) : Host.Outcome State Fault Refusal := flaconCmd (fun s => s.releaseSet set) s

/-! ### The pending pointer (R316) -/

/-- The first condition of R316 that a pending pointer fails: 0 none. A set that does not exist has no heart range of the aperture's size
(DEDUCED, log entry 233). -/
def State.pendingRefusal (s : State) (c : Nat) (q : EpochPtr) : Nat :=
  let a := s.activePtr c
  if s.switchMark c then 1
  else if 16 ≤ q.set ∨ (a.version ≠ 0 ∧ s.wsCfg q.set 1 ≠ s.wsCfg a.set 1) then 2
  else
    let swap := (a.version == 0 || q.set != a.set) && s.wsState q.set == 2
    let dec := a.version != 0 && q.set == a.set && s.wsState q.set == 4 && q.version == s.wsStaged q.set
      && q.digest == beNat (((s.wsAt q.set).staged.drop 40).take 16)
    if swap || dec then 0 else 3
/-- EPOCH_PENDING (R316): 32 bytes. -/
def execEpochPending (c : Fin 256) (data : List Byte) (s : State) : Host.Outcome State Fault Refusal :=
  .next (if data.length ≠ 32 then s.refuse 3
    else
      let q := epochPtr (leNat data)
      let r := s.pendingRefusal c q
      let s1 := s.odSetBits (kEpochStatus c) 23 16 r
      if r = 0 then s1.odSet (kEpochPending c) (setBits (leNat data) 63 8 0) else s1.refuse 7)

/-! ### Key slots (R321) -/

/-- The status of a refused KEYSLOT_WRITE. -/
def State.keyRefused (s : State) (v : Nat) : State := ((s.odSet kKeyslotStatus v).event .sec 1).refuse 7
/-- A write of slot 0 blows a fuse bank: it changes the slot, and not to the contents that match the highest bank (R321). -/
def State.keyBlows (s : State) (i : Nat) (slot : List Byte) : Bool :=
  decide (i = 0) && slot != s.keySlot 0 && s.sec.banks.getLast? != some (beNat (sha3 slot))
/-- A KEYSLOT_WRITE is applied: the slot, the counter, and for slot 0 the next fuse bank. The status write that follows completes it. -/
def State.keyApply (s : State) (i counter : Nat) (slot : List Byte) : State :=
  let h := beNat (sha3 slot)
  let blow := s.keyBlows i slot
  let all := leBytes 3584 (s.odGet kKeyslots)
  let s1 := s.odSet kKeyslots (leNat (all.take (448 * i) ++ slot ++ all.drop (448 * (i + 1))))
  ({ s1 with sec := { s1.sec with counter := counter, banks := if blow then s1.sec.banks ++ [h] else s1.sec.banks } }.odSet
    kKeyslotStatus 1).flashJob (.keyslot blow)
/-- KEYSLOT_WRITE of a whole message and its signatures (R321). -/
def State.keyWrite (s : State) (d : List Byte) : State :=
  let i := field d 0 1
  let counter := field d 8 8
  let slot := (d.drop 16).take 448
  let k0 := s.keySlot 0
  let first := decide (i = 0) && slotEmpty k0 && s.sec.banks.isEmpty
  let sig := sigsOk k0 (d.take 464) ((d.drop 464).take 384) ((d.drop 848).take 16224)
  if 8 ≤ i ∨ !allZero ((d.drop 1).take 7) ∨ !allZero (slot.drop 436) then s.refuse 4
  else if s.odGet kKeyslotStatus = 1 then s.refuse 6
  else if field slot 384 4 ≠ 65537 then s.keyRefused 5
  else if !first ∧ slotEmpty k0 then s.keyRefused 4
  else if counter ≤ s.sec.counter then s.keyRefused 3
  else if !first ∧ !(sig.1 && sig.2) then s.keyRefused 2
  else if s.keyBlows i slot ∧ 4 ≤ s.sec.banks.length then s.keyRefused 6
  else s.keyApply i counter slot
/-- KEYSLOT_WRITE (R321, R363): 17,072 bytes. -/
def execKeyslotWrite (w : SeqWrite) (s : State) : Host.Outcome State Fault Refusal :=
  .next (s.seqApply kKeyslotWrite w (fun _ => 17072) fun t v => t.keyWrite v)

/-! ### Attestation (R334, Table 14-5) -/

/-- The fence list as FENCE_LIST shows it: 256 unit ids, 0xFFFF where unused. -/
def State.fenceList (s : State) : List Byte :=
  ((s.unitFences ++ List.replicate 256 0xFFFF).take 256).flatMap fun u => leBytes 2 u
/-- The attestation report. -/
def State.attestReport (s : State) (seq : Nat) (nonce : List Byte) : List Byte :=
  leBytes 2 1 ++ leBytes 1 (s.odGet kGrade) ++ leBytes 1 (s.odGet kStepping) ++ leBytes 4 seq ++ leBytes 8 s.g ++ nonce
    ++ leBytes 16 (s.odGet kSerial) ++ leBytes 48 (s.odGet kFwImage) ++ sha3 (leBytes 3584 (s.odGet kKeyslots)) ++ sha3 s.fenceList
    ++ leBytes 32 (s.odGet kAuditChain) ++ sha3 ((List.range 16).flatMap fun n => leBytes 48 (s.odGet (kWsetState n)))
    ++ leBytes 1 (s.odGet kSdcCount) ++ leBytes 15 0
/-- ATTEST_REQ (R334): a further request is refused while one runs; a locked key store signs nothing (R397). -/
def execAttestReq (nonce : List Byte) (s : State) : Host.Outcome State Fault Refusal :=
  .next (if nonce.length ≠ 32 then s.refuse 3
    else if s.sec.nonce.isSome then s.refuse 6
    else if s.sec.locked then (s.odSet kAttestStatus 2).refuse 7
    else { s with sec := { s.sec with nonce := some nonce } }.odSet kAttestStatus 1)
/-- ATTEST_DONE (R334): the report and its signatures are readable. -/
def execAttestDone (s : State) : Host.Outcome State Fault Refusal :=
  .next (match s.sec.nonce with
    | none => s
    | some n =>
      let q := nextSeq s.sec.reportSeq
      let r := s.attestReport q n
      let s1 := { s.skipFree 72 with sec := { s.sec with nonce := none, reportSeq := q } }
      (s1.odSet kAttestResult (leNat (r ++ idRsaSign (freeBytes s.free 48) r ++ idSlhSign (freeBytes (s.free + 48) 24) r))).odSet
        kAttestStatus 0)

end Sys2Proof.Machine
end

