-- ==== Sys2Proof/Machine/Packets.lean ====
section
/-!
DEFINITION. What delivered packets do (R240, R245, R247, R255, R256): physical writes and reads of flow 0, reads on a flow,
responses, queue pushes and canonical-tree nodes.
-/
namespace Sys2Proof.Machine

/-! ### Physical accesses (flow 0) -/

/-- The base tier, by the TIER field; the other codes name no tier. -/
def pktBase (p : Packet) : Bool := p.tier == 1
/-- Every byte that a flow-0 access names exists (R247, R255). -/
def State.physOk (s : State) (p : Packet) (n : Nat) : Bool := decide (p.tier < 2) && s.rangeOk (pktBase p) p.addr n
/-- Count an address that does not exist. -/
def State.countOutside (s : State) : State := (s.bump kOutOfRegion 1).event .fabric 4
/-- A host write of `n` bytes at `a` may touch the reserved region (R340): whole in the command rings or the staging area. -/
def State.hostMayWrite (s : State) (base : Bool) (a n : Nat) : Bool :=
  let o := a - s.fwBase
  !s.inReserved base a n || decide (s.fwBase ≤ a ∧ ((0x2E0000 ≤ o ∧ o + n ≤ 0x300000) ∨ (0x400000 ≤ o ∧ o + n ≤ 0x600000)))
/-- What R324 makes of a physical write: not in a set's ranges; discarded; accepted; folded into a LOADING layer. -/
inductive SetWrite | outside | discard | accept | fold (set layer : Nat)
deriving DecidableEq, Repr
/-- R324. Only the host writes a LOADING layer, in whole code words. -/
def State.setWrite (s : State) (host base : Bool) (a n : Nat) : SetWrite :=
  match s.setRange base a n with
  | none => .outside
  | some (k, true) => if (s.wsAt k).verifying.isSome then .discard else .accept
  | some (k, false) =>
    match s.loadingLayer k base a n with
    | some i => if host && a % 64 == 0 && n % 64 == 0 then .fold k i else .discard
    | none => .discard

/-- A suspect payload that belongs to no context (R240). -/
def State.suspectAny (s : State) (p : Packet) : State :=
  if p.suspect then
    let s1 := (s.bump kPayloadSuspect 1).event .fabric 1
    s1.blotAdd (s1.mkRec 4 0 0 0 (unitId 12 1) none none 0 0 (fabricSyn p.port p.flow p.seq.toNat p.words))
  else s

/-- The write itself, acknowledged when it is visible (R245), or UCE_DATA when its narrow read is uncorrectable. -/
def State.physStore (s : State) (p : Packet) (obs : List ReadObs) : State :=
  let (s1, ok) := (s.suspectAny p).tierStore (pktBase p) p.addr p.payload ⟨none, 0, 0⟩ obs
  s1.ack p (if ok then b2n p.suspect else 5) 0
/-- A WRITE on flow 0 (R247, R324, R340). -/
def State.physWrite (s : State) (p : Packet) (host : Bool) (obs : List ReadObs) : State :=
  let b := pktBase p
  if !s.physOk p p.len then s.countOutside.ack p 2 0
  else if host && !s.hostMayWrite b p.addr p.len then s.ack p 2 0
  else match s.setWrite host b p.addr p.len with
    | .discard => s.ack p 2 0
    | w =>
      if s.rangeFenced b p.addr p.len then s.ack p 5 0
      else match w with
        | .fold k i => (s.foldLayer k i p.addr p.payload).physStore p obs
        | _ => s.physStore p obs

/-- A WRITE on a flow, or a TREE_REDUCE: delivered into its region and acknowledged. -/
def State.flowWrite (s : State) (p : Packet) (obs : List ReadObs) : State :=
  let d := s.landPacket p obs
  match d.status with
  | some st => d.st.ack p st 0
  | none => d.st
/-- WRITE (R247). `fromBridge`: the host sent it through the bridge; a flow-0 WRITE otherwise comes from a firmware
complex, since no MOVE names flow 0. -/
def execWrite (pkt : Packet) (fromBridge : Bool) (obs : List ReadObs) (s : State) : Host.Outcome State Fault Refusal :=
  .next (whenLive s (onPacket 1 pkt (fun t =>
    if pkt.len = 0 then t.dropMalformed pkt
    else if pkt.flow = 0 then t.physWrite pkt fromBridge obs
    else t.flowWrite pkt obs) s))
/-- TREE_REDUCE (R273): a node of the canonical tree, delivered as a WRITE. On flow 0 there is no receive half. -/
def execTreeReduce (pkt : Packet) (obs : List ReadObs) (s : State) : Host.Outcome State Fault Refusal :=
  .next (whenLive s (onPacket 7 pkt (fun t => if pkt.flow = 0 then t.ack pkt 3 0 else t.flowWrite pkt obs) s))

/-! ### Reads -/

/-- The read of a range for a requester: its data, or the status of Table 11-4. `obs` is what the controller sees of its code
words in turn. A fenced range writes no record (R255). -/
def State.readFor (s : State) (base : Bool) (a n : Nat) (obs : List ReadObs) : State × Nat × List Byte :=
  if s.rangeFenced base a n then (s, 5, [])
  else match s.tierFetch base a n ⟨none, 0, 0⟩ obs with
    | (s1, some bs) => (s1, 0, bs)
    | (s1, none) => (s1, 5, [])
/-- Answer a READ_REQ with a range's data. -/
def State.answerRead (s : State) (p : Packet) (base : Bool) (a n : Nat) (obs : List ReadObs) : State :=
  let r := s.readFor base a n obs
  r.1.respond p r.2.1 0 r.2.2
/-- The bytes that a READ_REQ asks for. -/
def reqBytes (p : Packet) : Nat := p.aux.toNat % 8192
/-- READ_REQ on a flow: the receive region is read as WRITE addresses it, under the flow's step tag and sequence (R244, R248). -/
def State.flowRead (s : State) (p : Packet) (obs : List ReadObs) : State :=
  let e := s.flowEnt p.flow
  match s.flowGate p with
  | .noFlow => s.respond p 3 0 []
  | .stale t => t
  | .pass t =>
    if flowSize e < p.addr + reqBytes p then t.countOutside.respond p 2 0 []
    else match t.window (flowRecv e) (flowBaseTier e) (flowBase e + p.addr) (reqBytes p) false with
      | none => t.countOutside.respond p 2 0 []
      | some a => t.answerRead p (flowBaseTier e) a (reqBytes p) obs
/-- READ_REQ (R255): on flow 0 the host and the firmware complexes send it. -/
def execReadReq (pkt : Packet) (obs : List ReadObs) (s : State) : Host.Outcome State Fault Refusal :=
  .next (whenLive s (onPacket 2 pkt (fun t =>
    if reqBytes pkt = 0 ∨ 4096 < reqBytes pkt then t.countMalformed.respond pkt 4 0 []
    else if pkt.flow = 0 then
      (if !t.physOk pkt (reqBytes pkt) then t.countOutside.respond pkt 2 0 []
       else t.answerRead pkt (pktBase pkt) pkt.addr (reqBytes pkt) obs)
    else t.flowRead pkt obs) s))

/-- READ_RSP (R245): an acknowledgement of a LAUNCH write ends its repetition (R255); a suspect payload is counted, and
marks the step of the context that sent the request suspect (R240). -/
def execReadRsp (pkt : Packet) (s : State) : Host.Outcome State Fault Refusal :=
  .next (whenLive s (onPacket 3 pkt (fun t =>
    if pkt.flow = 0 then
      ({ t with unacked := t.unacked.filter fun e => !(e.1.seq == pkt.seq && e.1.dstChip == pkt.srcChip) }).suspectAny pkt
    else t.suspectIn (flowSend (t.flowEnt pkt.flow)) pkt) s))

/-! ### Queue pushes (R256) -/

/-- What a packet of a flow meets at its destination besides a region: a valid receive half, the step tag (R244) and the
sequence check (R248). -/
def onFlow (p : Packet) (f : State → State) (s : State) : State :=
  if p.flow = 0 then f s
  else match s.flowGate p with
    | .noFlow => s.ack p 3 0
    | .stale t => t
    | .pass t => f t
/-- Write the entries of a push at TAIL, one by one along the ring. -/
def State.putEntries (s : State) (q : Nat) (l : List (List Byte)) : State :=
  (l.zipIdx.foldl (fun (t : State) e => t.devWrite false (t.qAddr q (s.qTail q + e.2)) e.1) s).setQTail q (s.qTail q + l.length)
/-- A push of entries: refused whole when it would exceed the depth. -/
def State.pushEntries (s : State) (p : Packet) (q : Nat) (l : List (List Byte)) : State :=
  if s.qDepth q < dist32 (s.qTail q + l.length) (s.qHead q) then s.queueOverflow.ack p 6 0x20
  else (s.putEntries q l).ack p 0 0
/-- QUEUE_PUSH (R256): 1 to 4 entries of 64 B; only the device writes completion queues (R196). -/
def execQueuePush (pkt : Packet) (s : State) : Host.Outcome State Fault Refusal :=
  let q := pkt.dstQueue % 16384
  .next (whenLive s (onPacket 4 pkt (onFlow pkt fun t =>
    if pkt.len = 0 ∨ pkt.len % 64 ≠ 0 then t.dropMalformed pkt
    else if t.qIsCompletion q then t.ack pkt 6 0
    else t.pushEntries pkt q (chunks 64 4 pkt.payload)) s))

end Sys2Proof.Machine
end

