-- ==== Sys2Proof/Machine/Bridge.lean ====
section
/-!
DEFINITION. The host bridge (R258 to R260, R262, R381): the host's accesses to BAR0 and configuration space, transmit and receive
rings, MSI-X vectors, Function Level Reset, link down and PERST_N. On a chip without the bridge strap there is no endpoint, and
these events do nothing.

No row of the table is an access of the host to BAR0 of its own: the accesses are operands of HOST_TRANSMIT and RX_RING_TAIL, and
precede what the command does (log entry 12).
-/
namespace Sys2Proof.Machine

/-- A ring register block after reset. -/
def ringDefault : Nat → HostRing := fun _ => ⟨0, 0, 0, 0, 0, 0⟩
/-- Transmit ring `r`. -/
def State.txRing (s : State) (r : Nat) : HostRing := SMap.get ringDefault s.bridge.tx r
/-- Receive ring `r`. -/
def State.rxRing (s : State) (r : Nat) : HostRing := SMap.get ringDefault s.bridge.rx r
/-- Replace transmit ring `r`. -/
def State.setTx (s : State) (r : Nat) (x : HostRing) : State :=
  { s with bridge := { s.bridge with tx := SMap.set ringDefault s.bridge.tx r x } }
/-- Replace receive ring `r`. -/
def State.setRx (s : State) (r : Nat) (x : HostRing) : State :=
  { s with bridge := { s.bridge with rx := SMap.set ringDefault s.bridge.rx r x } }
/-- After HEAD advances on a ring with IRQ_EN set, VECTOR is raised. -/
def State.ringIrq (s : State) (x : HostRing) : State := if bit x.ctrl 12 then s.raiseVector (bits x.ctrl 10 0) else s
/-- An event of a bridge endpoint. -/
def onBridge (f : State → State) (s : State) : State := if s.isBridge then whenLive s (f s) else s

/-! ### Ring register blocks (R258) -/

/-- The 64 bytes of a ring register block. -/
def HostRing.bytes (x : HostRing) : List Byte :=
  leBytes 8 x.base ++ leBytes 4 x.depthLog2 ++ leBytes 4 x.ctrl ++ leBytes 4 x.head ++ leBytes 4 x.tail ++ leBytes 4 x.errors
    ++ List.replicate 36 0
/-- A host write into a ring register block from byte `off`. HEAD is the bridge's. While ENABLE is set only TAIL and ENABLE change
(ENABLE: DESIGN CHOICE, log entry 202); BASE is aligned to 4 KiB, and a depth outside 4 to 16 is not taken. -/
def HostRing.write (x : HostRing) (off : Nat) (data : List Byte) : HostRing :=
  let v := leNat (spliceAt x.bytes off (data.take (64 - off)))
  let y := { x with tail := bits v 191 160 }
  if bit x.ctrl 31 then { y with ctrl := setBits x.ctrl 31 31 (bits v 127 127) }
  else
    let d := bits v 71 64
    { y with base := bits v 63 12 * 4096, depthLog2 := if 4 ≤ d ∧ d ≤ 16 then d else x.depthLog2,
             ctrl := keepBits (bits v 127 96) [(31, 31), (12, 12), (10, 0)], errors := bits v 223 192 }
/-- ENABLE of a ring. -/
def HostRing.on (x : HostRing) : Bool := bit x.ctrl 31
/-- The ring has an entry between HEAD and TAIL (R233). -/
def HostRing.posted (x : HostRing) : Bool := x.on && laterSeq x.tail x.head
/-- The host address of the entry at HEAD. -/
def HostRing.entryAddr (x : HostRing) : Nat := x.base + 16 * (x.head % 2 ^ x.depthLog2)

/-! ### MSI-X (R260) -/

/-- A pending vector that nothing masks any longer is signalled (PRESUMED: PCI Express, log entry 9). -/
def State.unmaskVector (s : State) (v : Nat) : State :=
  if s.bridge.msixPend.contains v && s.bridge.msixOpen v then
    { s with bridge := { s.bridge with msixPend := s.bridge.msixPend.erase v, signalled := v :: s.bridge.signalled } }
  else s
/-- A host write of one byte of the MSI-X table. -/
def State.msixByte (s : State) (o : Nat) (b : Byte) : State :=
  let v := o / 16 % 2048
  let i := 8 * (o % 16)
  { s with bridge := { s.bridge with
    msixTable := SMap.modify msixDefault s.bridge.msixTable v fun w => keepBits (setBits w (i + 7) i b.toNat) [(96, 0)] } }
/-- A host write into the MSI-X table. -/
def State.msixWrite (s : State) (o : Nat) (data : List Byte) : State :=
  let s1 := data.zipIdx.foldl (fun t e => t.msixByte (o + e.2) e.1) s
  (List.range (data.length / 16 + 2)).foldl (fun t i => t.unmaskVector ((o / 16 + i) % 2048)) s1
/-- The pending vectors that nothing masks any longer are signalled. -/
def State.unmaskAll (s : State) : State := s.bridge.msixPend.reverse.foldl State.unmaskVector s
/-- A byte of the pending-bit array: bit v of it is vector v. -/
def State.pbaByte (s : State) (i : Nat) : Byte :=
  BitVec.ofNat 8 ((List.range 8).foldl (fun n k => n + b2n (s.bridge.msixPend.contains (8 * i + k)) * 2 ^ k) 0)

/-! ### BAR0 and configuration space (R258, Tables 11-9 and 11-10) -/

/-- A byte of BAR0. Offsets that the map does not name read as zero. -/
def State.barByte (s : State) (off : Nat) : Byte :=
  if off < 0x1000 then Config.barIdentity ((List.range 12).map fun i => s.odGet (0x430001 + i)) off
  else if off < 0x2000 then (s.txRing ((off - 0x1000) / 64)).bytes.getD (off % 64) 0
  else if off < 0x3000 then (s.rxRing ((off - 0x2000) / 64)).bytes.getD (off % 64) 0
  else if 0x80000 ≤ off ∧ off < 0x88000 then
    (leBytes 16 (SMap.get msixDefault s.bridge.msixTable ((off - 0x80000) / 16))).getD (off % 16) 0
  else if 0x90000 ≤ off ∧ off < 0x90100 then s.pbaByte (off - 0x90000)
  else 0
/-- A host write into BAR0, within one 64-byte block; writes to what the map does not name, to the identity page and to the
pending-bit array are ignored. -/
def State.barWrite (s : State) (off : Nat) (data : List Byte) : State :=
  if 0x1000 ≤ off ∧ off < 0x2000 then
    (let r := (off - 0x1000) / 64; s.setTx r ((s.txRing r).write (off % 64) data))
  else if 0x2000 ≤ off ∧ off < 0x3000 then
    (let r := (off - 0x2000) / 64; s.setRx r ((s.rxRing r).write (off % 64) data))
  else if 0x80000 ≤ off ∧ off < 0x88000 then s.msixWrite (off - 0x80000) data
  else s
/-- The offsets of the registers of capabilities that the model holds: the power state, MSI-X message control and device control, in
the layouts of PCI Express (PRESUMED); where the capabilities lie is free (log entry 12). -/
def pmReg : Nat := Config.pcieCap 1 + 4
/-- MSI-X message control. -/
def msixReg : Nat := Config.pcieCap 0x11 + 2
/-- Device control. -/
def devReg : Nat := Config.pcieCap 0x10 + 8
/-- A byte of the endpoint's configuration space: Device ID, Class Code 0x12_0000, one function, BAR0 as a 64-bit, non-prefetchable
1 MiB space, no further BAR (Table 11-9). The header's layout is that of PCI Express (PRESUMED), and every other byte is free (log
entry 12). -/
def State.cfgByte (s : State) (off : Nat) : Byte :=
  if off = 2 ∨ off = 3 then (leBytes 2 (s.odGet kDeviceId)).getD (off - 2) 0
  else if 9 ≤ off ∧ off ≤ 11 then (leBytes 3 0x120000).getD (off - 9) 0
  else if off = 14 then 0
  else if 0x10 ≤ off ∧ off < 0x18 then (leBytes 8 (s.bridge.bar0 + 4)).getD (off - 0x10) 0
  else if 0x18 ≤ off ∧ off < 0x28 then 0
  else
    let free := (Config.pcieConfig off).toNat
    let of := fun (at_ v mask : Nat) => BitVec.ofNat 8 ((v >>> (8 * (off - at_)) &&& mask) ||| (free &&& (255 ^^^ mask)))
    if off = pmReg then of pmReg s.bridge.power 0x03
    else if off = msixReg then BitVec.ofNat 8 (2047 % 256)
    else if off = msixReg + 1 then of msixReg (s.bridge.msixCtl + 2047) 0xFF
    else if off = devReg then of devReg s.bridge.devCtl 0xE0
    else if off = devReg + 1 then of devReg s.bridge.devCtl 0x70
    else Config.pcieConfig off
/-- A host write of one byte of configuration space: BAR0's address, a multiple of its 1 MiB; the power state, D0 or D3hot; MSI-X
Enable and Function Mask; the payload size up to 512 B and the read-request size up to 4,096 B (Table 11-9). -/
def State.cfgPut (s : State) (off : Nat) (b : Byte) : State :=
  let v := b.toNat
  if 0x10 ≤ off ∧ off < 0x18 then
    let i := 8 * (off - 0x10)
    { s with bridge := { s.bridge with bar0 := setBits s.bridge.bar0 (i + 7) i v / 2 ^ 20 * 2 ^ 20 } }
  else if off = pmReg then
    (if v % 4 = 0 ∨ v % 4 = 3 then { s with bridge := { s.bridge with power := v % 4 } }.unmaskAll else s)
  else if off = msixReg + 1 then { s with bridge := { s.bridge with msixCtl := keepBits (v * 256) [(15, 14)] } }.unmaskAll
  else if off = devReg then
    (if bits v 7 5 ≤ 2 then { s with bridge := { s.bridge with devCtl := setBits s.bridge.devCtl 7 5 (bits v 7 5) } } else s)
  else if off = devReg + 1 then
    (if bits v 6 4 ≤ 5 then { s with bridge := { s.bridge with devCtl := setBits s.bridge.devCtl 14 12 (bits v 6 4) } } else s)
  else s
/-- A host write into configuration space. -/
def State.cfgWrite (s : State) (off : Nat) (data : List Byte) : State := data.zipIdx.foldl (fun t e => t.cfgPut (off + e.2) e.1) s
/-- What the host reads. -/
def State.hostRead (s : State) (l : List Byte) : State := { s with bridge := { s.bridge with readOut := l } }
/-- One access of the host. In D3hot the function takes no access of BAR0: writes are dropped and a read answers ones (PRESUMED: PCI
Express, log entry 12). -/
def State.hostAccess (s : State) : HostAccess → State
  | .barWrite off data => if s.bridge.power = 0 then s.barWrite off data else s
  | .barRead off n => s.hostRead (if s.bridge.power = 0 then (List.range n).map (fun i => s.barByte (off + i)) else List.replicate n 0xFF)
  | .cfgWrite off data => s.cfgWrite off data
  | .cfgRead off n => s.hostRead ((List.range n).map fun i => s.cfgByte (off + i))
/-- The host's accesses in order. -/
def State.hostAccesses (s : State) (l : List HostAccess) : State := l.foldl State.hostAccess s

/-! ### Transmit (R259) -/

/-- The packet that the bridge injects: SRC_CHIP its own id, RTAG HOST and the ring, the CRC formed anew. -/
def State.injected (s : State) (r : Nat) (p : Packet) : Packet := pktSeal { p with srcChip := s.odGet kChipId, rtag := 64 + r }
/-- STATUS of a transmit entry (Table 11-11). -/
def State.txStatus (s : State) (r : Nat) (p : Packet) : Nat :=
  if p.crc ≠ BitVec.ofNat 32 (pktCrc p) then 1
  else if p.cls = 8 then 2
  else if s.pktMalformed p then 3
  else if (s.routeOf (s.injected r p)).isNone then 4
  else 0
/-- What the status does besides. -/
def State.txEffect (s : State) (r : Nat) (p : Packet) : Nat → State
  | 0 => (s.routeLocal (s.injected r p)).bump kHostTxPackets 1
  | 1 => (s.bump kHostCrcErrors 1).event .bridge 2
  | 4 => s.noRoute
  | _ => s
/-- The entry at HEAD is served, if the ring is in service and has one, and the function is in D0. ERRORS counts the entries that fail (DESIGN CHOICE, log
entry 202). -/
def State.hostTx (s : State) (r : Nat) (p : Packet) : State :=
  let x := s.txRing r
  if !x.posted ∨ s.bridge.power ≠ 0 then s
  else
    let st := s.txStatus r p
    let s1 := s.txEffect r p st
    let s2 := s1.setTx r { x with head := (x.head + 1) % 2 ^ 32, errors := min (2 ^ 32 - 1) (x.errors + b2n (st != 0)) }
    ({ s2 with bridge := { s2.bridge with hostTx := ⟨r, x.head, x.entryAddr, st, 32 + p.len⟩ :: s2.bridge.hostTx } }).ringIrq x
/-- HOST_TRANSMIT: the host's accesses, then the entry at HEAD. -/
def execHostTransmit (r : Fin 64) (pkt : Packet) (host : List HostAccess) (s : State) : Host.Outcome State Fault Refusal :=
  .next (onBridge (fun t => (t.hostAccesses host).routeOutbox.hostTx r pkt) s)

/-! ### Receive (R259) -/

/-- A held packet leaves the bridge: with its last copy its credits are returned. -/
def State.unhold (s : State) (h : HeldPkt) : State :=
  { s with bridge := { s.bridge with held := s.bridge.held.erase h } }.copyGone h.input h.pkt
/-- The packet goes into the next posted buffer, then the entry, then HEAD. -/
def State.hostPut (s : State) (h : HeldPkt) : State :=
  let x := s.rxRing h.ring
  let s1 := (s.unhold h).suspectAny h.pkt
  let s2 := (s1.setRx h.ring { x with head := (x.head + 1) % 2 ^ 32 }).bump kHostRxPackets 1
  let e : HostEntry := ⟨h.ring, x.head, x.entryAddr, b2n h.pkt.suspect, 32 + h.pkt.len⟩
  let s3 := ({ s2 with bridge := { s2.bridge with hostRx := (e, h.pkt) :: s2.bridge.hostRx } }).ringIrq x
  if h.pkt.opcode = 3 then s3 else s3.ack h.pkt (b2n h.pkt.suspect) 0
/-- A packet waits for a buffer; its wait is counted once. -/
def State.hostWait (s : State) (h : HeldPkt) : State :=
  if h.stalled then s
  else
    ({ s with bridge := { s.bridge with
        held := s.bridge.held.map fun y => if y = h then { y with stalled := true } else y } }.bump kHostRxStalls 1).event .bridge 3
/-- Serve a held packet: without a flow, stale, written, or left waiting. A response is under no flow's check (R244, R248). -/
def State.hostServe (s : State) (h : HeldPkt) : State :=
  let room := (s.rxRing h.ring).posted && s.bridge.power == 0
  if h.pkt.opcode = 3 then (if room then s.hostPut h else s.hostWait h)
  else match s.flowGate h.pkt with
    | .noFlow => (s.unhold h).ack h.pkt 3 0
    | .stale t => t.unhold h
    | .pass t => if room then t.hostPut h else s.hostWait h
/-- HOST_RECEIVE: the oldest packet of the ring. -/
def execHostReceive (r : Fin 64) (s : State) : Host.Outcome State Fault Refusal :=
  .next (onBridge (fun t => match t.bridge.held.find? fun h => h.ring == r.val with
    | some h => t.hostServe h
    | none => t) s)
/-- The packets that wait for a buffer of a ring are written in order. -/
def State.hostServeAll (s : State) (r : Nat) : State :=
  (s.bridge.held.filter fun h => h.ring == r && h.stalled).foldl State.hostServe s
/-- RX_RING_TAIL: the host's accesses, then its write of TAIL, which posts buffers. -/
def execRxRingTail (r : Fin 64) (tail : W32) (host : List HostAccess) (s : State) : Host.Outcome State Fault Refusal :=
  .next (onBridge (fun t => ((t.hostAccesses host).barWrite (0x2000 + 64 * r + 20) (leBytes 4 tail.toNat)).hostServeAll r) s)

/-! ### Vectors and resets (R258, R260, R262, R381) -/

/-- MSIX_RAISE (R260): a write of a vector; ignored without the bridge. -/
def execMsixRaise (v : BitVec 16) (s : State) : Host.Outcome State Fault Refusal :=
  .next (if s.isBridge then s.signalVector (v.toNat % 2048) else s)
/-- The host rings and the bridge counters at their reset values. -/
def State.resetRings (s : State) : State :=
  let s1 := { s with bridge := { s.bridge with tx := [], rx := [] } }
  [kHostTxPackets, kHostRxPackets, kHostCrcErrors, kHostRxStalls].foldl (fun t k => t.odSet k 0) s1
/-- FUNCTION_LEVEL_RESET (R258). -/
def execFunctionLevelReset (s : State) : Host.Outcome State Fault Refusal :=
  .next (if s.isBridge then s.resetRings else s)
/-- The PCIe link is down. -/
def State.pcieDown (s : State) : State := (s.odSet kPcieLink 0).event .bridge 0
/-- PCIE_LINK_DOWN (R262). -/
def execPcieLinkDown (s : State) : Host.Outcome State Fault Refusal := .next (if s.isBridge then s.pcieDown else s)
/-- PERST_N (R381): the fundamental reset of the endpoint: rings, counters, MSI-X table and pending bits, BAR0 and the capabilities' registers at their
reset values, the link down (log entry 13). -/
def execPerstN (s : State) : Host.Outcome State Fault Refusal :=
  .next (if s.isBridge then
    let s1 := s.resetRings
    { s1 with bridge := { s1.bridge with msixTable := [], msixPend := [], bar0 := 0, power := 0, msixCtl := 0, devCtl := 2 ^ 13 } }.pcieDown
    else s)

end Sys2Proof.Machine
end

