-- ==== Sys2Proof/Machine/Codec.lean ====
section
/-!
DEFINITION. The activation codec (R177 to R180, Tables 8-3 and 8-4): coded blocks, the save pool, and its three jobs.
-/
namespace Sys2Proof.Machine

/-! ### Coded blocks (R177, Table 8-4) -/

/-- The format of a FMT code. -/
def codecFmt (f : Nat) : Fmt :=
  match f with
  | 0 => .bf16
  | 1 => .e4m3
  | _ => .e5m2
/-- The bits of the exponent field of a format. -/
def expBits (f : Fmt) : Nat := (fspec f).width - 1 - (fspec f).mbits
/-- The raw exponent field of an element. -/
def rawExp (f : Fmt) (v : Nat) : Nat := v / 2 ^ (fspec f).mbits % 2 ^ expBits f
/-- The sign and mantissa bits of an element, the sign above the mantissa. -/
def signMan (f : Fmt) (v : Nat) : Nat := v / 2 ^ ((fspec f).width - 1) % 2 * 2 ^ (fspec f).mbits + v % 2 ^ (fspec f).mbits
/-- An element from its exponent field and its sign and mantissa bits. -/
def joinElem (f : Fmt) (e sm : Nat) : Nat :=
  sm / 2 ^ (fspec f).mbits * 2 ^ ((fspec f).width - 1) + e * 2 ^ (fspec f).mbits + sm % 2 ^ (fspec f).mbits
/-- The bit length of a number. -/
def bitLen (n : Nat) : Nat := if n = 0 then 0 else Nat.log2 n + 1
/-- The bytes of a raw block. -/
def rawBlock (f : Fmt) : Nat := 256 * fmtWidth f / 8
/-- The bytes of a payload with delta width `w`. -/
def codedBlock (f : Fmt) (w : Nat) : Nat := 32 * w + 32 * ((fspec f).mbits + 1)

/-- Code one block: whether RAW is set, and its bytes. -/
def codeBlock (f : Fmt) (es : List Nat) : Bool × List Byte :=
  let xs := es.map (rawExp f)
  let lo := xs.foldl min (2 ^ expBits f - 1)
  let hi := xs.foldl max 0
  let w := bitLen (hi - lo)
  let raw := decide (rawBlock f ≤ codedBlock f w)
  let hdr := leBytes 2 (b2n raw * 2 ^ 15 + w * 2 ^ 8 + lo)
  (raw, hdr ++ if raw then packRow f es
    else leBytes (32 * w) (packNat w (xs.map (· - lo))) ++
      leBytes (32 * ((fspec f).mbits + 1)) (packNat ((fspec f).mbits + 1) (es.map (signMan f))))
/-- Decode one block from the front of a byte list: its elements and what follows; none where it is malformed. -/
def decodeBlock (f : Fmt) (bs : List Byte) : Option (List Nat × List Byte) :=
  let h := leNat (bs.take 2)
  let r := bs.drop 2
  let w := bits h 11 8
  if bs.length < 2 ∨ bits h 14 12 ≠ 0 ∨ expBits f < w ∨ 2 ^ expBits f ≤ bits h 7 0 then none
  else if bit h 15 then
    (if r.length < rawBlock f then none else some (unpackRow f 256 (r.take (rawBlock f)), r.drop (rawBlock f)))
  else if r.length < codedBlock f w then none
  else
    let ds := unpackNat w (leNat (r.take (32 * w))) 256
    let sm := unpackNat ((fspec f).mbits + 1) (leNat ((r.drop (32 * w)).take (32 * ((fspec f).mbits + 1)))) 256
    if ds.any fun d => decide (2 ^ expBits f ≤ bits h 7 0 + d) then none
    else some ((ds.zip sm).map fun p => joinElem f (bits h 7 0 + p.1) p.2, r.drop (codedBlock f w))
/-- Decode `n` blocks: their bytes and what follows. -/
def decodeBlocks (f : Fmt) : Nat → List Byte → Option (List Byte × List Byte)
  | 0, bs => some ([], bs)
  | n + 1, bs =>
    match decodeBlock f bs with
    | none => none
    | some (es, r) => (decodeBlocks f n r).map fun q => (packRow f es ++ q.1, q.2)

/-- The FP8 E4M3 elements and the scale bytes of a BF16 tensor (R38, RNE, 32 consecutive elements per scale). -/
def toMx8 (es : List Nat) : List Byte × List Nat :=
  let l := (chunks 32 es.length es).map fun g => convBlock .e4m3 .rne false (List.replicate 32 0) (g.map (decodeVal .bf16))
  (l.map fun p => BitVec.ofNat 8 p.1, l.flatMap Prod.snd)

/-- What a CODE or CODE_MX8 of raw bytes comes to: the blocks written RAW, and the coded bytes. The scales of CODE_MX8
follow its blocks (log entry 41). -/
def codeTensor (f : Fmt) (mx8 : Bool) (n : Nat) (raw : List Byte) : Nat × List Byte :=
  let es := unpackRow f (256 * n) raw
  let (sc, xs) := if mx8 then toMx8 es else ([], es)
  let g := if mx8 then Fmt.e4m3 else f
  let l := (chunks 256 n xs).map (codeBlock g)
  ((l.filter Prod.fst).length, l.flatMap Prod.snd ++ sc)
/-- What a DECODE of coded bytes restores: the elements and, for a tensor of CODE_MX8, its scales. -/
def decodeTensor (f : Fmt) (n : Nat) (bs : List Byte) : Option (List Byte) :=
  match decodeBlocks f n bs with
  | none => none
  | some (es, r) => if r.length = 0 ∨ (r.length = 8 * n ∧ f = .e4m3) then some (es ++ r) else none

/-! ### Jobs (R178, R180) -/

/-- The codec of an accord's die as a record names it. -/
def State.codecUnit (s : State) (a : Nat) : Nat := unitId 12 (3 + s.dieOf a)
/-- A descriptor is well formed (Table 8-3). -/
def jobOk (op : Nat) (j : CodecJob) : Bool :=
  decide (j.stier < 2 ∧ j.dtier < 2 ∧ j.saddr % 64 = 0 ∧ j.handle % 16 = 0) && (op == 3 || decide (j.fmt < 3))
    && (op != 2 || j.fmt == 0)
/-- A job descriptor of 64 B: the operation and the job (Table 8-3). -/
def jobOf (bs : List Byte) : Nat × CodecJob :=
  let v := leNat bs
  (bits v 511 508,
   { fmt := bits v 507 506, tokq := ⟨bits v 505 501, by unfold bits; omega⟩, value := BitVec.ofNat 32 (bits v 500 469),
     stier := bits v 468 467, saddr := bits v 466 423, dtier := bits v 422 421, daddr := bits v 420 377, poolM1 := bits v 376 353,
     nblkM1 := bits v 352 321, handle := bits v 320 277 })
/-- The number of blocks of a job. -/
def jobBlocks (j : CodecJob) : Nat := j.nblkM1 + 1
/-- A codec fault (R180). -/
def State.codecFault (s : State) (c unit handle : Nat) : State :=
  ((s.bump kCodecFaults 1).event .nose 7).progFault c unit 0 0xD handle

/-- Read window bytes for a codec, with what the controllers see of their code words: none where the access ended the context. -/
def State.codecRead (s : State) (c unit tier off n : Nat) (obs : List ReadObs) : State × Option (List Byte) :=
  let base := tier == 1
  match s.window c base off n false with
  | none => (s.progFault c unit 0 3 (windowVal base off), none)
  | some a =>
    s.tierFetch base a n ⟨some c, unit, 0⟩ obs
/-- Write window bytes for a codec: whether the write was performed. -/
def State.codecWrite (s : State) (c unit tier off : Nat) (bs : List Byte) (obs : List ReadObs) : State × Bool :=
  let base := tier == 1
  match s.window c base off bs.length true with
  | none => (s.progFault c unit 0 3 (windowVal base off), false)
  | some a => s.tierStore base a bs ⟨some c, unit, 0⟩ obs

/-- The codec takes the job; its token waits for CODEC_JOB_DONE. -/
def State.codecBusy (s : State) (a op : Nat) (j : CodecJob) : State := { s with codec := s.codec ++ [⟨a, op, j⟩] }
/-- The byte counters of a job. -/
def State.codecCount (s : State) (raw coded blocks : Nat) : State :=
  ((s.bump kCodecRawBytes raw).bump kCodecCodedBytes coded).bump kCodecRawBlocks blocks

/-- CODE and CODE_MX8: the source is read, coded, appended to the save pool, and its handle is written. The format code in the handle
of CODE_MX8, which the manual does not give, is that of E4M3, the format of its elements (DESIGN CHOICE, log entry 41). -/
def State.codeJob (s : State) (c a op : Nat) (j : CodecJob) (obs : List ReadObs) : State :=
  let unit := s.codecUnit a
  let f := codecFmt j.fmt
  let rest := obs.drop (codeWords j.saddr (jobBlocks j * rawBlock f)).length
  match s.codecRead c unit j.stier j.saddr (jobBlocks j * rawBlock f) obs with
  | (s1, none) => s1
  | (s1, some raw) =>
    let (nraw, bs) := codeTensor f (op == 2) (jobBlocks j) raw
    let head := (s1.ctxAt c).poolHead
    let pad := (64 - bs.length % 64) % 64
    if (j.poolM1 + 1) * 65536 < head + bs.length + pad then s1.codecFault c unit j.handle
    else
      let fill := freeBytes s1.free pad
      let (s2, ok) := (s1.skipFree pad).codecWrite c unit j.dtier (j.daddr + head) (bs ++ fill) rest
      if !ok then s2
      else
        let s3 := s2.modCtx c fun x => { x with poolHead := head + bs.length + pad }
        let (s4, ok2) := s3.codecWrite c unit 0 j.handle
          (leBytes 8 head ++ leBytes 4 bs.length ++ leBytes 1 (if op = 2 then 1 else j.fmt) ++ leBytes 3 0)
          (rest.drop (narrowWords (j.daddr + head) (bs ++ fill).length).length)
        if ok2 then (s4.codecCount raw.length bs.length nraw).codecBusy a op j else s4
/-- DECODE: the handle and the coded bytes are read, and the tensor is written as it was. A handle holds an offset in a save pool and
no pool; SADDR in the window of STIER is the pool's base (DESIGN CHOICE, log entry 41). -/
def State.decodeJob (s : State) (c a : Nat) (j : CodecJob) (obs : List ReadObs) : State :=
  let unit := s.codecUnit a
  match s.codecRead c unit 0 j.handle 16 obs with
  | (s1, none) => s1
  | (s1, some h) =>
    if 3 ≤ field h 12 1 ∨ field h 13 3 ≠ 0 then s1.codecFault c unit j.handle
    else match s1.codecRead c unit j.stier (j.saddr + field h 0 8) (field h 8 4) (obs.drop 1) with
      | (s2, none) => s2
      | (s2, some bs) =>
        match decodeTensor (codecFmt (field h 12 1)) (jobBlocks j) bs with
        | none => s2.codecFault c unit j.handle
        | some out =>
          let (s3, ok) := s2.codecWrite c unit j.dtier j.daddr out
            (obs.drop (1 + (codeWords (j.saddr + field h 0 8) (field h 8 4)).length))
          if ok then (s3.codecCount (jobBlocks j * rawBlock (codecFmt (field h 12 1))) bs.length 0).codecBusy a 3 j else s3

/-- A job of operation `op` reaches the codec of an accord (R178): a malformed one is a program fault. -/
def State.codecStart (s : State) (c a op : Nat) (j : CodecJob) (obs : List ReadObs) : State :=
  if !jobOk op j then s.progFault c (s.codecUnit a) 0 1 0
  else match op with
    | 1 => s.codeJob c a 1 j obs
    | 2 => s.codeJob c a 2 j obs
    | 3 => s.decodeJob c a j obs
    | _ => s.progFault c (s.codecUnit a) 0 1 0
/-- A job comes from a core that runs a task of the context that runs on the accord (R178). -/
def codecJob (acc : Fin 16) (core : Fin 4) (op : Nat) (j : CodecJob) (obs : List ReadObs) (s : State) : Host.Outcome State Fault Refusal :=
  .next (match (s.accAt acc).cores[core.val].run with
    | some r => match s.coreHost acc r.task.tokq with
      | some (_, c) => s.codecStart c acc op j obs
      | none => s
    | none => s)
/-- CODE (R177, R178). -/
def execCode (acc : Fin 16) (core : Fin 4) (job : CodecJob) (obs : List ReadObs) (s : State) : Host.Outcome State Fault Refusal :=
  codecJob acc core 1 job obs s
/-- CODE_MX8 (R177, R178). -/
def execCodeMx8 (acc : Fin 16) (core : Fin 4) (job : CodecJob) (obs : List ReadObs) (s : State) : Host.Outcome State Fault Refusal :=
  codecJob acc core 2 job obs s
/-- DECODE (R177, R178, R180). -/
def execDecode (acc : Fin 16) (core : Fin 4) (job : CodecJob) (obs : List ReadObs) (s : State) : Host.Outcome State Fault Refusal :=
  codecJob acc core 3 job obs s

/-- CODEC_JOB_DONE (R178): the oldest job of an accord is complete and pushes VALUE into TOKQ. -/
def execCodecJobDone (acc : Fin 16) (cyc : Nat) (s : State) : Host.Outcome State Fault Refusal :=
  .next (match s.codec.find? fun r => r.acc == acc.val with
    | some r => match s.coreHost acc r.job.tokq with
      | some (p, c) =>
        { s with codec := s.codec.erase r }.tokPush c acc r.job.tokq (s.schedAt p cyc) r.job.value (s.codecUnit acc) 0
      | none => s
    | none => s)

end Sys2Proof.Machine
end

