-- ==== Sys2Proof/Machine/Recovery.lean ====
section
/-!
DEFINITION. Blotter writer, recovery queue and its four levels (R294 to R303), the host's TEARDOWN, fencing requests (R304,
R305) and in-field tests (R306 to R310).
-/
namespace Sys2Proof.Machine

/-! ### Blotter writer (R294) -/

/-- BLOTTER_APPEND (R294): the oldest staged record goes into the ring, in SEQ order. -/
def execBlotterAppend (s : State) : Host.Outcome State Fault Refusal :=
  .next (match s.blot.staging with
    | [] => s
    | r :: rest =>
      let (full, s1) := { s with blot := { s.blot with staging := rest } }.ringPut 0 64 16384 r.seq r.bytes
      let s2 := s1.odSet kBlotterHead r.seq
      if full then (s2.bump kBlotterOverrun 1).event .blot 9 else s2)

/-- RECOVERY_WINDOW_END (R296): a window elapses. -/
def execRecoveryWindowEnd (sc : Scope) (s : State) : Host.Outcome State Fault Refusal :=
  .next (match sc with
    | .partition p => if (s.openWindow p).isSome then s
      else { s with windows := SMap.set (fun _ => (none : Option Window)) s.windows p none }
    | .fw => { s with fw := { s.fw with taskFaults := s.fw.taskFaults.filter fun e => decide (s.g < e.2 + s.odGet kWindowFw) } })

/-! ### Context teardown (R300) -/

/-- TEARDOWN by the host (Table 9-1): the context stops, and its teardown is queued. -/
def State.hostTeardown (s : State) (c : Nat) : State :=
  let st := (s.ctxAt c).st
  if st = .free ∨ st = .stopped then s
  else ((s.stopCtx c).enqueue s.blot.last (unitId 12 0) (.teardown c)).event .blot 0
/-- TEARDOWN. -/
def execTeardown (c : Fin 256) (s : State) : Host.Outcome State Fault Refusal := .next (whenLive s (s.hostTeardown c))

/-- The FAULT channels of a partition are DISABLED (Table 6-10). -/
def State.disableFaulted (s : State) (p : Nat) : State :=
  (s.accordsOf p).foldl (fun t a => [0, 1, 2, 3, 4, 5, 6, 7].foldl (fun (u : State) (k : Fin 8) =>
    if u.chanState a k = .fault then
      ((u.odSetBit (kDmaCtrl a k) 31 true).setChanState a k .disabled).odSetBit (kDmaCtrl a k) 30 true
    else u) t) s
/-- The step of a torn-down context does not commit (R279): its traces go, and the units of the partition that it held are
drained and reset. -/
def State.tearStep (s : State) (c : Nat) : State :=
  let x := s.ctxAt c
  if (s.holding x.part).isEmpty then (s.disableFaulted x.part).dropStep c x.gen
  else
    let s1 := if x.inStep then (s.noseRollback c).odSet (kCtxStep c) (s.stepOf c - 1) else s
    s1.modCtx c fun y => y.dropStep x.gen
/-- The open commands of a context complete with FAULT. -/
def State.faultAll (s : State) (c : Nat) : State :=
  let l := (s.ctxAt c).cmds
  l.foldl (fun t m => t.complete c m 8 false) (s.modCtx c fun x => { x with cmds := [] })
/-- The keys of a context will not be confirmed any more: a checkpoint that waits for some is abandoned (R311). -/
def State.ckptEnd (s : State) (c : Nat) : State := if (s.ctxAt c).ckpt.any fun q => q.2.1 != 0 then s.ckptAbandon c else s
/-- A context is torn down (R300): its tenants are unbound with their committed state, and its open commands complete with FAULT. A
checkpoint that waits for keys of it is abandoned (R311). -/
def State.tearDown (s : State) (c : Nat) : State :=
  if (s.ctxAt c).st = .free then s
  else
    let s2 := (s.stopCtx c).tearStep c
    let s3 := (((s2.ctxAt c).slots.foldl (fun t q => t.unbind c q.entry) s2).faultAll c).ckptEnd c
    s3.modCtx c fun x => { x with
      seqs := [], slots := [], built := false, buildPending := false, closures := [], unconf := [], doRollback := [], undo := none,
      launchWait := [], snapReq := false, testReq := false, snap := StepSnap.empty, cmpOpen := false }
/-- The firmware part of a context teardown (R299): a run stop for a multi-chip context first, for the record of SEQ
`cause`. -/
def State.tearCtx (s : State) (c cause : Nat) : State :=
  (if (s.ctxAt c).st ≠ .free ∧ (s.ctxAt c).flag 0 then s.runStop c cause else s).tearDown c

/-! ### Partition reset (R301) -/

/-- The top tier, token queues, registers and slot images of an accord are written with zeros; FREEZE and FROZEN stay (R128). -/
def State.clearAccord (s : State) (a : Nat) : State :=
  (List.range 26).foldl (fun t k =>
      ((t.odSet (kArbActive a k) 0).odSet (kArbShadow a k) 0).odSet (kArbCtrl a k) (t.odBits (kArbCtrl a k) 31 30 * 2 ^ 30))
    (s.modAcc a fun A => { Accord.reset with froze := A.froze })

/-- The unit ids that a failing-unit mask names (Table 13-4). -/
def maskUnits (a mask : Nat) : List Nat :=
  ((List.range 4).filter (bit mask)).map (fun e => unitId 1 (4 * a + e)) ++ (if bit mask 4 then [unitId 2 a] else [])
    ++ ((List.range 4).filter fun k => bit mask (5 + k)).map (fun k => unitId 3 (4 * a + k))
    ++ ((List.range 2).filter fun e => bit mask (9 + e)).map (fun e => unitId 4 (2 * a + e))
    ++ ((List.range 8).filter fun c => bit mask (11 + c)).map (fun c => unitId 5 (8 * a + c))
    ++ if bit mask 19 then [unitId 6 a] else []
/-- The failing-unit mask of a record: 20 bits. -/
def failMask (mask : Nat) : Nat := mask % 2 ^ 20
/-- A known-answer test of an accord passes (R309). -/
def State.testPass (s : State) (a : Nat) : State :=
  let s1 := ((s.note 0x10 (unitId 6 a) 4 0 none none []).odSet (kTestLast a) s.g).odSet (kTestResult a) 0
  { s1 with jobs := { s1.jobs with passSeq := s1.jobs.passSeq.filter (fun e => e.1 != a) ++ [(a, s1.blot.last)],
                                   due := s1.jobs.due.filter fun e => e.1 != a } }
/-- A known-answer test of an accord fails (R309): TEST_FAIL names the last passing test, and the named units are fenced. -/
def State.testFail (s : State) (a mask : Nat) : State :=
  let last := ((s.jobs.passSeq.find? fun e => e.1 == a).map Prod.snd).getD 0
  let s1 := ((s.odSet (kTestResult a) mask).event .blot 5).blotAdd
    (s.mkRec 4 0x11 0 4 (unitId 6 a) none none 0 last (leBytes 8 mask))
  (maskUnits a mask).foldl (fun t u => t.fenceUnit u 4 s1.blot.last 4 (leBytes 8 mask)) s1
/-- The end of a known-answer test of an accord. -/
def State.testEnd (s : State) (a mask : Nat) : State :=
  if failMask mask = 0 then s.testPass a else s.testFail a (failMask mask)

/-- A partition reset (R301), for the record of SEQ `cause`, with the contexts that it tears down and the failing-unit mask of each accord in increasing number. -/
def State.resetPart (s : State) (p cause : Nat) (ctxs masks : List Nat) : State :=
  let s1 := ctxs.foldl (fun t c => t.tearCtx c cause) s
  let s2 := ((s1.quietPart p).freezePart p true)
  let l := s2.accordsOf p
  let s3 := l.foldl State.clearAccord s2
  let s4 := l.zipIdx.foldl (fun t e => (t.trace 0x0700).testEnd e.1 (masks.getD e.2 0)) s3
  (if l.any s4.accordFenced then s4.odSet (kPartState p) 2 else s4).freezePart p false

/-! ### Chip offline (R302) -/

/-- The flows that a context's load has pinned. -/
def Ctx.flowNos (x : Ctx) : List Nat := (x.prog.toList ++ x.fbProg.toList).flatMap flowsOf
/-- The flows that a context alone pinned are pinned no longer (R243). -/
def State.unpin (s : State) (c : Nat) : State :=
  let others := (s.loadedCtxs.filter fun d => d != c).flatMap fun d => (s.ctxAt d).flowNos
  let l := (s.ctxAt c).flowNos.filter fun f => !others.contains f
  let s1 := l.foldl (fun t f => t.devWrite false (t.odGet kFlowBase + 16 * f) (leBytes 16 (clearBit (t.flowEnt f) 2))) s
  let rest := s1.flowCache.filter fun e => !l.contains e.1
  { s1 with flowCache := rest }.odSet kFlowsPinned rest.length
/-- A context becomes FREE: its binary, launch entries, pins and run-table entry go (R343). -/
def State.freeCtx (s0 : State) (c : Nat) : State :=
  let s := (s0.ckptEnd c).unpin c
  let s1 := (List.range 64).foldl (fun t e => if t.launch e ≠ 0 ∧ lTarget (t.launch e) = c then t.launchPut e 0 else t) s
  let s2 := s1.fwPut (0x320000 + 16 * c) (List.replicate 16 0)
  (((s2.odSetBits (kCtxCfg c) 39 0 0).odSet (kCtxMode c) 0).odSet (kCtxBinary c) 0).setCtx c
    { Ctx.empty with replay := (s.ctxAt c).replay }
/-- The firmware part of a chip going offline, for the record of SEQ `cause`: every context is torn down, after run stops, and FREE; every partition is
dissolved. -/
def State.offlineAll (cause : Nat) (s : State) : State :=
  let l := s.loadedCtxs
  let s1 := l.foldl State.tearDown (s.runStopAll cause)
  let s2 := l.foldl State.freeCtx s1
  (List.range 16).foldl (fun t p => if t.formed p then t.odSet (kPartState p) 2 else t) s2

/-! ### The recovery queue (R299) -/

/-! ### Tuimeat's tasks (R336, R338, Table 15-2) -/

/-- The core of task `n`, none where the image has no such task. A task's number is its priority (DESIGN CHOICE, log entry 234): 0 RECOVERY,
1 RUNSTOP, 2 THERMAL, 3 SYNC, 4 to 9 the WATCHDOG of each core. -/
def State.taskHome (s : State) (n : Nat) : Option Nat :=
  if n < 2 then some 0 else if n < 4 then some 1 else if n < 10 then some (n - 4)
  else (Config.taskCore (s.odGet kFwImage) n).map (· % 6)
/-- Tuimeat starts: every task of the image is idle; the cores are in machine mode. -/
def State.startTasks (s : State) : State :=
  (List.range 64).foldl (fun (t : State) n => match s.taskHome n with
    | some c => t.odSet (kTaskState n) (c * 2 ^ 24 + n * 2 ^ 16)
    | none => t.odSet (kTaskState n) 0) { s with fw := { s.fw with cores := List.replicate 6 FwCore.reset } }
/-- The tasks of a core that are ready or running. -/
def State.readyTasks (s : State) (core : Nat) : List Nat :=
  (List.range 64).filter fun n => s.odBits (kTaskState n) 31 24 == core && (s.odBits (kTaskState n) 15 8 == 1 || s.odBits (kTaskState n) 15 8 == 2)
/-- On a core the highest-priority ready task runs, in user mode under its PMP regions; without one the core stays in its kernel. How
long a task runs the model does not follow (log entry 234). -/
def State.runTasks (s : State) (core : Nat) : State :=
  let l := s.readyTasks core
  let put := fun (t : State) (x : FwCore) => { t with fw := { t.fw with cores := t.fw.cores.set core x } }
  match l with
  | [] => put s ⟨true, ((s.fw.cores[core]?).getD FwCore.reset).pmp⟩
  | n :: r => put (r.foldl (fun t m => t.odSetBits (kTaskState m) 15 8 1) (s.odSetBits (kTaskState n) 15 8 2))
      ⟨false, (Config.taskPmp (s.odGet kFwImage) n).take 16⟩
/-- A restarted task is ready again, and the tasks of its core run (R338). -/
def State.taskReady (s : State) (t : Nat) : State :=
  ((s.odSetBits (kTaskState t) 15 8 1).odSetBits (kTaskState t) 7 0 (min 255 (s.odBits (kTaskState t) 7 0 + 1))).runTasks
    (s.odBits (kTaskState t) 31 24)

/-- Perform the oldest recovery. -/
def State.recover (s : State) (masks : List Nat) : State :=
  match s.recQ with
  | [] => s
  | r :: rest =>
    let s1 := { s with recQ := rest }.trace 0x0300
    match r.kind with
    | .teardown c => let p := (s.ctxAt c).part; (s1.tearCtx c r.seq).partRelease p
    | .partReset p l => (s1.resetPart p r.seq l masks).partRelease p
    | .offline => cfgJob (State.offlineAll r.seq) s1
    | .taskRestart t => (s1.taskReady t).trace 0x0002
/-- RECOVERY (R299 to R302). -/
def execRecovery (masks : List Nat) (s : State) : Host.Outcome State Fault Refusal := .next (whenLive s (s.recover masks))

/-! ### Fencing requests (R305) -/

/-- A unit id that FENCE_REQ and UNFENCE_REQ accept: a kind of Table 13-8, and a unit of the device. -/
def State.fenceable (s : State) (u : Nat) : Bool :=
  match u / 1024 with
  | 8 => s.chanOk true (u % 1024)
  | 9 => decide (u % 1024 < 16)
  | 10 => decide (u % 1024 < 2)
  | _ => match unitAccord u with
    | some a => s.hasAccord a
    | none => false
/-- A unit is in use (R305). -/
def State.unitInUse (s : State) (u : Nat) : Bool :=
  match u / 1024 with
  | 9 => s.portOwned (u % 1024)
  | 8 => !s.loadedCtxs.isEmpty
  | 10 => !s.loadedCtxs.isEmpty
  | _ => match unitAccord u with
    | some a => match s.partOf a with
      | some p => !(s.boundTo p).isEmpty
      | none => false
    | none => false
/-- FENCE_REQ (R304, R305): the fence is complete with its status write. -/
def State.fenceRequest (s : State) (u : Nat) : State :=
  if s.odGet kFenceStatus = 1 then s.refuse 6
  else if !s.fenceable u then (s.odSet kFenceStatus 3).refuse 7
  else if s.isFenced u then s.odSet kFenceStatus 5
  else
    let s1 := if u / 1024 = 9 then s.linkDown (u % 1024) 4 else s
    let s2 := (s1.fenceUnit u 7 0 4 []).odSet kFenceStatus 1
    { s2 with jobs := { s2.jobs with fencing := some u } }
/-- FENCE_REQ. -/
def execFenceReq (unit : BitVec 16) (s : State) : Host.Outcome State Fault Refusal := .next (whenLive s (s.fenceRequest unit.toNat))
/-- UNFENCE_REQ (R305): the unit's tests begin, or the request is refused. -/
def State.unfenceRequest (s : State) (u : Nat) : State :=
  if s.odGet kFenceStatus = 1 then s.refuse 6
  else if !s.fenceable u then (s.odSet kFenceStatus 3).refuse 7
  else if !s.isFenced u then s.odSet kFenceStatus 5
  else if s.unitInUse u then (s.odSet kFenceStatus 2).refuse 7
  else { s with jobs := { s.jobs with unfence := some u } }.odSet kFenceStatus 1
/-- UNFENCE_REQ. -/
def execUnfenceReq (unit : BitVec 16) (s : State) : Host.Outcome State Fault Refusal :=
  .next (whenLive s (s.unfenceRequest unit.toNat))

/-- Clear what shows a fenced unit in its own entries. -/
def State.unmark (s : State) (u : Nat) : State :=
  let i := u % 1024
  match u / 1024 with
  | 1 => (s.odSet kMeFenced (clearBit (s.odGet kMeFenced) i)).odSet (kMeEngineState i) 0
  | 2 => (s.odSet kVeFenced (clearBit (s.odGet kVeFenced) i)).odSet (kVeEngineState i) 0
  | 3 => (s.odSet kPcFenced (clearBit (s.odGet kPcFenced) i)).odSet (kCoreState i) 0
  | 9 => s.odSet (kPortState i) 0
  | _ => s
/-- The tests of an UNFENCE_REQ end: the fence is lifted, an accord's passing test being recorded as R309 has it (log entry
207), or TEST_FAIL keeps it and fences what else failed. -/
def State.unfenceEnd (s : State) (mask : Nat) : State :=
  match s.jobs.unfence with
  | none => s
  | some u =>
    let s1 := { s with jobs := { s.jobs with unfence := none } }
    if mask = 0 then
      let s2 := { (match unitAccord u with
        | some a => s1.testPass a
        | none => s1) with unitFences := s1.unitFences.erase u }.unmark u
      ((s2.note 0x14 u 4 0 none none []).flashJob (.unfence u)).odSet kFenceStatus 0
    else
      (match unitAccord u with
       | some a => s1.testFail a (failMask mask)
       | none => (s1.event .blot 5).blotAdd (s1.mkRec 4 0x11 0 4 u none none 0 0 [])).odSet kFenceStatus 4
/-- UNFENCE_TEST_DONE (R305), with the failing-unit mask; zero means that every test passed. -/
def execUnfenceTestDone (mask : Nat) (s : State) : Host.Outcome State Fault Refusal := .next (whenLive s (s.unfenceEnd mask))

/-! ### In-field tests (R306 to R310) -/

/-- An accord falls due: outside any partition, or in one with no RUNNING context, it is tested at once (R306); so it is where a
test window is open that leaves the time (R307). -/
def State.makeDue (s : State) (a : Nat) : State :=
  if !s.hasAccord a ∨ s.accordFenced a ∨ s.jobs.tests.any (fun t => t.1 == a) then s
  else
    let s1 := if s.jobs.due.any fun e => e.1 == a then s else { s with jobs := { s.jobs with due := s.jobs.due ++ [(a, s.g)] } }
    match s1.partOf a with
    | none => s1.beginTests [a] .scheduled
    | some p => match s1.runningOn p with
      | none => s1.beginTests [a] .scheduled
      | some c => if (s1.guardAt p).window then s1.testWindow c else s1
/-- TEST_REQ (R306, R307): the accords named are due. -/
def execTestReq (mask : BitVec 16) (s : State) : Host.Outcome State Fault Refusal :=
  .next (whenLive s (((List.range 16).filter (bit mask.toNat)).foldl State.makeDue s))
/-- ACCORD_TEST_DUE (R306). -/
def execAccordTestDue (a : Fin 16) (s : State) : Host.Outcome State Fault Refusal :=
  .next (whenLive s (if s.odGet (kTestLast a) + s.odGet kTestInterval ≤ s.g then s.makeDue a else s))

/-- TEST_FORCED (R308): the accord is untested TEST_GRACE after it fell due; every due accord of its partition is tested. -/
def execTestForced (a : Fin 16) (s : State) : Host.Outcome State Fault Refusal :=
  .next (whenLive s (match s.jobs.due.find? fun e => e.1 == a.val, s.partOf a with
    | some e, some p => if e.2 + s.odGet kTestGrace ≤ s.g ∧ !s.jobs.forced.contains a.val then
        s.forceTests p ((s.jobs.due.map Prod.fst).filter fun b => s.inPart p b)
      else s
    | _, _ => s))

/-- One more event of R310: SDC_COUNT within SDC_WINDOW of its oldest event; at SDC_LIMIT the chip goes offline. -/
def State.sdcCount (s : State) : State :=
  let old := s.odGet kSdcCount
  let fresh := decide (old = 0 ∨ s.fw.sdcFirst + s.odGet kSdcWindow < s.g)
  let n := if fresh then 1 else min 255 (old + 1)
  let s1 := ({ s with fw := { s.fw with sdcFirst := if fresh then s.g else s.fw.sdcFirst } }.odSet kSdcCount n).flashJob .sdc
  if s1.odGet kSdcLimit ≤ n then s1.goOffline.enqueue s1.blot.last (unitId 0 0) .offline else s1
/-- A quarantine sees the result of an accord's test (R310). -/
def State.quarSee (s : State) (a mask : Nat) : State :=
  match s.jobs.quar with
  | none => s
  | some l =>
    if failMask mask ≠ 0 then (if l.contains a then { s with jobs := { s.jobs with quar := none } } else s)
    else if l.contains a ∧ l.erase a = [] then { s with jobs := { s.jobs with quar := none } }.sdcCount
    else { s with jobs := { s.jobs with quar := some (l.erase a) } }
/-- The live ranges that a test window saved come back (R307). -/
def State.windowRestore (s : State) (p : Nat) : State :=
  let l := s.jobs.winSaved.filter fun c => (s.ctxAt c).part == p
  let back := l.filter fun c => (s.ctxAt c).st == .running && !(s.ctxAt c).inStep
  back.foldl State.restoreLive { s with jobs := { s.jobs with winSaved := s.jobs.winSaved.filter fun c => !l.contains c } }
/-- The tests of a partition are over: live ranges come back, the contexts that a forced test pre-empted resume, and a READY one may
run. -/
def State.afterTests (s0 : State) (p : Nat) : State :=
  if s0.testing p then s0
  else
    let s := s0.windowRestore p
    let l := s.jobs.resume.filter fun c => (s.ctxAt c).part == p && (s.ctxAt c).st == .saved
    let s1 := l.foldl State.resume { s with jobs := { s.jobs with resume := s.jobs.resume.filter fun c => !l.contains c } }
    s1.partRelease p
/-- A test uses the top tier of its accord (R306): what it leaves in the tile, scratchpad and accumulator stores is free (log entry
231). -/
def State.testLeaves (s : State) (a : Nat) : State :=
  let (n, s1) := s.drawNat
  s1.modAcc a fun A => { A with
    top := (Config.testTop n).foldl (fun (m : Memory) e => if e.1 < tileEnd then m.write e.1 e.2 else m) [],
    accum := (Config.testAccum n).foldl (fun m e => if e.1 < 2 ^ 20 then SMap.set accDefault m e.1 e.2 else m) [] }
/-- A context of a partition is being saved. -/
def State.savingOn (s : State) (p : Nat) : Bool := s.ctx.any fun e => e.2.st == .saving && e.2.part == p
/-- The end of a test in progress: it takes TEST_TIME, whatever its result (R306), and a save that was under way when it began ends
before it (log entry 231). -/
def State.accordTestEnd (s : State) (a mask : Nat) : State :=
  if !(s.jobs.tests.any fun t => t.1 == a && decide (t.2.2 + s.odGet kTestTime ≤ s.g)) ∨ (s.partOf a).any s.savingOn then s
  else
    let s1 := { s with jobs := { s.jobs with tests := s.jobs.tests.filter fun t => t.1 != a } }
    let s3 := ((s1.testLeaves a).testEnd a mask).quarSee a mask
    match s.partOf a with
    | some p => s3.afterTests p
    | none => s3
/-- ACCORD_TEST_DONE (R309). -/
def execAccordTestDone (a : Fin 16) (mask : Nat) (s : State) : Host.Outcome State Fault Refusal :=
  .next (whenLive s (s.accordTestEnd a mask))

end Sys2Proof.Machine
end

