-- ==== Sys2Proof/Machine/Rings.lean ====
section
/-!
DEFINITION. Faults of the firmware and of its SRAM (R337, Table 13-5); firmware rings (R339 to R343): whose turn it is, where a command entry lies, when it is well formed, its response, and the answer
to a malformed command.
-/
namespace Sys2Proof.Machine

/-- A record of class FW with a task or core number; the manual does not say what its value field holds: it is free. -/
def State.fwFault (s : State) (action level core number : Nat) : State :=
  let (v, s1) := s.drawWord
  s1.fault { cls := 6, action := action, level := level, unit := unitId 11 core, part := none, ctx := none, instr := 0,
             syn := leBytes 2 number ++ leBytes 4 v.toNat, cause := 0, flags := 0, window := true }
/-- What the firmware SRAM reports of the words that a service reads (R337): corrected errors are counted, an uncorrectable read is
FATAL. `core` is the core that reads. -/
def State.sramRead (s : State) (core : Nat) (up : Upset) (f : State → State) : State :=
  match up with
  | .none => f s
  | .corrected _ n => f (s.bump kSramCeCount n)
  | .uncorrectable .. => s.fwFault 4 4 core core
/-- HEAD of command ring `r`. -/
def State.fwHead (s : State) (r : Nat) : Nat := s.odBits (kFwRing r) 63 32
/-- TAIL of command ring `r`. -/
def State.fwTail (s : State) (r : Nat) : Nat := s.odBits (kFwRing r) 31 0
/-- A command of ring `r` waits. -/
def State.fwWaits (s : State) (r : Nat) : Bool := laterSeq (s.fwTail r) (s.fwHead r)
/-- The entry at HEAD of command ring `r` (Table 15-3). -/
def State.fwEntry (s : State) (r : Nat) : List Byte := s.fwGet (0x2E0000 + 16384 * r + 64 * (s.fwHead r % 256)) 64
/-- An entry is well formed (R342): SEQ is its ring index, OP one of Table 15-6, the reserved fields zero. -/
def fwEntryOk (head : Nat) (e : List Byte) : Bool :=
  field e 4 4 == head && decide (field e 0 1 ≤ 5) && field e 1 3 == 0 && field e 48 16 == 0

/-- Write the response of the command at HEAD into response ring `r`, and go on to the next command (R341, Table 15-5). -/
def State.fwRespond (s : State) (r status detail value : Nat) : State :=
  let e := s.fwEntry r
  let t := s.fw.respTail.getD r 0
  let bs := leBytes 1 status ++ e.take 1 ++ leBytes 2 0 ++ (e.drop 4).take 4 ++ leBytes 8 s.g ++ leBytes 8 detail
    ++ leBytes 8 value ++ leBytes 32 0
  let s1 := s.fwPut (0x300000 + 16384 * r + 64 * (t % 256)) bs
  let s2 := { s1 with fw := { s1.fw with respTail := s1.fw.respTail.set r ((t + 1) % 2 ^ 32) } }
  (s2.odSetBits (kFwRing r) 63 32 ((s2.fwHead r + 1) % 2 ^ 32)).trace 0x0201

/-- A well-formed command of operation `op`. -/
def fwWants (op head : Nat) (e : List Byte) : Bool := fwEntryOk head e && field e 0 1 == op
/-- A full response ring holds the service of its command ring. -/
def heldRing (full : List (Fin 8)) (q : Nat) : Bool := full.any fun x => x.val == q
/-- While a LOAD or FW_STAGE job of ring `q` runs, the rounds pass it by; its effects come with its completion. A command that needs the
same job, and FW_ACTIVATE, do not run beside it (R341, R355). -/
def State.jobRuns (s : State) (q r : Nat) : Bool :=
  let op := field (s.fwEntry r) 0 1
  op != 4 && [1, 3].any fun k => fwWants k (s.fwHead q) (s.fwEntry q) && op != k
/-- It is the turn of command ring `r` (R341): rings are visited in increasing number, one command per ring per round; one without a
command, one whose response ring is full, and one whose job runs, is passed over. -/
def State.fwTurn (s : State) (r : Nat) (full : List (Fin 8)) : Bool :=
  ((List.range 8).map fun i => (s.fw.nextRing + i) % 8).find? (fun q => s.fwWaits q && !heldRing full q && (q == r || !s.jobRuns q r)) == some r
/-- The RINGS task, on core 3, serves the command at HEAD of ring `r` where `want` holds of its entry and it is the ring's turn. What the
SRAM reports shows whether or not a command waits (R337). -/
def fwServe (r : Nat) (env : FwEnv) (want : Nat → List Byte → Bool) (body : State → List Byte → State) (s : State) : State :=
  s.sramRead 3 env.sram fun t =>
    if t.fwTurn r env.full && want (t.fwHead r) (t.fwEntry r) then
      body ({ t with fw := { t.fw with nextRing := (r + 1) % 8 } }.trace 0x0200) (t.fwEntry r)
    else t
/-- While a LOAD or FW_STAGE job of ring `r` runs, the rounds go on: another ring whose next command needs the same job completes with
BUSY, and an FW_ACTIVATE with REFUSED_STATE, if they are visited before the job ends; whether they are is free (R341, R355; log entry
59). -/
def State.fwMeanwhile (s : State) (r op : Nat) (full : List (Fin 8)) : State :=
  (List.range 8).foldl (fun t q =>
    if q ≠ r ∧ t.fwWaits q ∧ !heldRing full q ∧ (fwWants op (t.fwHead q) (t.fwEntry q) ∨ fwWants 4 (t.fwHead q) (t.fwEntry q)) then
      (let (b, u) := t.drawBool
       let same := fwWants op (t.fwHead q) (t.fwEntry q)
       if b then (u.trace 0x0200).fwRespond q (if same then 1 else 2) 0 (if same then 0 else u.odGet kFwVersion) else u)
    else t) s

/-- A malformed command of a ring (R342). -/
def execFwMalformedCommand (r : Fin 8) (env : FwEnv) (s : State) : Host.Outcome State Fault Refusal :=
  .next (whenLive s (fwServe r env (fun h e => !fwEntryOk h e) (fun t _ => t.fwRespond r 3 0 0) s))

end Sys2Proof.Machine
end

