-- ==== Sys2Proof/Machine/Firmware.lean ====
section
/-!
DEFINITION. The firmware complex (R336 to R338, R345 to R348, R354 to R357): task and kernel faults, watchdogs, the status
record in flash, flash windows, staging and activating an image.
-/
namespace Sys2Proof.Machine

/-! ### Faults of the firmware (R298, R337, R338) -/

/-- A task fault is FATAL: an earlier one lies within WINDOW_FW, or a recovery is queued (R298). -/
def State.taskFatal (s : State) : Bool :=
  !s.recQ.isEmpty || s.fw.taskFaults.any fun e => decide (s.g < e.2 + s.odGet kWindowFw)
/-- A task fault (R338): the task is restarted, unless the fault is FATAL. -/
def State.taskFault (s : State) (t : Nat) : State :=
  let core := s.odBits (kTaskState t) 31 24
  let s1 := { s with fw := { s.fw with taskFaults := s.fw.taskFaults ++ [(t, s.g)] } }
  let s2 := ((s1.bump kTaskFaults 1).event .fw 0).trace 0x0001
  if s.taskFatal then s2.fwFault 4 4 core t
  else
    let s3 := (s2.fwFault 0x0F 0 core t).odSetBits (kTaskState t) 15 8 3
    (s3.runTasks core).enqueue s3.blot.last (unitId 11 core) (.taskRestart t)
/-- TASK_FAULT. -/
def execTaskFault (task : Fin 64) (s : State) : Host.Outcome State Fault Refusal := .next (whenLive s (s.taskFault task))
/-- KERNEL_FAULT (R338, Table 13-5): FATAL. -/
def execKernelFault (core : Fin 6) (s : State) : Host.Outcome State Fault Refusal :=
  .next (whenLive s (s.fwFault 4 4 core core))
/-- WATCHDOG_EXPIRY (R337): FATAL; HEARTBEAT stops toggling (R390). -/
def execWatchdogExpiry (core : Fin 6) (s : State) : Host.Outcome State Fault Refusal :=
  .next (whenLive s ({ s with fw := { s.fw with missed := true } }.fwFault 4 4 core core))

/-- FW_NOP (Table 15-6). -/
def execFwNop (r : Fin 8) (env : FwEnv) (s : State) : Host.Outcome State Fault Refusal :=
  .next (whenLive s (fwServe r env (fwWants 0) (fun t _ => t.fwRespond r 0 0 0) s))

/-! ### The status record (R346, Table 15-10) -/

/-- ACTIVE_SLOT. -/
def State.activeSlot (s : State) : Nat := b2n (s.odBit kFwSlots 1)
/-- Bytes of a list, filled to `n` with `b`. -/
def fillBytes (n : Nat) (b : Byte) (l : List Byte) : List Byte := (l ++ List.replicate n b).take n
/-- Bytes 32 to 3,647 of the record: the counter and the key slots. -/
def State.keyPart (s : State) : List Byte := leBytes 8 s.sec.counter ++ leBytes 24 0 ++ leBytes 3584 (s.odGet kKeyslots)
/-- The granule fences as the record holds them. -/
def State.granPart (s : State) : List Byte :=
  fillBytes 8188 0xFF (s.granFences.flatMap fun e => leBytes 4 (b2n e.1 * 2 ^ 31 + e.2 % 2 ^ 26))
/-- The record less its CHECK. The salt of its signature is free. -/
def State.recordBody (s : State) (seq : Nat) : List Byte :=
  let fails := s.odGet kBootCounters
  leBytes 4 0x31545353 ++ leBytes 4 seq ++ leBytes 1 s.activeSlot ++ leBytes 1 s.fw.attempt ++ leBytes 3 fails
    ++ leBytes 1 s.fw.imageLast ++ leBytes 2 0 ++ leBytes 1 (s.odGet kSdcCount) ++ leBytes 7 0 ++ leBytes 8 s.fw.sdcFirst
    ++ s.keyPart ++ idRsaSign (freeBytes s.free 48) s.keyPart ++ leBytes 64 0
    ++ fillBytes 512 0xFF (s.unitFences.flatMap (leBytes 2)) ++ leBytes 4 (s.odGet kHeartFencedSlices) ++ leBytes 3580 0
    ++ s.granPart
/-- The 16 KiB record. -/
def State.statusRecord (s : State) (seq : Nat) : List Byte :=
  let b := s.recordBody seq
  b ++ leBytes 4 (crc32c b)
/-- What production writes into the flash and block protection keeps (R345, Table 15-9): the descriptor, the golden image, and the
identity certificates as production data. -/
def productionByte (a : Nat) : Byte := if 0x700000 ≤ a then (Config.idCerts[a - 0x700000]?).getD 0xFF else Config.productionFlash a
/-- Bytes of the flash. -/
def State.flashGet (s : State) (a n : Nat) : List Byte :=
  if a < 0x10000 ∨ 0x500000 ≤ a ∧ a < 0x800000 then (List.range n).map fun i => productionByte (a + i) else s.fw.flash.readN a n
/-- The flash offset of a status copy (Table 15-9). -/
def copyAt (i : Nat) : Nat := 0x10000 * (i + 1)
/-- A status copy in flash. -/
def State.copyBytes (s : State) (i : Nat) : List Byte := s.flashGet (copyAt i) 16384
/-- A status copy is valid. -/
def copyOk (l : List Byte) : Bool := field l 16380 4 == crc32c (l.take 16380)
/-- The copy in force: the valid one, of two the later (R346). -/
def State.copyNow (s : State) : Option Nat :=
  let a := s.copyBytes 0
  let b := s.copyBytes 1
  if copyOk a then (if copyOk b && laterSeq (field b 4 4) (field a 4 4) then some 1 else some 0)
  else if copyOk b then some 1 else none
/-- Write a record over the copy that is not in force. -/
def State.writeCopy (s : State) (bs : List Byte) : State :=
  let i := match s.copyNow with
    | some 0 => 1
    | _ => 0
  { s with fw := { s.fw with flash := s.fw.flash.writeN (copyAt i) bs } }
/-- A complete status write: the record with the next SEQ. -/
def State.writeStatus (s : State) : State :=
  let q := nextSeq s.fw.recSeq
  let s1 := s.writeCopy (s.statusRecord q)
  { s1.skipFree 48 with fw := { s1.fw with recSeq := q } }

/-- What an update's status write changes before it is written (R357). -/
def State.jobBegins (s : State) : FlashJob → State
  | .activeSlot n =>
    let s1 := (s.odSetBits kFwSlots 1 1 n).odSetBits kBootCounters 15 8 0
    { s1 with fw := { s1.fw with imageLast := 0 } }
  | _ => s
/-- A rotation of slot 0 is incomplete: its contents do not match the highest fuse bank (R321). -/
def State.rotating (s : State) : Bool :=
  match s.sec.banks.getLast? with
  | some h => h != beNat (sha3 (s.keySlot 0))
  | none => false
/-- What is reported once a status write is complete (R305, R321, R347). -/
def State.jobEnds (s : State) : FlashJob → State
  | .fence u => if s.jobs.fencing = some u then { s with jobs := { s.jobs with fencing := none } }.odSet kFenceStatus 0 else s
  | .keyslot _ => s.odSet kKeyslotStatus (if s.rotating then 7 else 0)
  | _ => s
/-- STATUS_WRITE_DONE (R346, R347): in a flash window the oldest status write ends. Read back wrong, it is not complete: the copy holds
whatever was programmed, and the write is tried again. -/
def State.statusWrite (s : State) (ok : Bool) : State :=
  match s.fw.jobs with
  | [] => s
  | j :: rest =>
    if s.pins.window.isNone then s
    else if ok then
      let s1 := (s.jobBegins j).writeStatus
      ({ s1 with fw := { s1.fw with jobs := rest } }.jobEnds j).trace 0x0801
    else
      let bs := (freeWords s.free 4096).flatMap fun w => leBytes 4 w.toNat
      ((s.skipFree 4096).writeCopy bs).event .fw 3
/-- STATUS_WRITE_DONE. -/
def execStatusWriteDone (readBackOk : Bool) (s : State) : Host.Outcome State Fault Refusal :=
  .next (whenLive s (s.statusWrite readBackOk))

/-! ### Flash windows (R347, R387, R389) -/

/-- Begin a phase change: the outputs whose meaning changes are released. -/
def State.changePhase (s : State) (p : Nat) : State := { s with pins := { s.pins with change := some (p, false), driven := false } }
/-- A flash window may open in this tick. -/
def State.windowAllowed (s : State) (busFree : Nat) (startSeen : Bool) : Bool :=
  s.odGet kPhase == 2 && s.pins.change.isNone && !startSeen && decide (475 ≤ busFree) && !s.odBit kClockState 0
    && decide (47500 ≤ s.g % 2 ^ 20 ∧ s.g % 2 ^ 20 + 47500 < 2 ^ 20)
    && match s.pins.lastWindow with
      | some t => decide (t + 475000 ≤ s.g)
      | none => true
/-- FLASH_WINDOW_OPEN (R389). -/
def execFlashWindowOpen (busFree : Nat) (startSeen : Bool) (s : State) : Host.Outcome State Fault Refusal :=
  .next (if s.windowAllowed busFree startSeen then
    let s1 := ((s.bump kFlashWindows 1).trace 0x0800).changePhase 1
    { s1 with pins := { s1.pins with window := some s.g, lastWindow := some s.g } }
  else s)
/-- A flash window closes (R387, R389): the trigger of the change back to RUN. -/
def State.closeWindow (s : State) : State :=
  match s.pins.window, s.pins.change with
  | some t, none =>
    let s1 := (s.raiseMax kFlashWindowMax (s.g - t)).changePhase 2
    { s1 with pins := { s1.pins with window := none } }
  | _, _ => s
/-- FLASH_WINDOW_CLOSE. -/
def execFlashWindowClose (s : State) : Host.Outcome State Fault Refusal := .next s.closeWindow
/-- The latest that a window stays open (R347): 20 µs, and until 100 µs before the next count with G mod 2^20 = 0; the tick in which
that is reached closes it. -/
def State.windowLimit (s : State) : State :=
  match s.pins.window with
  | some t => if t + 9500 ≤ s.g ∨ 2 ^ 20 ≤ s.g % 2 ^ 20 + 47500 then s.closeWindow else s
  | none => s

/-! ### Firmware images (R348, R354 to R357) -/

/-- The flash offset of an image: 0 slot A, 1 slot B, 2 golden (Table 15-9). -/
def imageAt (i : Nat) : Nat := 0x100000 + 0x200000 * i
/-- The SRAM offset of an image slot (Table 15-1). -/
def sramSlot (i : Nat) : Nat := 0x180000 * i
/-- BODY_SIZE of an image header. -/
def imgBody (h : List Byte) : Nat := field h 16 4
/-- MAGIC, FORMAT and sizes of a header hold (R348). -/
def imgHeaderOk (h : List Byte) : Bool := field h 0 4 == 0x31574654 && field h 4 2 == 1 && decide (imgBody h ≤ 1572736)
/-- The bytes of an image with its signatures. -/
def imgSize (h : List Byte) : Nat := 128 + imgBody h + 384 + 16224
/-- An image is accepted (R348): its header, the hash of its body, and both signatures under Pormen's root keys. -/
def imageGood (bs : List Byte) : Bool :=
  let h := bs.take 128
  let n := 128 + imgBody h
  let sig := sigsOk Config.rootKeys (bs.take n) ((bs.drop n).take 384) ((bs.drop (n + 384)).take 16224)
  imgHeaderOk h && sha384 ((bs.drop 128).take (imgBody h)) == (h.drop 32).take 48 && sig.1 && sig.2
/-- The SRAM slot that runs. -/
def State.runSlot (s : State) : Nat := b2n (s.odBit kFwSlots 0)
/-- The header of the image in an SRAM slot. -/
def State.slotHeader (s : State) (i : Nat) : List Byte := s.fw.sram.readN (sramSlot i) 128
/-- FW_IMAGE of the image in an SRAM slot (R348). -/
def State.slotHash (s : State) (i : Nat) : Nat :=
  leNat (sha384 (s.fw.sram.readN (sramSlot i) (128 + imgBody (s.slotHeader i))))
/-- Write into the SRAM. -/
def State.sramPut (s : State) (a : Nat) (bs : List Byte) : State := { s with fw := { s.fw with sram := s.fw.sram.writeN a bs } }

/-- The image in the staging area, of `n` bytes, is accepted. -/
def State.stagedGood (s : State) (n : Nat) : Bool :=
  let h := s.fwGet 0x400000 128
  decide (imgSize h ≤ n ∧ n ≤ 0x200000) && imageGood (s.fwGet 0x400000 (imgSize h))
/-- FW_STAGE (R354); its last write to the flash is read back in a flash window. -/
def State.stage (s : State) (r : Nat) (e : List Byte) (flashOk : Bool) : State :=
  let h := s.fwGet 0x400000 128
  if !s.stagedGood (field e 8 8) then s.fwRespond r 5 0 0
  else
    let other := 1 - s.runSlot
    let s1 := s.sramPut (sramSlot other) (s.fwGet 0x400000 (128 + imgBody h))
    if !flashOk then (((s1.odSetBit kFwSlots 2 false).event .fw 3).fwRespond r 8 0 0)
    else
      let bs := s.fwGet 0x400000 (imgSize h)
      let s2 := { s1 with fw := { s1.fw with flash := s1.fw.flash.writeN (imageAt (1 - s.activeSlot)) bs } }
      ((s2.odSetBit kFwSlots 2 true).odSet kUpdateStatus 0).fwRespond r 0 0 0
/-- An FW_STAGE can complete: an image that fails needs no flash, and another is read back in a flash window (R347). -/
def State.stageReady (s : State) (e : List Byte) : Bool := !s.stagedGood (field e 8 8) || s.pins.window.isSome
/-- FW_STAGE; `flashOk` tells what the read-back of the flash shows. -/
def execFwStage (r : Fin 8) (env : FwEnv) (flashOk : Bool) (s : State) : Host.Outcome State Fault Refusal :=
  .next (whenLive s (fwServe r env (fun h e => fwWants 3 h e && s.stageReady e) (fun t e => (t.stage r e flashOk).fwMeanwhile r 3 env.full) s))

/-- The conditions of FW_ACTIVATE (R355); no other firmware job runs beside it in this model. -/
def State.mayActivate (s : State) : Bool :=
  s.odBit kFwSlots 2 && s.recQ.isEmpty && (List.range 16).all (fun n => s.wsState n != 5)
    && (List.range 256).all fun c => !(s.odGet (kCkptState c) != 0 && s.ckptState c == 0)
/-- A queued flash write as a number. -/
def FlashJob.code : FlashJob → Nat
  | .fence u => 8 * u
  | .slice n => 8 * n + 1
  | .unfence u => 8 * u + 2
  | .granule b g => 8 * (2 * g + b2n b) + 3
  | .sdc => 4
  | .keyslot b => 8 * b2n b + 5
  | .activeSlot n => 8 * n + 6
/-- The sections that every schema carries (R356), in the layout of a schema, which is free (log entry 235); the block is at most 64 KiB. -/
def State.handoffSections (s : State) (schema : Nat) : List Byte :=
  (Config.handoffBytes schema [cfgIndices.map fun i => leNat (s.cfgPart i), [s.odGet kConfigCrcRef],
    (List.range 8).map (fun r => s.odGet (kFwRing r)) ++ s.fw.respTail, s.fw.jobs.map FlashJob.code, s.time.holdD.flatMap fun e => [e.1, e.2],
    (List.range 16).map fun n => s.odGet (kWsetState n), (List.range 256).map fun c => s.odGet (kCkptState c), [s.odGet kLogHead],
    s.fw.taskFaults.flatMap fun e => [e.1, e.2]]).take (65536 - 64)
/-- The handoff block with CHECK as given. -/
def State.handoffBlock (s : State) (check : Nat) : List Byte :=
  let old := s.slotHeader s.runSlot
  let new := s.slotHeader (1 - s.runSlot)
  let l := s.handoffSections (field old 6 2)
  leBytes 4 0x31424648 ++ leBytes 2 (field old 6 2) ++ leBytes 2 0 ++ leBytes 4 (field old 8 4) ++ leBytes 4 (field new 8 4)
    ++ leBytes 4 (64 + l.length) ++ leBytes 4 check ++ leBytes 8 s.g ++ leBytes 32 0 ++ l
/-- Seal the handoff block (R356): CHECK is the CRC-32C over the block with CHECK zero. LENGTH counts the whole block (DESIGN CHOICE, log
entry 235). -/
def State.sealHandoff (s : State) : State := s.sramPut 0x300000 (s.handoffBlock (crc32c (s.handoffBlock 0)))
/-- Trace points of the rows of Table 15-13. -/
def State.traceRows (s : State) (l : List Nat) : State := l.foldl (fun t k => t.trace (0x0500 + k)) s
/-- The update has succeeded (R357): the new image runs; ACTIVE_SLOT follows with the next status write. -/
def State.adopted (s : State) (r : Nat) : State :=
  let new := 1 - s.runSlot
  let v := field (s.slotHeader new) 8 4
  let s1 := ((((s.odSetBits kFwSlots 0 0 new).odSetBit kFwSlots 2 false).odSet kFwVersion v).odSet kFwImage (s.slotHash new)).odSet
    kUpdateStatus 3
  (s1.startTasks.flashJob (.activeSlot (1 - s.activeSlot))).fwRespond r 0 0 v
/-- The update has reverted (R357). -/
def State.reverted (s : State) (r : Nat) : State :=
  let schema := field (s.slotHeader s.runSlot) 6 2
  let v := field (s.slotHeader s.runSlot) 8 4
  ((s.odSet kUpdateStatus 4).event .fw 1).fwRespond r 6 schema v
/-- FW_ACTIVATE (R355 to R357). -/
def State.activate (s : State) (r : Nat) (recordBefore : Bool) (faultDuring : Option Nat) : State :=
  if !s.mayActivate then s.fwRespond r 2 0 (s.odGet kFwVersion)
  else
    let s1 := s.traceRows [1]
    if recordBefore then ((s1.odSet kUpdateStatus 5).event .fw 2).fwRespond r 7 0 (s.odGet kFwVersion)
    else
      let s2 := s1.sealHandoff.traceRows [2, 3, 4]
      let major := field (s.slotHeader s.runSlot) 6 2 / 256
      if !bit (field (s.slotHeader (1 - s.runSlot)) 12 4) major then (s2.traceRows [5, 6, 7]).reverted r
      else match faultDuring with
        | none => s2.adopted r
        | some t =>
          let s3 := s2.taskFault t
          if s3.dumping then s3 else (s3.traceRows [6, 7]).reverted r
/-- FW_ACTIVATE: whether a record enters the recovery queue before the block is sealed, and the task that faults during
adoption. -/
def execFwActivate (r : Fin 8) (env : FwEnv) (recordBefore : Bool) (faultDuring : Option (Fin 64)) (s : State) :
    Host.Outcome State Fault Refusal :=
  .next (whenLive s (fwServe r env (fwWants 4) (fun t _ => t.activate r recordBefore (faultDuring.map Fin.val)) s))

end Sys2Proof.Machine
end

