-- ==== Sys2Proof/Machine/Pins.lean ====
section
/-!
DEFINITION. Pins and power in RUN and DUMP (R390, R391, R394, R398): SYNC_OUT, HEARTBEAT, the DUMP stream, the rail monitor, and
the loop-backs of the die-to-die bridge.
-/
namespace Sys2Proof.Machine

/-- The pins carry their RUN meaning: RUN phase, no transition under way. -/
def State.runPins (s : State) : Bool := s.odGet kPhase == 2 && s.pins.change.isNone && s.pins.driven
/-- SYNC_OUT_PULSE (R390): an organ master drives SYNC_OUT in the tick with G mod 2^20 = 0. -/
def execSyncOutPulse (s : State) : Host.Outcome State Fault Refusal :=
  .next (if s.runPins ∧ s.odGet kSyncRole ≠ 0 ∧ s.g % 2 ^ 20 = 0 then { s with pins := { s.pins with syncEdge := s.g } } else s)
/-- The latest count at which a toggle of HEARTBEAT is due. -/
def State.beatDue (s : State) : Nat := s.g / 2 ^ 19 * 2 ^ 19
/-- That toggle fell due after the latest flash window opened. -/
def State.beatLate (s : State) : Bool :=
  match s.pins.lastWindow with
  | some t => decide (t ≤ s.beatDue)
  | none => false
/-- HEARTBEAT (R389, R390): in each tick with G mod 2^19 = 0 the level toggles, while every watchdog runs; a toggle due during a
flash window takes place once the window has closed. -/
def execHeartbeat (s : State) : Host.Outcome State Fault Refusal :=
  .next (
    if s.runPins ∧ !s.fw.missed ∧ s.pins.beat ≠ some s.beatDue ∧ (s.g = s.beatDue ∨ s.beatLate) then
      { s with pins := { s.pins with heartbeat := !s.pins.heartbeat, beat := some s.beatDue } }
    else s)

/-! ### The DUMP stream (R391, Table 17-6) -/

/-- A frame of the stream. -/
def dumpFrame (kind flags cycle seq : Nat) (payload : List Byte) : List Byte :=
  let h := leBytes 4 0x31504D44 ++ leBytes 1 kind ++ leBytes 1 flags ++ leBytes 2 cycle ++ leBytes 4 payload.length ++ leBytes 4 seq
  h ++ payload ++ leBytes 4 (crc32c (h ++ payload))
/-- The payload of the identity frame. -/
def State.identityFrame (s : State) : List Byte :=
  leBytes 16 (s.odGet kSerial) ++ leBytes 1 (s.odGet kGrade) ++ leBytes 1 (s.odGet kStepping) ++ leBytes 2 (s.odGet kStraps)
    ++ leBytes 4 (s.odGet kFwVersion) ++ leBytes 8 s.pins.dumpG ++ leBytes 4 s.pins.fatalSeq ++ leBytes 28 0
/-- The records of a ring, oldest first: `n` places of `size` bytes from `off`, the newest SEQ being `head`. -/
def State.ringRecords (s : State) (off size n head : Nat) : List (List Byte) :=
  ((List.range n).map fun i => s.fwGet (off + size * ((head + 1 + i) % n)) size).filter fun r => field r 0 4 != 0
/-- The payloads of one cycle of the stream, each with its kind. -/
def State.dumpPayloads (s : State) : List (Nat × List Byte) :=
  if s.pins.identityOnly then [(1, s.identityFrame)]
  else
    [(1, s.identityFrame)]
      ++ (if s.pins.shortDump then [] else
        (chunks 64 16384 (s.ringRecords 0 64 16384 (s.odGet kBlotterHead))).map (fun l => (2, l.flatten))
          ++ (chunks 128 16384 (s.ringRecords 0x260000 32 16384 (s.odGet kLogHead))).map fun l => (3, l.flatten))
      ++ (List.range 4).map fun i => (4, (s.fw.recordRead.drop (4096 * i)).take 4096)
/-- FLAGS of frame `i` of a cycle: bit 1, the cycle is shortened; bit 0, a ring read in the frame was uncorrectable. -/
def dumpFlags (short : Bool) (bad : List Nat) (i kind : Nat) : Nat := b2n short * 2 + b2n (bad.contains i && (kind == 2 || kind == 3))
/-- DUMP_CYCLE: one cycle of frames; `bad` are those, by their place in the cycle, with an uncorrectable ring read. -/
def execDumpCycle (bad : List Nat) (s : State) : Host.Outcome State Fault Refusal :=
  .next (if s.odGet kPhase ≠ 3 ∨ s.pins.change.isSome then s
    else
      let l := s.dumpPayloads
      let out := l.zipIdx.flatMap fun e =>
        dumpFrame e.1.1 (dumpFlags s.pins.shortDump bad e.2 e.1.1) s.pins.dumpCycle (s.pins.dumpSeq + e.2) e.1.2
      { s with pins := { s.pins with dumpOut := out, dumpSeq := (s.pins.dumpSeq + l.length) % 2 ^ 32,
                                     dumpCycle := (s.pins.dumpCycle + 1) % 2 ^ 16 } })

/-! ### Rails (R394) -/

/-- A reading lies outside a rail's operating range. -/
def State.railOut (s : State) (r mv : Nat) : Bool :=
  decide (mv < s.odBits (kRailRange r) 15 0 ∨ s.odBits (kRailRange r) 31 16 < mv)
/-- The record of an excursion names its rail. -/
def State.excursion (s : State) (r mv : Nat) : State :=
  let x := s.mkRec 5 0 0 0 (unitId 13 0) none none 0 0 (leBytes 2 r ++ leBytes 4 mv)
  ((s.blotAdd { x with rail := r, volt := mv }).bump kRailExcursions 1).event .pins 0
/-- One reading of a rail: its first one outside the range is recorded. -/
def State.readRail (s : State) (r mv : Nat) : State :=
  let s1 := s.odSet (kRailMv r) (mv % 2 ^ 16)
  if s1.railOut r mv then
    (if s1.pins.railsOut.contains r then s1
     else { s1 with pins := { s1.pins with railsOut := s1.pins.railsOut ++ [r] } }.excursion r mv)
  else { s1 with pins := { s1.pins with railsOut := s1.pins.railsOut.filter fun x => x != r } }
/-- RAIL_READ: the readings of rails 0 to 13 in mV. -/
def execRailRead (mv : List Nat) (s : State) : Host.Outcome State Fault Refusal :=
  .next (whenLive s ((mv.take 14).zipIdx.foldl (fun t e => t.readRail e.2 e.1) s))

/-! ### Loop-backs of the die-to-die bridge (R398, Table 17-11) -/

/-- D2D_LOOPBACK: it runs only while no context is loaded, in a mode of the table. -/
def execD2dLoopback (value : W32) (s : State) : Host.Outcome State Fault Refusal :=
  let m := value.toNat % 4
  .next (s.loopStart kD2dLoopbackCtrl value.toNat [(8, 8), (1, 0)] (s.allFree && decide (1 ≤ m ∧ m ≤ 2)))
/-- D2D_LOOPBACK_DONE: a failing loop-back fences the bridge in the direction tested. -/
def execD2dLoopbackDone (errors : Nat) (s : State) : Host.Outcome State Fault Refusal :=
  .next (if s.odBit kD2dLoopbackCtrl 30 then
    let s1 := s.loopDone kD2dLoopbackCtrl kD2dLoopbackErrors 1048576 errors
    if errors = 0 then s1 else (s1.event .pins 4).fenceUnit (unitId 10 (s1.odBits kD2dLoopbackCtrl 8 8)) 4 0 0 []
  else s)

end Sys2Proof.Machine
end

