-- ==== Sys2Proof/Machine/Dict.lean ====
section
/-!
DEFINITION. Accesses to the object dictionary (R359 to R368, R371 to R373): checks in the order of R368, the effect of a
write, reads, answers of both paths; the configuration check (R374, R375), status clearing and the event holdoff (R377, R378).
-/
namespace Sys2Proof.Machine

/-! ### Checks -/

/-- The key of an access. -/
def odKey (a : OdAddr) : Nat := a.index * 256 + a.sub
/-- The access that is performed: a packet's own fields where a packet carries it (R373). -/
def odAddrOf (a : OdAddr) : OdAddr :=
  match a.path, a.via with
  | .inBand, some p =>
    { a with flow := p.flow, index := bits p.addr 23 8, sub := bits p.addr 7 0,
             off := bits p.addr 41 24 + (if p.opcode = 5 then bits p.aux.toNat 31 16 * 2 ^ 18 else 0) }
  | _, _ => a
/-- The right or the path forbids a write (R361, R372, R373). -/
def State.writeDenied (s : State) (a : OdAddr) (r : OdRow) : Bool :=
  r.acc == .ro || (match a.path with
    | .outOfBand => s.odGet kOobWriteEn == 0 || odKey a == kOobWriteEn
    | .inBand => a.flow != 0)
/-- A NaN in binary32. -/
def isNaN32 (v : Nat) : Bool := bits v 30 23 == 255 && bits v 22 0 != 0
/-- Entries whose value is an address in multiples of 64 KiB. -/
def alignedEntry (k : Nat) : Bool :=
  k == kFlowBase || k == kTctBase || k / 256 == 0xA116 || k / 256 == 0xA117
/-- A value lies outside what the entry's table states (R360, R362). -/
def valueBad (r : OdRow) (k v : Nat) : Bool :=
  (r.ty == .bool && decide (1 < v)) || (r.ty == .f32 && isNaN32 v)
    || (!r.ranges.isEmpty && !(r.ranges.any fun q => decide (q.1 ≤ v ∧ v ≤ q.2)))
    || (alignedEntry k && v % 65536 != 0)
    || ((k / 256 == 0x6020 || k / 256 == 0x6021) && bits v 63 0 % 65536 != 0)
    || (0x2470 ≤ k / 256 && k / 256 ≤ 0x247F && !(decide (2 ≤ v % 16 ∧ v % 16 ≤ 6)))
    || (0x5100 ≤ k / 256 && k / 256 ≤ 0x513F && !(decide (4 ≤ bits v 221 217 ∧ bits v 221 217 ≤ 16)))
    || (k == kFlaconCmd && !(decide (1 ≤ bits v 31 28 ∧ bits v 31 28 ≤ 5)))
    || (k == kVmapDiscard && !(decide (1 ≤ bits v 26 0 ∧ bits v 26 0 ≤ 2 ^ 26)))
    || (k == kConfigCommit && v != 1)
/-- The size of a DOMAIN entry as a write sequence sees it. -/
def domainSize (r : OdRow) (k : Nat) (bs : List Byte) : Nat := if isImage (k / 256) then imageBytes bs else r.size
/-- A write does not continue the entry's write sequence (R363). -/
def State.seqBad (s : State) (a : OdAddr) (r : OdRow) (data : List Byte) : Bool :=
  match s.seqWrite (odKey a) a.path a.off data (domainSize r (odKey a)) with
  | .badLength => true
  | _ => false
/-- The status of a write before it is performed, 0 for none of the four checks of R368. -/
def State.writeCheck (s : State) (a : OdAddr) (data : List Byte) : Nat :=
  match s.odRow a.index a.sub with
  | none => if a.sub = 0 ∧ (s.odCount a.index).isSome then 2 else 1
  | some r =>
    if s.writeDenied a r then 2
    else if r.ty = .domain then (if s.seqBad a r data then 3 else 0)
    else if a.off ≠ 0 ∨ data.length ≠ (if r.acc = .seqclr then 4 else r.size) then 3
    else if r.acc ≠ .seqclr ∧ valueBad r (odKey a) (leNat data) then 4 else 0
/-- The status of a read before it is performed. -/
def State.readCheck (s : State) (a : OdAddr) (len : Nat) : Nat :=
  let flow := a.path == .inBand && a.flow != 0
  match s.odRow a.index a.sub with
  | none => if a.sub = 0 ∧ (s.odCount a.index).isSome then (if flow then 2 else 0) else 1
  | some r =>
    if r.acc = .wo ∨ flow then 2
    else if r.ty = .domain ∧ (len = 0 ∨ 256 < len ∨ s.odSize r a.index a.sub < a.off + len) then 3 else 0

/-- The firmware-served entries (R367). -/
def fwServed (r : OdRow) (k : Nat) : Bool :=
  [0x260001, 0x32000B, 0x600001, 0x60000F, 0x700008, 0x800010, 0x90000C, 0xA00003, 0xA00006, 0xA0000A, kHoldEnter, kHoldExit,
    kTripTemp].contains k
    || (r.acc == .cfg && ((k / 256 / 4096 == 6) || (k / 256 / 4096 == 8) || (k / 256 / 4096 == 9) || (k / 256 / 256 == 0xA1)))
/-- An access to the entry crosses into another domain (R366). -/
def State.crosses (s : State) (a : OdAddr) : Bool :=
  match s.odRow a.index a.sub with
  | some r => r.dom != .mclk || fwServed r (odKey a)
  | none => false
/-- A crossing access is withdrawn (R366). -/
def State.withdrawn (s : State) : State := ((s.bump kBusyTimeouts 1).event .dict 2).answer 5 []

/-! ### The effect of a write -/

/-- The bits of an entry that are no reserved field, for the entries that have one (R10). -/
def usedBits (k : Nat) : Option (List (Nat × Nat)) :=
  let i := k / 256
  if k = kEventIrq then some [(15, 15), (10, 0)]
  else if k = kTraceMask then some [(8, 0)]
  else if k = kFlowData then some [(127, 1)]
  else if 0x2440 ≤ i ∧ i ≤ 0x244F then some [(31, 4)]
  else if 0x4010 ≤ i ∧ i ≤ 0x401F ∧ k % 256 = 1 then some [(31, 30), (8, 8), (1, 0)]
  else if 0x4100 ≤ i ∧ i ≤ 0x410F then some [(15, 14), (3, 0)]
  else if 0x4110 ≤ i ∧ i ≤ 0x4113 then some [(31, 31), (16, 0)]
  else if 0x5100 ≤ i ∧ i ≤ 0x513F then some [(255, 181), (63, 0)]
  else if i = 0x5210 ∨ i = 0x5211 then some [(367, 0)]
  else if i = 0x8010 ∨ i = 0x8011 then some [(319, 0)]
  else if i = 0x8012 ∨ i = 0x8013 then some [(79, 32), (23, 0)]
  else if i = 0xA101 then some [(255, 192), (191, 191), (169, 128), (127, 0)]
  else if i = 0x1102 then some [(127, 64), (11, 0)]
  else none
/-- A value without its reserved fields. -/
def cleaned (k v : Nat) : Nat :=
  match usedBits k with
  | some l => keepBits v l
  | none => v

/-- Run a command as part of a write of the entry that carries it. -/
def runCmd (f : State → Host.Outcome State Fault Refusal) (s : State) : State :=
  match f s with
  | .next t => t
  | _ => s

/-- Store an entry's value; a CFG entry takes part in the configuration check (R375). -/
def State.store (s : State) (r : OdRow) (k v : Nat) : State :=
  let t := s.odSet k (cleaned k v)
  if r.acc = .cfg then t.cfgTouched else t

/-- QUEUE_DESC (R196): HEAD and TAIL each by its own side; the other fields only while ENABLE is 0, which may be cleared. -/
def State.queueDesc (s : State) (q v : Nat) : State :=
  let old := s.odGet (kQueueDesc q)
  if !s.qOn q then
    (if 2 ^ bits v 221 217 < dist32 (bits v 31 0) (bits v 63 32) then s.queueOverflow.refuse 7 else s.odSet (kQueueDesc q) v)
  else if clearBit (v / 2 ^ 64) 144 ≠ clearBit (old / 2 ^ 64) 144 then s.refuse 7
  else
    let s1 := s.odSetBit (kQueueDesc q) 208 (bit v 208)
    if s.qIsCompletion q then s1.setQHead q (bits v 63 32)
    else if s.qDepth q < dist32 (bits v 31 0) (s.qHead q) then s.queueOverflow.refuse 7
    else s1.setQTail q (bits v 31 0)

/-- A channel's program and configuration may be written (R142). -/
def State.chanOpen (s : State) (a c : Nat) : Bool := s.chanState a c == .disabled || s.chanState a c == .idle
/-- TOKQ_CFG (R132): QRESET is refused while a context runs on the accord; the depths of an accord total at most 1,024. -/
def State.tokqCfg (s : State) (a q v : Nat) : State :=
  let total := ((List.range 32).map fun i => if i = q then 2 ^ (v % 16) else s.tokDepth a i).sum
  if bit v 31 ∧ (s.ctxOn a).isSome then s.refuse 7
  else if 1024 < total then s.refuse 7
  else
    let s1 := s.odSet (kTokqCfg a q) (v % 16)
    if bit v 31 then s1.setTokq a q ⟨[], 0, 0⟩ else s1
/-- CTX_CTRL (Table 9-14): REPLAY is held; PREEMPT, RESUME and TEARDOWN act when written as 1. -/
def State.ctxCtrl (s : State) (c : Fin 256) (v : Nat) : State :=
  let s1 := s.modCtx c fun x => { x with replay := bit v 28 }
  let s2 := if bit v 29 then runCmd (execTeardown c) s1 else s1
  let s3 := if bit v 31 then runCmd (execPreempt c) s2 else s2
  if bit v 30 then runCmd (execResume c) s3 else s3
/-- FLACON_CMD (Table 14-6). -/
def State.flaconCommand (s : State) (v : Nat) : State :=
  let n := Fin.ofNat 16 (bits v 19 16)
  match bits v 31 28 with
  | 1 => runCmd (execVerify n) s
  | 2 => runCmd (execFlaconLoad n (bits v 11 0)) s
  | 3 => runCmd (execSeal n) s
  | 4 => runCmd (execDecant n) s
  | _ => runCmd (execRelease n) s
/-- A set's ranges meet the windows of a loaded context. -/
def State.wsetInWindow (s : State) (n : Nat) : Bool :=
  s.loadedCtxs.any fun c => let x := s.ctxAt c
    (s.setMeets n false x.heartBase x.heartSize).isSome || (s.setMeets n true x.baseBase x.baseSize).isSome
/-- WSET_CFG (R314): written only while the set is EMPTY or FAILED and no pointer names it. Ranges that meet a window of a loaded context
are refused, for none is ever part of one (DESIGN CHOICE, log entry 232). -/
def State.wsetCfg (s : State) (r : OdRow) (n v : Nat) : State :=
  if (s.wsState n = 0 ∨ s.wsState n = 6) ∧ !s.namesSet n ∧ !(s.odSet (kWsetCfg n) v).wsetInWindow n then s.store r (kWsetCfg n) v
  else s.refuse 7
/-- The whole of a write sequence into a DOMAIN entry, applied at once (R363). -/
def State.domainWhole (s : State) (r : OdRow) (k : Nat) (bs : List Byte) : State :=
  let i := k / 256
  let v := leNat bs
  if 0x2410 ≤ i ∧ i ≤ 0x241F then s.accShadow (i % 16) (k % 256 - 1) bs
  else if i = 0x2510 then s.chipShadow (k % 256 - 1) bs
  else if 0x2460 ≤ i ∧ i ≤ 0x246F then (if s.chanOpen (i % 16) (k % 256 - 1) then s.odSet k (cleanProgram v) else s.refuse 7)
  else if 0x4010 ≤ i ∧ i ≤ 0x401F ∧ k % 256 = 5 then
    (if ((List.range 8).map fun l => bits v (16 * l + 15) (16 * l)).sum ≤ 3840 then s.store r k v else s.refuse 4)
  else if 0x4010 ≤ i ∧ i ≤ 0x401F then s.slotShadow (i % 16) v
  else if i = 0x5014 ∨ i = 0x5015 then s.ctxCfgWrite (ctxOfKey 0x5014 i (k % 256)) v
  else if k = kKeyslotWrite then s.keyWrite bs
  else if i = 0xA101 then s.wsetCfg r (k % 256 - 1) v
  else s.store r k v
/-- The area whose ERR_STATUS an entry is. -/
def areaOf (k : Nat) : Option Area :=
  [Area.time, .pins, .dict, .me, .ve, .pc, .top, .guard, .mem, .fabric, .bridge, .ctx, .blot, .nose, .sil, .fw, .sec,
    .flacon].find? fun a => a.status == k
/-- A SEQCLR write (R377): the whole ERR_STATUS clears when the value is the area's ERR_SEQ, else nothing changes. -/
def State.clearStatus (s : State) (a : Area) (v : Nat) : State :=
  if v = s.odGet a.seq then ((s.odSet a.status 0).odSetBit kEventSummary a.bitNo false).answer 0 []
  else s.answer 8 []
/-- A commit begins (R375). -/
def State.commitStart (s : State) : State :=
  if s.odGet kConfigCommit = 1 then s.answer 6 []
  else { s with mgmt := { s.mgmt with commitWait := true } }.odSet kConfigCommit 1
/-- A write of an entry of the areas below 0x4000. -/
def State.lowWrite (s : State) (r : OdRow) (k v : Nat) : State :=
  let i := k / 256
  let n := k % 256 - 1
  if k = kHoldWrite then
    let code := (s.holdPlan (bits v 127 64) (bits v 5 0) (bits v 15 8)).1
    let t := runCmd (execHoldWrite (BitVec.ofNat 128 v) none) s
    if code = 0 then t else t.answer 7 []
  else if k = kCounterClear then runCmd (execCounterClear (BitVec.ofNat 32 v)) s
  else if i = 0x1101 then
    let t := runCmd (execLaunchEntry (Fin.ofNat 64 n) (BitVec.ofNat 128 v) none) s
    if s.launchOk n v then t else t.answer 7 []
  else if i = 0x1102 then (if s.odGet kSyncRole ≠ 0 then s.reportIn n (cleaned k v) else s.store r k v)
  else if k = kD2dLoopbackCtrl then runCmd (execD2dLoopback (BitVec.ofNat 32 v)) s
  else if k = kConfigCommit then s.commitStart
  else if 0x2430 ≤ i ∧ i ≤ 0x243F then
    runCmd (arbFreezeSet (.accord (Fin.ofNat 16 i) (Fin.ofNat 26 n)) (bit v 31)) s
  else if i = 0x2530 then runCmd (arbFreezeSet (.chip (Fin.ofNat 82 n)) (bit v 31)) s
  else if 0x2440 ≤ i ∧ i ≤ 0x244F then (if s.chanOpen (i % 16) n then s.store r k v else s.refuse 7)
  else if 0x2450 ≤ i ∧ i ≤ 0x245F then
    (if bit v 31 then runCmd (execDmaDisable (Fin.ofNat 16 i) (Fin.ofNat 8 n) none) s
     else runCmd (execDmaEnable (Fin.ofNat 16 i) (Fin.ofNat 8 n)) s)
  else if 0x2470 ≤ i ∧ i ≤ 0x247F then s.tokqCfg (i % 16) n v
  else if k = kVmapDiscard then runCmd (execVmapDiscard (BitVec.ofNat 64 v)) s
  else if k = kMemLoopbackCtrl then runCmd (execMemoryLoopback (BitVec.ofNat 32 v)) s
  else s.store r k v
/-- A write of an entry of the areas from 0x4000 on. -/
def State.highWrite (s : State) (r : OdRow) (k v : Nat) (data : List Byte) : State :=
  let i := k / 256
  let n := k % 256 - 1
  if k = kFlowData then runCmd (execFlowData (BitVec.ofNat 128 v) []) s
  else if 0x4010 ≤ i ∧ i ≤ 0x401F ∧ k % 256 = 0x11 then runCmd (execPortLoopback (Fin.ofNat 16 i) (BitVec.ofNat 32 v)) s
  else if k = kMsixRaise then runCmd (execMsixRaise (BitVec.ofNat 16 v)) s
  else if k = kTctData then runCmd (execTctData data) s
  else if k = kAbortReq then runCmd (execAbortReq (BitVec.ofNat 64 v)) s
  else if i = 0x5001 then runCmd (execPartMask (Fin.ofNat 16 n) (BitVec.ofNat 16 v)) s
  else if i = 0x5010 ∨ i = 0x5011 then s.ctxCtrl (Fin.ofNat 256 (ctxOfKey 0x5010 i (k % 256))) v
  else if 0x5100 ≤ i ∧ i ≤ 0x513F then s.queueDesc (k - 0x510000) (cleaned k v)
  else if k = kFenceReq then runCmd (execFenceReq (BitVec.ofNat 16 v)) s
  else if k = kUnfenceReq then runCmd (execUnfenceReq (BitVec.ofNat 16 v)) s
  else if k = kTestReq then runCmd (execTestReq (BitVec.ofNat 16 v)) s
  else if 0x7100 ≤ i ∧ i ≤ 0x711F then
    runCmd (execMonCfg (Fin.ofNat 4096 ((i - 0x7100) * 128 + n)) (BitVec.ofNat 64 v)) s
  else if k = kXcheckRelease then runCmd (execXcheckRelease (BitVec.ofNat 32 v)) s
  else if k = kXcheckReport then runCmd (execXcheckReport data) s
  else if k = kAuditReq then runCmd (execAuditReq data) s
  else if i = 0x9010 then s.odSetBits k 31 0 v
  else if k = kAttestReq then runCmd (execAttestReq data) s
  else if k = kFlaconCmd then s.flaconCommand v
  else if i = 0xA112 ∨ i = 0xA113 then
    runCmd (execEpochPending (Fin.ofNat 256 (ctxOfKey 0xA112 i (k % 256))) data) s
  else s.store r k v
/-- The effect of a write that has passed the checks; the answer is OK unless the entry's own rule says otherwise. -/
def State.entryApply (s : State) (a : OdAddr) (r : OdRow) (data : List Byte) : State :=
  let k := odKey a
  let v := leNat data
  let t := s.answer 0 []
  match areaOf k with
  | some ar => t.clearStatus ar v
  | none =>
    if r.ty = .domain then t.seqApply k ⟨a.path, a.off, data⟩ (domainSize r k) (fun u bs => u.domainWhole r k bs)
    else if k / 256 < 0x4000 then t.lowWrite r k v
    else t.highWrite r k v data
/-- A write access of the management bus: it ends with one status of Table 16-4 (R368). -/
def State.dictWrite (s : State) (a : OdAddr) (data : List Byte) (accepted : Bool) : State :=
  let st := s.writeCheck a data
  if st ≠ 0 then s.refuse st
  else if s.crosses a && !accepted then s.withdrawn
  else match s.odRow a.index a.sub with
    | some r => s.entryApply a r data
    | none => s

/-! ### Reads -/

/-- What a read of an entry does besides: TCT_DATA and FLOW_DATA report in their status entries (R194, R243). -/
def State.readEffect (s : State) (k : Nat) : State :=
  if k = kTctData then runCmd execTctDataRead s
  else if k = kFlowData then
    s.odSet kFlowStatus (if s.odGet kFlowSelect = 0 ∨ 2 ^ 20 ≤ s.odGet kFlowSelect then 2 else 0)
  else s
/-- The bytes that a read returns: a whole entry, or a part of a DOMAIN entry. -/
def State.readBytes (s : State) (a : OdAddr) (len : Nat) : List Byte :=
  match s.odRow a.index a.sub with
  | some r => if r.ty = .domain then s.odBytes r a.index a.sub a.off len else s.odBytes r a.index a.sub 0 r.size
  | none => leBytes 1 ((s.odCount a.index).getD 0)
/-- A read access of the management bus. -/
def State.dictRead (s : State) (a : OdAddr) (len : Nat) (accepted : Bool) : State :=
  let st := s.readCheck a len
  if st ≠ 0 then s.refuse st
  else if s.crosses a && !accepted then s.withdrawn
  else
    let t := s.readEffect (odKey a)
    t.answer 0 (t.readBytes a len)

/-! ### The two paths (R370, R371, R373) -/

/-- An out-of-band response (Table 16-6) behind its type byte and enterprise number: CMD 1 READ, 2 WRITE. -/
def State.oobResponse (s : State) (inst cmd : Nat) : State :=
  let body := beBytes 4 (s.odGet kIanaPen) ++ leBytes 1 (inst % 32) ++ leBytes 1 cmd ++ leBytes 1 s.mgmt.answer.1 ++ leBytes 1 0
    ++ (if cmd = 1 then s.mgmt.answer.2 else [])
  { s with i3c := { s.i3c with mctpOut := s.i3c.mctpOut ++ [(0xFF#8) :: body ++ leBytes 4 (crc32c body)] } }
/-- A message that fails its checks is discarded without a response (R370). -/
def State.mctpError (s : State) : State := (s.bump kMctpErrors 1).event .dict 3
/-- An out-of-band access: only while the pins carry I3C (R388). -/
def onOob (a : OdAddr) (cmd : Nat) (f : State → State) (s : State) : State :=
  if !s.runPins then s
  else if !a.intact then s.mctpError
  else (f s).oobResponse a.inst cmd
/-- An in-band access with its acknowledgement: status OD_STATUS with the access's own status in the detail. -/
def onInBand (op : Nat) (a : OdAddr) (reply : State → Packet → State) (f : State → State) (s : State) : State :=
  whenLive s (match a.via with
    | some p => onPacket op p (fun t => reply (f t) p) s
    | none => f s)
/-- An OD_WRITE is acknowledged when ACKREQ is set (R255). -/
def odAck (s : State) (p : Packet) : State := s.ack p 7 s.mgmt.answer.1
/-- An OD_READ is answered with a READ_RSP (R255). -/
def odReply (s : State) (p : Packet) : State := s.respond p 7 s.mgmt.answer.1 s.mgmt.answer.2
/-- The bytes that a write access carries. -/
def odData (a : OdAddr) (data : List Byte) : List Byte :=
  match a.path, a.via with
  | .inBand, some p => p.payload
  | _, _ => data

/-- ENTRY_WRITE (R362). -/
def execEntryWrite (a : OdAddr) (data : List Byte) (accepted : Bool) (s : State) : Host.Outcome State Fault Refusal :=
  let f := fun (t : State) => t.dictWrite (odAddrOf a) (odData a data) accepted
  .next (match a.path with
    | .outOfBand => onOob a 2 f s
    | .inBand => onInBand 6 a odAck f s)
/-- OOB_READ (R371). In band the same access is an OD_READ. -/
def execOobRead (a : OdAddr) (len : Nat) (accepted : Bool) (s : State) : Host.Outcome State Fault Refusal :=
  .next (onOob a 1 (fun t => t.dictRead { a with path := .outOfBand } len accepted) s)
/-- OD_READ (R255, R373). -/
def execOdRead (pkt : Packet) (accepted : Bool) (s : State) : Host.Outcome State Fault Refusal :=
  let a := odAddrOf ⟨.inBand, 0, some pkt, 0, true, 0, 0, 0⟩
  .next (onInBand 5 a odReply (fun t => t.dictRead a (pkt.aux.toNat % 512) accepted) s)
/-- The right or the path forbids an access, which then does not cross (R368). -/
def State.accessDenied (s : State) (a : OdAddr) (write : Bool) : Bool :=
  match s.odRow a.index a.sub with
  | some r => if write then s.writeDenied a r else r.acc == .wo || a.path == .inBand && a.flow != 0
  | none => true
/-- BUSY_TIMEOUT (R366): the crossing access at the head of the bus is withdrawn at its bound. -/
def execBusyTimeout (a : OdAddr) (write : Bool) (s : State) : Host.Outcome State Fault Refusal :=
  let f := fun (t : State) => if t.crosses (odAddrOf a) then t.withdrawn else t
  .next (if !s.crosses (odAddrOf a) || s.accessDenied (odAddrOf a) write then s
    else match a.path with
      | .outOfBand => onOob a (if write then 2 else 1) f s
      | .inBand => onInBand (if write then 6 else 5) a (if write then odAck else odReply) f s)

/-! ### The configuration check (R374, R375) -/

/-- CONFIG_COMMIT (R375): a write of 1 starts a commit. -/
def execConfigCommit (value : Byte) (s : State) : Host.Outcome State Fault Refusal :=
  .next (if value = 1 then (s.answer 0 []).commitStart else s.refuse 4)

/-- The partitions that a drift of an index affects (R375 rule 4). -/
def State.affected (s : State) (index : Nat) : List Nat :=
  let half := index % 2
  let perCtx := [0x5014, 0x5015, 0x6020, 0x6021, 0x8010, 0x8011, 0x8012, 0x8013, 0xA116, 0xA117].contains index
  if perCtx then ((s.loadedCtxs.filter fun c => c / 128 == half).map fun c => (s.ctxAt c).part).eraseDups
  else (List.range 16).filter s.formed
/-- The level that a drift takes in an affected partition (R297). -/
def State.driftLevel (s : State) (p : Nat) : Nat :=
  match s.openWindow p with
  | some w => min 3 (max 2 (w.level + 1))
  | none => 2
/-- The resets of a drift of level 2 or more, for the record of number `seq`. -/
def State.driftReset (s : State) (seq : Nat) (parts : List Nat) : State :=
  parts.foldl (fun (t : State) p =>
    let lv := s.driftLevel p
    let t1 := if (s.openWindow p).isSome then (t.bump kEscalations 1).event .blot 3 else t
    (if lv = 2 then t1.setWindow p ⟨2, t1.g + t1.odGet kWindowL2, seq⟩ else t1).applyLevel lv 0 seq none (some p)) s
/-- Drift (R375): its record, its event, and the resets that CONFIG_DRIFT_ACTION asks for. -/
def State.drift (s : State) (index : Nat) : State :=
  let parts := if s.odGet kConfigDriftAction = 1 then s.affected index else []
  let lv := if s.odGet kConfigDriftAction = 1 then parts.foldl (fun m p => max m (s.driftLevel p)) 2 else 0
  let win := (parts.filterMap s.openWindow).head?
  let cause := match win with
    | some w => w.seq
    | none => 0
  let s1 := ((s.odSet kConfigState 2).odSet kDriftIndex index).event .dict 0
  let s2 := s1.blotAdd (s1.mkRec 2 0x15 lv (b2n win.isSome) 0 none none 0 cause (leBytes 2 index))
  s2.driftReset s2.blot.last parts
/-- The lowest index whose index CRC differs from its reference; free where the upset that the sweep met is not in the
entries' values. -/
def State.driftAt (s : State) (crcs : List (Nat × Nat)) : Nat × State :=
  match crcs.find? fun e => !s.mgmt.crcRefs.contains e with
  | some e => (e.1, s)
  | none => let (n, t) := s.drawNat
            (n % 65536, t)
/-- The end of a commit with the first sweep that begins after it. -/
def State.commitEnd (s : State) (crc : Nat) : State :=
  if !s.mgmt.commitWait then s
  else if crc = s.odGet kConfigCrcRef then s.committed
  else ({ s with mgmt := { s.mgmt with commitWait := false } }.odSet kConfigCommit 2).event .dict 1
/-- The comparison of a sweep in state COMMITTED. -/
def State.sweepCompare (s : State) (crc : Nat) : State :=
  if s.odGet kConfigState = 1 ∧ crc ≠ s.odGet kConfigCrcRef then
    let (i, t) := s.driftAt s.indexCrcs
    t.drift i
  else s
/-- What the configuration mirror reports of the words that a sweep reads (R367): a corrected error raises its event; an uncorrectable
read is a control error of the chip. Table 13-4 has no memory kind for the mirror: that byte is free (log entry 237). -/
def State.mirrorRead (s : State) (up : Upset) (f : State → State) : State :=
  match up with
  | .none => f s
  | .corrected .. => f (s.event .dict 4)
  | .uncorrectable _ addr syn =>
    let (n, s1) := s.drawNat
    s1.fault { cls := 2, action := 3, level := 3, unit := unitId 0 0, part := none, ctx := none, instr := 0,
               syn := leBytes 4 addr ++ [syn] ++ leBytes 1 n, cause := 0, flags := 0, window := true }
/-- CONFIG_SWEEP (R374, R375): `crc` is the sweep's CRC where a configuration bit was upset, `mirror` what the mirror reports. -/
def execConfigSweep (crc : Option W32) (mirror : Upset) (s : State) : Host.Outcome State Fault Refusal :=
  let v := match crc with
    | some w => w.toNat
    | none => s.cfgCrc
  let s1 := match s.mgmt.sweepAt with
    | some t => s.raiseMax kSweepMax (s.g - t)
    | none => s
  let s2 := { s1 with mgmt := { s1.mgmt with sweepAt := some s1.g } }.odSet kConfigCrcLast v
  .next (s2.mirrorRead mirror fun t => (t.commitEnd v).sweepCompare v)

/-! ### Status clearing and the holdoff (R377, R378) -/

/-- ERR_STATUS_CLEAR (R377), by the area's EVENT_SUMMARY bit. -/
def execErrStatusClear (area : Fin 18) (v : W32) (s : State) : Host.Outcome State Fault Refusal :=
  let l := [Area.time, .pins, .dict, .me, .ve, .pc, .top, .guard, .mem, .fabric, .bridge, .ctx, .blot, .nose, .sil, .fw, .sec,
    .flacon]
  .next (match l[area.val]? with
    | some a => s.clearStatus a v.toNat
    | none => s)
/-- EVENT_IRQ_HOLDOFF (R378): the holdoff has elapsed; the vector is raised once more if the series advanced during it. -/
def execEventIrqHoldoff (s : State) : Host.Outcome State Fault Refusal :=
  .next (match s.mgmt.holdoff with
    | none => s
    | some t =>
      if s.g < t + s.odGet kEventIrqHoldoff then s
      else
        let s1 := { s with mgmt := { s.mgmt with holdoff := none, again := false } }
        if s.mgmt.again ∧ s.odBit kEventIrq 15 then
          let s2 := s1.raiseVector (s.odBits kEventIrq 10 0)
          { s2 with mgmt := { s2.mgmt with holdoff := some s.g } }
        else s1)

end Sys2Proof.Machine
end

