-- ==== Sys2Proof/Machine/Image.lean ====
section
/-!
DEFINITION. Reading a binary's image (R92, R93, R99, R134; Tables 5-1, 5-3, 5-4, 6-6, 6-7): the header, the directory, the latency
manifest, the headers of the compute streams and the access streams with their run-ahead tables.
-/
namespace Sys2Proof.Machine

/-! ### The directory (Table 5-1) -/

/-- Directory entry `i` of an image. -/
def dirEntryAt (image : List Byte) (i : Nat) : DirEntry :=
  let l := (image.drop (96 + 16 * i)).take 16
  ⟨field l 0 2, field l 2 1, field l 3 1, field l 4 4, field l 8 4, field l 12 4⟩
/-- The directory of an image: SECTION_COUNT entries, as far as the image reaches. -/
def imageDir (image : List Byte) : List DirEntry := (List.range (min (field image 24 4) (image.length / 16))).map (dirEntryAt image)
/-- The bytes of a section. -/
def sectionBytes (image : List Byte) (e : DirEntry) : List Byte := (image.drop e.off).take e.size
/-- The sections of a type for a fold factor and a virtual accord; 0xFF in an entry names them all. -/
def sectionsOf (image : List Byte) (dir : List DirEntry) (type fold vacc : Nat) : List (List Byte) :=
  (dir.filter fun e => e.type == type && (e.fold == 0xFF || e.fold == fold) && (e.vacc == 0xFF || e.vacc == vacc)).map (sectionBytes image)
/-- The section of a type that stands once in a binary. -/
def sectionOnce (image : List Byte) (dir : List DirEntry) (type : Nat) : List Byte :=
  match dir.find? fun e => e.type == type with
  | some e => sectionBytes image e
  | none => []

/-! ### The latency manifest (R99, Table 5-4) -/

/-- The 8-byte entries of a manifest section. -/
def manifestWords (l : List Byte) : List Nat := (List.range (min (field l 8 4) (l.length / 8))).map fun i => field l (16 + 8 * i) 8
/-- The entries: ID, KIND, VALUE. -/
def manifestEntries (l : List Byte) : List (Nat × Nat × Nat) := (manifestWords l).map fun v => (bits v 63 48, bits v 47 46, bits v 31 0)
/-- The reserved fields of a manifest, the reserved KIND among them; zero where all are zero. -/
def manifestReserved (l : List Byte) : Nat :=
  field l 1 7 + field l 12 4 + ((manifestWords l).map fun v => bits v 45 32 + b2n (bits v 47 46 == 3)).sum

/-! ### Streams (Tables 5-3, 6-6, 6-7) -/

/-- The class that bits [19:18] of a header mark. -/
def classOf : Nat → OpClass
  | 0 => .a
  | 1 => .g
  | 2 => .v
  | _ => .malformed
/-- An instruction of a compute stream from its header and its body. -/
def streamOp (h : Nat) (b : StreamBody) : StreamOp :=
  { issue := bits h 63 24, unit := bits h 23 20, cls := classOf (bits h 19 18), stamped := bit h 17, reserved := bit h 16,
    len := bits h 15 8, opcode := bits h 7 0, body := b }
/-- The headers of a COMPUTE section, each LEN units of 16 B after the one before. A length of 0, and an instruction that the
section cuts short, shows as a header of length 0, after which nothing can be read. -/
def computeHeaders : Nat → List Byte → List Nat
  | 0, _ => []
  | fuel + 1, l =>
    if l.isEmpty then []
    else
      let h := field l 0 8
      let n := 16 * bits h 15 8
      if n = 0 ∨ l.length < n then [setBits h 15 8 0] else h :: computeHeaders fuel (l.drop n)
/-- A COMPUTE section with the bodies of its instructions. -/
def computeStream (l : List Byte) (bodies : List StreamBody) : List StreamOp :=
  (computeHeaders (l.length / 16 + 1) l).zipIdx.map fun e => streamOp e.1 (bodies.getD e.2 ⟨.absent, [], false⟩)
/-- Entry `i` of an ACCESS section's run-ahead table. -/
def runAheadAt (l : List Byte) (i : Nat) : RunAhead :=
  let v := field l (16 * i) 16
  { distance := bits v 127 96, maxlenM1 := bits v 95 76, tier := bits v 75 74, dir := bits v 73 73, narrow := bit v 72, first := bit v 71,
    cross := bits v 70 70, valid := bit v 69 }
/-- The run-ahead table of an ACCESS section (R134). -/
def runAheadTable (l : List Byte) : List RunAhead := (List.range 16).map (runAheadAt l)
/-- Instruction `i` of an ACCESS section, as the loader reads it. -/
def accessAtIdx (l : List Byte) (i : Nat) : LoadAccess :=
  let v := field l (256 + 32 * i) 32
  { issue := bits v 255 216, op := bits v 215 212, kind := bits v 211 208, tier := bits v 207 206, narrow := bit v 205, first := bit v 204,
    lenM1 := bits v 134 115 }
/-- The instructions of an ACCESS section. -/
def accessStream (l : List Byte) : List LoadAccess := (List.range ((l.length - 256) / 32)).map (accessAtIdx l)

/-! ### The binary -/

/-- The ACCESS sections of a variant: virtual accord, engine, bytes. The n-th section of a virtual accord is its n-th engine's
(DESIGN CHOICE: the directory names no engine, log entry 203). -/
def accessSections (image : List Byte) (dir : List DirEntry) (fold vaccords : Nat) : List (Nat × Nat × List Byte) :=
  (List.range vaccords).flatMap fun a => (sectionsOf image dir 7 fold a).zipIdx.map fun e => (a, e.2, e.1)
/-- A fold variant: the streams that the image lays out, beside what its body gives. -/
def readVariant (image : List Byte) (dir : List DirEntry) (vaccords : Nat) (v : VariantBody) : Variant :=
  let acc := accessSections image dir v.fold vaccords
  { fold := v.fold, phases := v.phases, layerPhase := v.layerPhase, heartWin := v.heartWin, baseWin := v.baseWin, nmb := v.nmb,
    rows := v.rows, segs := v.segs, live := v.live, dma := v.dma, slots := v.slots, stepLen := v.stepLen, completions := v.completions,
    compute := v.bodies.map fun q => (q.1, computeStream ((sectionsOf image dir 6 v.fold q.1).headD []) q.2),
    access := acc.map fun q => (q.1, q.2.1, accessStream q.2.2),
    runAhead := acc.map fun q => (q.1, q.2.1, runAheadTable q.2.2) }
/-- The image with IMAGE_DIGEST zero, over which that digest is formed (Table 5-1). -/
def undigested (image : List Byte) : List Byte := image.take 64 ++ List.replicate 32 0 ++ image.drop 96
/-- The binary that an image and the contents of its sections are. A directory or a section that reaches past the end of the tier in
which the image lies shows as not placed, a fault of the header: R92 does not name the case (DESIGN CHOICE, log entry 220). -/
def readBinary (i : List Byte) (b : BinImage) : Binary :=
  let dir := imageDir i
  let man := sectionOnce i dir 1
  { magic := field i 0 4, contract := field i 4 2, flags := field i 6 2, programId := field i 8 8, vchips := field i 16 2,
    vaccords := field i 18 1, vcores := field i 19 1, foldSet := field i 20 1,
    reserved := field i 21 3 + field i 28 4 + manifestReserved man,
    placed := decide (96 + 16 * field i 24 4 ≤ i.length) && dir.all fun e => decide (e.off + e.size ≤ i.length),
    oplistDigest := field i 32 32, imageDigest := field i 64 32, imageHash := leNat (sha3 (undigested i)),
    oplistHash := leNat (sha3 (sectionOnce i dir 2)), classmarksDigest := leNat (sha3 (sectionOnce i dir 3)), dir := dir,
    manifest := manifestEntries man, oplist := b.oplist, classmarks := b.classmarks,
    variants := b.variants.map (readVariant i dir (field i 18 1)), launch := b.launch, flows := b.flows }

end Sys2Proof.Machine
end

