-- ==== Sys2Proof/Machine/Phases.lean ====
section
/-!
DEFINITION. Phase ends (R93, R133): a phase ends when every compute stream and every access stream of every virtual accord
has reached its phase-end instruction; what follows it is the next phase, a save (R206, R207), or the end of the step.
-/
namespace Sys2Proof.Machine

/-- The code of a compute stream of a virtual accord in `Guard.ended`. -/
def computeCode (vacc : Nat) : Nat := 3 * vacc
/-- The code of an access stream. -/
def accessCode (vacc : Nat) (e : Nat) : Nat := 3 * vacc + 1 + e
/-- The streams that a phase of a context waits for; a virtual access engine without a stream takes no part (R93). -/
def Ctx.streams (x : Ctx) : List Nat :=
  match x.variant with
  | some v => v.compute.map (fun q => computeCode q.1) ++ v.access.map fun q => accessCode q.1 q.2.1
  | none => []
/-- The accord that virtual accord `vacc` of a context runs on. -/
def State.hostOf (s : State) (c vacc : Nat) : Option Nat :=
  let x := s.ctxAt c
  (s.accordsOf x.part)[vacc / 2 ^ x.fold]?

/-- The last phase of a step has ended at schedule time `t`: a waiting DRYDOWN takes effect; a self-launched context takes
its DRYDOWN at once, with a test window (R224, R225). -/
def State.phasesOver (s : State) (c : Nat) : State :=
  let s1 := s.modCtx c fun x => { x with phasesDone := true }
  if s1.launchesItself c then (s1.modCtx c fun x => { x with testReq := true }).drydownNow c
  else if (s1.ctxAt c).launchWait.contains 4 then s1.drydownNow c
  else s1
/-- Every stream has ended phase `k`: the engines are idle, and the next phase begins in the cycle after, unless a requested
save takes its place. -/
def State.phaseOver (s0 : State) (c k t : Nat) : State :=
  let x := s0.ctxAt c
  let s := s0.idleEngines x.part
  if x.phases ≤ k + 1 then s.phasesOver c
  else if x.preempt ∧ !x.flag 0 ∧ !s.deadBetween c then s.beginSave c (k + 1)
  else s.beginPhase c (k + 1) (t + 1)
/-- A stream reaches its phase end on accord `acc`. -/
def State.streamEnd (s : State) (x : IssueCtx) (acc vacc code : Nat) : State :=
  let g := s.guardAt x.part
  let y := s.ctxAt x.ctx
  if y.phasesDone ∨ s.hostOf x.ctx vacc ≠ some acc ∨ !y.streams.contains code then s
  else
    let s1 := s.setGuard x.part { g with ended := unionRising g.ended [code], now := max g.now x.t }
    if y.streams.all fun q => (s1.guardAt x.part).ended.contains q then s1.phaseOver x.ctx g.phase (s1.guardAt x.part).now
    else s1

/-- PHASE_END (R93). -/
def execPhaseEnd (h : Issue) (vacc : Nat) (s : State) : Host.Outcome State Fault Refusal :=
  engineIssue h 0 (unitId 6 h.acc) (fun _ _ => []) (fun s x => s.streamEnd x h.acc vacc (computeCode vacc)) s
/-- ACCESS_PHASE_END (R93, R133). -/
def execAccessPhaseEnd (acc : Fin 16) (e : Fin 2) (cyc idx vacc : Nat) (s : State) : Host.Outcome State Fault Refusal :=
  accessIssue acc e cyc idx .none (startDets acc e) (fun s x => s.streamEnd x acc vacc (accessCode vacc e)) s

end Sys2Proof.Machine
end

