-- ==== Sys2Proof/Machine/Loader.lean ====
section
/-!
DEFINITION. LOAD and UNLOAD (chapter 05; R126, R134, R220, R243, R251, R343): the loader's checks in one order, the windows
it opens, and what it writes. The manual gives no order of the checks: log entry 35.
-/
namespace Sys2Proof.Machine

/-! ### The header and the directory (R92, Tables 5-1 and 5-2) -/

/-- The fold factors of a binary, as powers of two. -/
def binFolds (b : Binary) : List Nat := (List.range 5).filter (bit b.foldSet)
/-- How often the directory names a type for a fold factor and a virtual accord, 0xFF in an entry naming them all; none:
whatever the entry names. -/
def dirCount (b : Binary) (type : Nat) (fold vacc : Option Nat) : Nat :=
  (b.dir.filter fun e => e.type == type && (fold.isNone || e.fold == 0xFF || fold == some e.fold)
    && (vacc.isNone || e.vacc == 0xFF || vacc == some e.vacc)).length
/-- A directory entry names a known type, no reserved bit, a fold factor of FOLD_SET and a virtual accord below VACCORDS. -/
def dirEntryOk (b : Binary) (e : DirEntry) : Bool :=
  decide (1 ≤ e.type ∧ e.type ≤ 11) && e.reserved == 0 && (e.fold == 0xFF || (binFolds b).contains e.fold)
    && (e.vacc == 0xFF || decide (e.vacc < b.vaccords))
/-- A compute stream of the binary pushes a task. -/
def binPushes (b : Binary) : Bool := b.variants.any fun v => v.compute.any fun q => q.2.any fun o => o.unit == 5
/-- The sections of one fold variant are those that Table 5-2 requires. -/
def dirVariantOk (b : Binary) (v : Variant) : Bool :=
  [4, 5, 10].all (fun t => dirCount b t (some v.fold) none == 1) &&
    (List.range b.vaccords).all fun a =>
      dirCount b 6 (some v.fold) (some a) == 1
        && decide (dirCount b 7 (some v.fold) (some a) ≤ 2)
        && dirCount b 7 (some v.fold) (some a) == (v.access.filter fun q => q.1 == a).length
        && dirCount b 8 (some v.fold) (some a) == if v.dma.any fun d => d.vacc == a then 1 else 0
/-- The directory holds what Table 5-2 requires and nothing else. -/
def dirOk (b : Binary) : Bool :=
  b.dir.all (dirEntryOk b) && [1, 2, 3].all (fun t => dirCount b t none none == 1)
    && dirCount b 9 none none == (if binPushes b then 1 else 0)
    && dirCount b 11 none none == (if bit b.flags 0 || !b.launch.isEmpty then 1 else 0)
    && b.variants.map Variant.fold == binFolds b && b.variants.all (dirVariantOk b)
/-- The header passes (R92). -/
def binHeaderOk (b : Binary) : Bool :=
  b.magic == 0x314B5356 && b.contract == 0x0100 && decide (b.flags < 32) && b.imageDigest == b.imageHash && b.reserved == 0 && b.placed
    && decide (1 ≤ b.vchips ∧ b.vchips ≤ 4096) && [1, 2, 4, 8, 16].contains b.vaccords
    && decide (1 ≤ b.vcores ∧ b.vcores ≤ 4) && bit b.foldSet 0 && decide (b.foldSet < 32)
    && (binFolds b).all (fun k => decide (2 ^ k ≤ b.vaccords)) && dirOk b

/-! ### Streams, marks and fold variants (R93, R95, R98) -/

/-- A stream of issue cycles, true for a phase end, is well formed over `n` further phases. -/
def streamOk : Nat → Nat → List (Nat × Bool) → Bool
  | n, _, [] => n == 0
  | n, last, (t, fin) :: r => decide (1 ≤ n ∧ last ≤ t) && (if fin then streamOk (n - 1) 0 r else streamOk n t r)
/-- The header of a compute-stream instruction keeps to Table 5-3: UNIT is none of 8 to 15, bit 16 is zero, LEN is 1 to 255. What
fails here is refused as a malformed stream (DESIGN CHOICE: R93 lists no such case, log entry 204). -/
def headerOk (o : StreamOp) : Bool := decide (o.unit < 8) && !o.reserved && decide (1 ≤ o.len)
/-- Every stream of a variant is well formed (R93). -/
def variantStreamsOk (v : Variant) : Bool :=
  v.compute.all (fun q => q.2.all headerOk && streamOk v.phases.length 0 (q.2.map fun o => (o.issue, o.unit == 7)))
    && v.access.all fun q => streamOk v.phases.length 0 (q.2.2.map fun o => (o.issue, o.op == 15))
/-- The class of an operation (Table 2-9); none for a task push, whose mark is the compiler's (R95), and for an operation that the
table does not list (R46). What computes nothing bears the mark A (DEDUCED, log entry 206). -/
def operClass : Oper → Option OpClass
  | .matrixMac | .matrixEpilogue | .vecArith | .vecCompare | .vecInteger | .vecConvert | .vecOrdered | .vecPhilox | .treeAdd | .plain =>
    some .a
  | .vecTranscendental => some .g
  | .scatterAdd | .entropy => some .v
  | .taskPush | .absent => none
/-- The class mark of an operation agrees with Table 2-9 (R95, R46): a task push, and nothing else, bears the compiler's own. -/
def markOk (o : StreamOp) : Bool :=
  if o.body.oper = .taskPush then o.unit == 5 && o.cls != .malformed else o.unit != 5 && some o.cls == operClass o.body.oper
/-- A mark of class G or V. -/
def marked (o : StreamOp) : Bool := o.cls == .g || o.cls == .v
/-- The class marks agree with Table 2-9, CLASSMARKS and FLAGS (R95). -/
def binMarksOk (b : Binary) : Bool :=
  b.variants.all (fun v => v.compute.all fun q => q.2.all markOk) && b.oplist.all (fun q => q.2.all markOk)
    && (List.range b.vaccords).all (fun a =>
      ((b.oplist.filter fun q => q.1 == a).flatMap fun q => (q.2.zipIdx.filter fun e => marked e.1).map Prod.snd)
        == (b.classmarks.filter fun q => q.1 == a).flatMap Prod.snd)
    && bit b.flags 2 == b.oplist.any (fun q => q.2.any fun o => o.cls == .g)
    && bit b.flags 3 == b.oplist.any fun q => q.2.any fun o => o.cls == .v
/-- The canonical form of a stream, addresses left out (R98). -/
def canonOps (l : List StreamOp) : List (Nat × OpClass × Bool × Nat × Nat × List Nat) :=
  (l.filter fun o => !o.body.spill).map fun o => (o.unit, o.cls, o.stamped, o.len, o.opcode, o.body.fields)
/-- A variant's operations are those of OPLIST. -/
def variantOpsOk (b : Binary) (v : Variant) : Bool :=
  v.compute.length == b.vaccords && (List.range b.vaccords).all fun a =>
    match v.compute.find? (fun q => q.1 == a), b.oplist.find? (fun q => q.1 == a) with
    | some q, some o => canonOps q.2 == canonOps o.2
    | _, _ => false

/-! ### The manifest and run-ahead distances (R102, R105, R134) -/

/-- The IDs that only one of two manifests holds. -/
def idsApart (m n : List (Nat × Nat × Nat)) : List Nat :=
  (m.map Prod.fst).filter (fun i => !(n.map Prod.fst).contains i) ++ (n.map Prod.fst).filter fun i => !(m.map Prod.fst).contains i
/-- The lowest ID of a list, 0 for none. -/
def lowestId (l : List Nat) : Nat := l.min?.getD 0
/-- The PARAM entries that the chip does not meet. -/
def paramsMissed (bin chip : List (Nat × Nat × Nat)) : List Nat :=
  (chip.filter fun e => e.2.1 == 2 &&
    (if e.1 = 0x0A04 then (manVal bin e.1).getD 0 != e.2.2 else decide (e.2.2 < (manVal bin e.1).getD 0))).map Prod.fst
/-- The FIXED and BOUND entries above the binary's. -/
def latenciesMissed (bin chip : List (Nat × Nat × Nat)) : List Nat :=
  (chip.filter fun e => e.2.1 != 2 && decide ((manVal bin e.1).getD 0 < e.2.2)).map Prod.fst
/-- The required distance of a run-ahead entry (R134). -/
def runAheadNeed (m : List (Nat × Nat × Nat)) (e : RunAhead) : Nat :=
  let v := fun id => (manVal m id).getD 0
  let t := if e.tier = 0 then 0x0501 else 0x0505
  (if e.dir = 0 then v t + v 0x0403 else v (t + 1)) + (if e.narrow then v (t + 2) else 0) + (if e.first then v (t + 3) else 0)
    + v 0x0509 * e.cross + ((e.maxlenM1 + 1) * 64 + 255) / 256
/-- An access instruction is a transfer. -/
def isTransfer (i : LoadAccess) : Bool := i.op == 1 || i.op == 2
/-- A transfer keeps to its kind. -/
def kindOk (t : List RunAhead) (i : LoadAccess) : Bool :=
  !isTransfer i || match t[i.kind]? with
    | some e => e.valid && e.tier == i.tier && e.dir == i.op - 1 && e.narrow == i.narrow && e.first == i.first
        && decide (i.lenM1 ≤ e.maxlenM1)
    | none => false
/-- The run-ahead table of a virtual access engine. -/
def runTable (v : Variant) (vacc e : Nat) : List RunAhead :=
  match v.runAhead.find? fun q => q.1 == vacc && q.2.1 == e with
  | some q => q.2.2
  | none => []
/-- The distances of a variant suffice, and its transfers keep to their kinds (R105, R134). -/
def runAheadOk (m : List (Nat × Nat × Nat)) (v : Variant) : Bool :=
  v.runAhead.all (fun q => q.2.2.all fun e => !e.valid || decide (runAheadNeed m e ≤ e.distance))
    && v.access.all fun q => q.2.2.all (kindOk (runTable v q.1 q.2.1))
/-- A range of a tier has a part on another die than `die`. -/
def leavesDie (base : Bool) (die a n : Nat) : Bool := decide (n ≠ 0) && (addrDie base a != die || addrDie base (a + n - 1) != die)
/-- The windows of a load: heart base and size, base base and size. -/
structure Windows where
  hb : Nat
  hs : Nat
  bb : Nat
  bs : Nat
deriving DecidableEq, Repr
/-- CROSS is 1 for every kind in use whose window leaves the die of the mapped accord (R134). -/
def State.crossOk (s : State) (accs : List Nat) (v : Variant) (w : Windows) : Bool :=
  v.access.all fun q => q.2.2.all fun i =>
    !isTransfer i || match (runTable v q.1 q.2.1)[i.kind]? with
      | some e => e.cross == 1 ||
          !(let die := s.dieOf (accs.getD (q.1 / 2 ^ v.fold) 0)
            if e.tier = 0 then leavesDie false die w.hb w.hs else leavesDie true die w.bb w.bs)
      | none => true

/-! ### Slot-table images (R126, R251) -/

/-- An image of a SLOTS section is well formed. -/
def State.slotImageOk (s : State) (e : SlotTarget × List Byte) : Bool :=
  match e.1 with
  | .accordArb _ k => decide (k < 26) && imageOk false (accInput k) (leNat e.2) && e.2.length == imageBytes e.2
  | .chipArb k => s.hasChipArb k && imageOk true (chipInput k) (leNat e.2) && e.2.length == imageBytes e.2
  | .port p => decide (p < 16) && e.2.length == 16384 && slotsOk (leNat e.2)
/-- Two arbiter images own one cycle. -/
def arbClash (v w : Nat) : Bool :=
  (List.range (max (2 ^ min (v % 256) 12) (2 ^ min (w % 256) 12))).any fun i => (slotOwner v i).isSome && (slotOwner w i).isSome
/-- An entry of a port image is owned. -/
def portOwns (v i : Nat) : Bool := slotOwned (bits v (32 * i + 31) (32 * i))
/-- Two port images own one slot. -/
def portClash (v w : Nat) : Bool := (List.range 4096).any fun i => portOwns v i && portOwns w i
/-- The images for a chip arbiter or a port that the mapped variants of the resident contexts hold. -/
def State.residentImages (s : State) (t : SlotTarget) : List Nat :=
  s.loadedCtxs.flatMap fun c => match (s.ctxAt c).variant with
    | some v => (v.slots.filter fun e => e.1 == t).map fun e => leNat e.2
    | none => []
/-- The images for arbiter `k` of accord `a` that they hold. -/
def State.residentAcc (s : State) (a k : Nat) : List Nat :=
  s.loadedCtxs.flatMap fun c => match (s.ctxAt c).variant with
    | some v => (v.slots.filter fun e => match e.1 with
        | .accordArb w j => j == k && s.hostOf c w == some a
        | _ => false).map fun e => leNat e.2
    | none => []
/-- An image of a variant that runs on the accords `accs` claims nothing that another resident context owns, and no port slot where
scheduled traffic cannot run (R126, R251). -/
def State.slotClaimOk (s : State) (accs : List Nat) (fold : Nat) (e : SlotTarget × List Byte) : Bool :=
  match e.1 with
  | .accordArb w k => (s.residentAcc (accs.getD (w / 2 ^ fold) 16) k).all fun v => !arbClash v (leNat e.2)
  | .chipArb k => (s.residentImages (.chipArb k)).all fun v => !arbClash v (leNat e.2)
  | .port p => (s.residentImages (.port p)).all (fun v => !portClash v (leNat e.2))
      && (s.odGet (kSchedOk p) == 1 || !(List.range 4096).any (portOwns (leNat e.2)))
/-- The entry of a merged arbiter image at index `i`: the owner that any of them has. -/
def mergeEntry (l : List Nat) (i : Nat) : Nat :=
  match l.findSome? fun v => slotOwner v i with
  | some o => 128 + o
  | none => 0
/-- The image that serves a new image beside those of the resident contexts (log entry 36). -/
def mergeArb (new : Nat) (l : List Nat) : Nat :=
  let len := (l.map fun v => min (v % 256) 12).foldl max (min (new % 256) 12)
  leNat (leBytes 1 len ++ leBytes 79 (bits new 639 8) ++ (List.range (2 ^ len)).flatMap fun i => leBytes 1 (mergeEntry (new :: l) i))
/-- The same for a port. -/
def mergePort (new : Nat) (l : List Nat) : Nat :=
  leNat ((List.range 4096).flatMap fun i => leBytes 4 (((new :: l).map fun v => bits v (32 * i + 31) (32 * i)).find? slotOwned |>.getD 0))

/-! ### Arguments and mapping (R96, Table 15-6) -/

/-- The arguments of a LOAD. -/
structure LoadArgs where
  image : Nat
  fallback : Nat
  ctx : Nat
  part : Nat
  tolerant : Bool
  group : Nat
  withFallback : Bool
  chips : Nat
  list : Nat
  first : Nat
deriving DecidableEq, Repr
/-- The arguments in a command entry. -/
def loadArgs (e : List Byte) : LoadArgs :=
  let a1 := field e 16 8
  let a3 := field e 32 8
  { ctx := bits a1 7 0, part := bits a1 11 8, tolerant := bit a1 16, group := bits a1 29 24, withFallback := field e 24 8 != 0,
    image := field e 8 8, fallback := field e 24 8,
    chips := bits a3 63 48, list := bits a3 39 0, first := field e 40 8 }
/-- The power of the fold factor that maps a virtual chip onto `p` accords. -/
def foldFor (b : Binary) (p : Nat) : Option Nat := (binFolds b).find? fun k => 2 ^ k * p == b.vaccords
/-- The power of the fold factor of a load (R96, R97): on one chip the chip's own; for a run of several chips the largest that any
of them needs. `peers` are the accords of the run's partitions on the other chips, which reach the loader from outside (log entry
131). -/
def foldOf (b : Binary) (peers : List Nat) (p : Nat) : Option Nat :=
  let l := (p :: if bit b.flags 0 then peers else []).map (foldFor b)
  if l.all Option.isSome then some ((l.filterMap id).foldl max 0) else none
/-- The fold variant of a binary for a fold factor. -/
def variantFor (b : Binary) (k : Option Nat) : Option Variant := k.bind fun k => b.variants.find? fun v => v.fold == k
/-- The unfenced preparer cores of an accord. -/
def State.freeCores (s : State) (a : Nat) : Nat := ((List.range 4).filter fun k => !s.coreFenced a k).length
/-- A load is tolerant: requested and available (R109). -/
def State.loadsTolerant (s : State) (a : LoadArgs) (b : Binary) : Bool :=
  a.tolerant && s.odGet kTolerantAllow == 1 && !bit b.flags 0 && !bit b.flags 4
/-- The ports that a variant's SLOTS section names. -/
def variantPorts (v : Variant) : List Nat := v.slots.filterMap fun e => match e.1 with
  | .port p => some p
  | _ => none

/-- The first of several checks that fails. -/
def firstOf (l : List (Bool × Nat × Nat)) : Option (Nat × Nat) := (l.find? fun e => !e.1).map Prod.snd
/-- The checks that need no window, of a binary that is to run at a fold factor: a reason of LAST_REFUSAL and the manifest ID at
fault. -/
def State.staticRefusal (s : State) (a : LoadArgs) (k : Option Nat) (b : Binary) : Option (Nat × Nat) :=
  let accs := s.accordsOf a.part
  let v := variantFor b k
  let chip := s.chipManifest ((v.map variantPorts).getD [])
  let apart := idsApart b.manifest chip
  let params := paramsMissed b.manifest chip
  let lats := latenciesMissed b.manifest chip
  firstOf [
    (binHeaderOk b, 1, 0),
    (b.variants.all variantStreamsOk, 11, 0),
    (binMarksOk b, 2, 0),
    (b.oplistHash == b.oplistDigest && b.variants.all (variantOpsOk b), 3, 0),
    (v.isSome, 4, 0),
    (accs.all fun x => decide (b.vcores ≤ s.freeCores x), 10, 0),
    (b.manifest.map Prod.fst == chip.map Prod.fst, 5, lowestId apart),
    (params.isEmpty, 6, lowestId params),
    (lats.isEmpty || s.loadsTolerant a b, 7, lowestId lats),
    (b.variants.all (runAheadOk b.manifest), 8, 0),
    (b.variants.all fun w => w.slots.all s.slotImageOk, 9, 0)]

/-! ### Windows (R106, R146, R149, R161, R194) -/

/-- A window of `n` bytes fits at `a`: it meets no reserved region, no table, no range of a weight set, no other window, and no fenced granule or slice. -/
def State.windowFits (s : State) (base : Bool) (n a : Nat) : Bool :=
  s.rangeOk base a n && !s.inReserved base a n && !s.inTable base a n && (s.meeting base a n).isEmpty
    && !(s.granFences.any fun e => e.1 == base && decide (a < (e.2 + 1) * 65536 ∧ e.2 * 65536 < a + n))
    && (base || (List.range 32).all fun sl =>
      let size := s.heartChans (sl / 16) * 2 ^ 28
      let lo := sl / 16 * 2 ^ 39 + sl % 16 * size
      !(s.odBit kHeartFencedSlices sl && decide (a < lo + size ∧ lo < a + n)))
/-- Where a window can begin when it lies as low as it can: at the start of a half, or where something else ends. -/
def State.windowStarts (s : State) (base : Bool) : List Nat :=
  [0, halfBase base] ++ (s.granFences.filter fun e => e.1 == base).map (fun e => (e.2 + 1) * 65536)
    ++ s.loadedCtxs.map (fun c => let x := s.ctxAt c
        up64k (if base then x.baseBase + x.baseSize else x.heartBase + x.heartSize))
    ++ (List.range 16).flatMap (fun k => [up64k (s.wsCfg k 0 + s.wsCfg k 1), up64k (bits (s.wsCfg k 2) 41 0 + s.wsCfg k 1), up64k (s.wsCfg k 3 + 0x80000)])
    ++ (if base then [up64k (s.odGet kTctBase + 2 ^ 27)] else
      up64k (s.odGet kFlowBase + 2 ^ 24) :: (List.range 32).map fun sl => sl / 16 * 2 ^ 39 + (sl % 16 + 1) * (s.heartChans (sl / 16) * 2 ^ 28))
/-- The base of a window of `n` bytes: any that fits, a multiple of 64 KiB, chosen freely (log entry 37); none where none
fits. -/
def State.openWindowAt (s : State) (base : Bool) (n : Nat) : Option Nat × State :=
  if n = 0 then (some 0, s)
  else
    let (k, s1) := s.drawNat
    let a := k % 2 ^ 27 * 65536
    if s1.windowFits base n a then (some a, s1) else ((s1.windowStarts base).find? (s1.windowFits base n), s1)

/-! ### Refusals and writes -/

/-- A refused LOAD (R92, R117, Table 15-5): counted, its reason kept, an event, and the response. -/
def State.loadRefused (s : State) (r reason id : Nat) : State :=
  let s1 := ((s.bump kLoadRefusals 1).odSet kLastRefusal (id % 2 ^ 16 * 2 ^ 16 + reason % 2 ^ 16)).event .guard 0
  s1.fwRespond r 4 (s1.odGet kLastRefusal) 0
/-- A refusal for which Table 5-12 lists no reason: the reason is free (log entry 34). -/
def State.loadUnlisted (s : State) (r : Nat) : State :=
  let (k, s1) := s.drawNat
  s1.loadRefused r (k % 2 ^ 16) 0

/-- What a load has settled before it writes. -/
structure LoadPlan where
  args : LoadArgs
  bin : Binary
  fb : Option Binary
  v : Variant
  w : Windows
  chips : List Nat
  vchip : Nat
deriving DecidableEq, Repr

/-- The run's chip-id list (R356). -/
def State.chipList (s : State) (a : LoadArgs) : List Nat := (List.range a.chips).map fun i => s.tierLE false (a.list + 2 * i) 2
/-- This chip's places in a run's list that no loaded context of the same run holds. -/
def State.freePlaces (s : State) (b : Binary) (l : List Nat) : List Nat :=
  let taken := s.loadedCtxs.filterMap fun c =>
    let x := s.ctxAt c
    if x.chips == l && (x.prog.map Binary.programId) == some b.programId then some x.vchip else none
  ((l.zipIdx.filter fun e => e.1 == s.odGet kChipId).map Prod.snd).filter fun i => !taken.contains i
/-- The entry of the digest companion of a flow with entry `e` (R271): the same chips and contexts, virtual lane 7, and the receiving
context's mailbox of 384 KiB as region. It is a flow of the step and sets EPCHK, so that no digest of a discarded step is taken
(DESIGN CHOICE, log entry 228). -/
def State.companionEnt (s : State) (e : Nat) : Nat :=
  keepBits e [(127, 112), (93, 78), (4, 3)] + 7 * 2 ^ 94 + s.mailbox (flowRecv e) % 2 ^ 44 * 2 ^ 32 + 5 * 2 ^ 12 + 2 ^ 1
/-- The flows of a load: those of the binary and of its fallback, and the digest companions of those with EPCHK that it does not name
itself. -/
def State.loadFlows (s : State) (b : Binary) (fb : Option Binary) : List (Nat × Nat) :=
  let l := b.flows ++ (fb.map Binary.flows).getD []
  l ++ ((l.filter fun e => hasCompanion e.1 e.2 && !l.any fun q => q.1 == companion e.1).map fun e => (companion e.1, s.companionEnt e.2))
/-- The flows that would be pinned with those of a load. -/
def State.pinCount (s : State) (l : List (Nat × Nat)) : Nat := ((s.flowCache.map Prod.fst) ++ l.map Prod.fst).eraseDups.length
/-- The unarmed launch entries in rising number. -/
def State.unarmed (s : State) : List Nat := (List.range 64).filter fun e => !armed (s.launch e)
/-- The launch requests that a load writes (R220): none for a context that launches itself. -/
def loadRequests (a : LoadArgs) (b : Binary) : List LaunchReq := if a.first = 0 ∧ !bit b.flags 0 then [] else b.launch
/-- A fallback program has the main program's fold factor, batch shape and grid (R210). -/
def fallbackAlike (b : Binary) (v : Variant) (f : Binary) : Bool :=
  f.vchips == b.vchips && f.vaccords == b.vaccords && bit f.flags 0 == bit b.flags 0 && match f.variants.find? fun w => w.fold == v.fold with
    | some w => w.nmb == v.nmb && w.rows == v.rows && w.segs == v.segs
    | none => false
/-- What a load can meet that Table 5-12 gives no reason: a chip out of service, a run of several chips without a time base,
without this chip or without launch requests, a fallback that is missing or differs, too many flows. -/
def State.unlistedRefusal (s : State) (a : LoadArgs) (b : Binary) (v : Variant) (fb : Option Binary) : Bool :=
  s.odGet kChipState == 1
    || (bit b.flags 0 && (s.odGet kSyncState == 4 || (s.freePlaces b (s.chipList a)).isEmpty || b.launch.isEmpty))
    || (a.withFallback && (fb.map (fallbackAlike b v)) != some true)
    || decide (4096 < s.pinCount (s.loadFlows b fb))

/-- The steps that the requests of a section begin before an offset. -/
def stepsBefore (l : List LaunchReq) (x : Nat) : Nat :=
  ((l.filter fun q => q.action == 1 && decide (q.offset < x)).map fun q =>
    if q.period = 0 then 1 else (x - q.offset + q.period - 1) / q.period).sum
/-- The value of a launch entry (Table 10-2): `extra` is what the freezes of tolerant mode add to the length of each step, and every
count lies later by that much for each step that begins before it (R110, R220). -/
def launchValue (a : LoadArgs) (l : List LaunchReq) (q : LaunchReq) (extra : Nat) : Nat :=
  let n := stepsBefore l q.offset
  let period := if q.period = 0 then 0 else q.period + extra * (stepsBefore l (q.offset + q.period) - n)
  (a.first + q.offset + extra * n) % 2 ^ 64 * 2 ^ 64 + period % 2 ^ 40 * 2 ^ 24
    + a.group % 64 * 2 ^ 18 + a.ctx % 256 * 2 ^ 10 + q.action % 16 * 2 ^ 6 + b2n q.setgen * 2 ^ 5 + q.gen % 16 * 2 + 1
/-- Write the launch entries of a load in section order (R220). -/
def State.loadLaunch (s : State) (a : LoadArgs) (extra : Nat) (l : List LaunchReq) : State :=
  (l.zip s.unarmed).foldl (fun t e => t.launchWrite e.2 (launchValue a l e.1 extra)) s
/-- Pin one flow of a binary (R243). -/
def State.pinFlow (s : State) (e : Nat × Nat) : State :=
  let v := setBit (e.2 % 2 ^ 128) 2
  let s1 := s.devWrite false (s.odGet kFlowBase + 16 * e.1) (leBytes 16 v)
  { s1 with flowCache := s1.flowCache.filter (fun q => q.1 != e.1) ++ [(e.1, v)] }
/-- The counts of the swaps that are still to come of the shared images that a variant replaces: the contexts of those loads stand
between steps up to them. -/
def State.swapsPending (s : State) (v : Variant) : List Nat :=
  (v.slots.filterMap fun e => match e.1 with
    | .chipArb _ => if (List.range 82).any fun k => s.odBit (kChipArbCtrl k) 29 then some (s.odGet kSwapCount) else none
    | .port p => if s.odBit (kSlotCtrl p) 29 then some (s.odGet (kSlotSwapCount p)) else none
    | .accordArb _ _ => none).filter fun n => decide (s.g < n)
/-- The count at which a load's shared images become active (R127). The owned entries that differ are those of the loaded context
and of loads whose swap is still to come, which stand between steps until their first START: the count is a free one up to the
earliest of those, and the next tick for a context that launches itself (log entry 126). -/
def State.swapAt (s : State) (v : Variant) (first : Nat) : Nat × State :=
  let (n, s1) := s.drawNat
  let last := (s.swapsPending v).foldl min first
  (if s.g < last then s.g + 1 + n % (last - s.g) else s.g + 1, s1)
/-- The images of the shared arbiters and ports of a variant, merged with those in force for the resident contexts, swap at the
count that the loader chooses (R127). -/
def State.loadShared (s : State) (v : Variant) (first : Nat) : State :=
  let (n, s0) := s.swapAt v first
  v.slots.foldl (fun (t : State) (e : SlotTarget × List Byte) => match e.1 with
    | .accordArb _ _ => t
    | .chipArb k =>
      ((t.odSet (kChipArbShadow k) (cleanImage (mergeArb (leNat e.2) (s.residentImages (.chipArb k))))).odSetBit (kChipArbCtrl k) 29
        true).odSet kSwapCount n
    | .port p => (t.slotShadow p (mergePort (leNat e.2) (s.residentImages (.port p)))).odSet (kSlotSwapCount p) n) s0
/-- CTX_MODE of a loaded context (Table 5-12). Bits 31 to 24 hold ME_ACC_READ in force, B; of a tolerant load with C above B the
manual does not say which counts, and the entry shows C, which the hardware takes (DESIGN CHOICE, log entry 222). -/
def State.modeWord (s : State) (p : LoadPlan) : Nat :=
  (max s.lrd ((manVal p.bin.manifest 0x0106).getD 0) % 256) * 2 ^ 24 + 2 ^ p.v.fold % 256 * 2 ^ 16 + s.odGet kOwnTags * 2 ^ 8
    + b2n (s.loadsTolerant p.args p.bin) * 2 + 1
/-- A step length in tk, rounded up. -/
def stepTk (ec : Nat) : Nat := (ec + 3) / 4

/-- The context that a load makes. Its audit chain opens with the program record (R291, log entry 23). -/
def LoadPlan.context (p : LoadPlan) (replay : Bool) : Ctx :=
  { Ctx.empty with st := .loaded, part := p.args.part, replay := replay, prog := some p.bin, fbProg := p.fb, fold := p.v.fold,
                   heartBase := p.w.hb, heartSize := p.w.hs, baseBase := p.w.bb, baseSize := p.w.bs, chips := p.chips, vchip := p.vchip,
                   auditPrev := leBytes 32 (Config.programRecordDigest p.bin.classmarksDigest) }
/-- What the freezes of a step of a tolerant load add to its length, in ec (R110): the excesses C − B at the completions that the
variant's schedule places. -/
def State.stretch (s : State) (a : LoadArgs) (b : Binary) (v : Variant) : Nat :=
  let m := s.chipManifest (variantPorts v)
  if s.loadsTolerant a b then
    stretchOf v fun ids => (ids.map fun id => (manVal m id).getD 0 - (manVal b.manifest id).getD 0).sum
  else 0
/-- The length in ec of a step of a program as it runs: its own with its freezes. -/
def State.stretched (s : State) (a : LoadArgs) (b : Binary) (fold : Nat) : Nat :=
  match variantFor b (some fold) with
  | some v => v.stepLen + s.stretch a b v
  | none => 0
/-- The entries of a context that a load writes (R103, R117, R210, R405). -/
def State.loadEntries (s : State) (p : LoadPlan) : State :=
  let c := p.args.ctx
  let fbLen := (p.fb.map fun f => s.stretched p.args f p.v.fold).getD 0
  let s1 := (s.odSetBits (kCtxCfg c) 39 0 (p.v.nmb % 2 ^ 16 + p.v.rows % 2 ^ 16 * 2 ^ 16 + p.v.segs % 2 ^ 8 * 2 ^ 32)).odSet
    (kCtxMode c) (s.modeWord p)
  let s2 := ((s1.odSet (kCtxBinary c) p.bin.imageDigest).odSet (kCtxFreezeEc c) 0).odSet (kCtxStep c) 0
  (s2.odSetBits (kDlCfg c) 191 128 (stepTk (s.stretched p.args p.bin p.v.fold))).odSetBits (kDlCfg c) 255 192 (stepTk fbLen)
/-- The run-table entry of a context (R356). -/
def State.runEntry (s : State) (p : LoadPlan) : State :=
  s.fwPut (0x320000 + 16 * p.args.ctx) (leBytes 1 (b2n (bit p.bin.flags 0)) ++ leBytes 1 0 ++ leBytes 2 p.args.chips ++ leBytes 4 0
    ++ leBytes 8 p.args.list)
/-- A loop-back that runs when a context is loaded ends without a result: loop-backs run only while none is (R166, R398;
DEDUCED, log entry 194). -/
def State.endLoops (s : State) : State := (s.odSetBit kMemLoopbackCtrl 30 false).odSetBit kD2dLoopbackCtrl 30 false
/-- Everything that an accepted LOAD writes. -/
def State.loadWrite (s : State) (p : LoadPlan) : State :=
  let c := p.args.ctx
  let s1 := (s.endLoops.loadShared p.v p.args.first).setCtx c (p.context (s.ctxAt c).replay)
  let s2 := (s1.loadEntries p).runEntry p
  let s3 := (s2.loadFlows p.bin p.fb).foldl State.pinFlow s2
  let extra := stepTk (s.stretch p.args p.bin p.v)
  let s4 := (s3.odSet kFlowsPinned s3.flowCache.length).loadLaunch p.args extra (loadRequests p.args p.bin)
  if s4.shared c then s4 else s4.placeUnits c

/-- A window as large as the main and the fallback program need. -/
def needOf (f : Variant → Nat) (v : Variant) (fb : Option Binary) : Nat :=
  max (f v) ((fb.bind fun b => (variantFor b (some v.fold)).map f).getD 0)
/-- The part of a load that follows the window choice. -/
def State.loadPlaced (s : State) (r : Nat) (p : LoadPlan) : State :=
  let all_ := p.v :: (p.fb.bind fun b => variantFor b (some p.v.fold)).toList
  let accs := s.accordsOf p.args.part
  if !(all_.all fun v => s.crossOk accs v p.w) then s.loadRefused r 8 0
  else if !(all_.all fun v => v.slots.all (s.slotClaimOk accs p.v.fold)) then s.loadRefused r 9 0
  else if s.unarmed.length < (loadRequests p.args p.bin).length then s.loadRefused r 12 0
  else (cfgJob (fun t => t.loadWrite p) s).fwRespond r 0 0 0
/-- LOAD of a binary that passed the checks which need no window. -/
def State.loadMapped (s : State) (r : Nat) (a : LoadArgs) (b : Binary) (fb : Option Binary) (v : Variant) : State :=
  if s.unlistedRefusal a b v fb then s.loadUnlisted r
  else
    let hs := needOf Variant.heartWin v fb
    let bs := needOf Variant.baseWin v fb
    let (hb, s1) := s.openWindowAt false hs
    let (bb, s2) := s1.openWindowAt true bs
    let l := if bit b.flags 0 then s.chipList a else []
    match hb, bb with
    | some x, some y => s2.loadPlaced r ⟨a, b, fb, v, ⟨x, hs, y, bs⟩, l, (s.freePlaces b l).headD 0⟩
    | _, _ => s2.loadUnlisted r
/-- The image of a binary in the heart tier at an address (Table 5-1): as far as its directory and its sections reach; what
lies in the tier where they reach past its end. -/
def State.imageIn (s : State) (a : Nat) : List Byte :=
  let n := field (s.tierBytes false a 96) 24 4
  if !s.rangeOk false a (96 + 16 * n) then s.tierBytes false a 96
  else
    let last := ((imageDir (s.tierBytes false a (96 + 16 * n))).map fun d => d.off + d.size).foldl max (96 + 16 * n)
    s.tierBytes false a (if s.rangeOk false a last then last else 96 + 16 * n)
/-- A LOAD command (Table 15-6). -/
def State.loadCmd (s : State) (r : Nat) (e : List Byte) (bin : BinImage) (fallback : Option BinImage) (peers : List Nat) : State :=
  let a := loadArgs e
  let b := readBinary (s.imageIn a.image) bin
  let fb := if a.withFallback then fallback.map (readBinary (s.imageIn a.fallback)) else none
  let k := foldOf b peers (s.accordsOf a.part).length
  if (s.ctxAt a.ctx).st ≠ .free ∨ !s.formed a.part then s.fwRespond r 2 0 0
  else match s.staticRefusal a k b, fb.bind (s.staticRefusal a k) with
    | some q, _ => s.loadRefused r q.1 q.2
    | none, some q => s.loadRefused r q.1 q.2
    | none, none =>
      match variantFor b k with
      | some v => s.loadMapped r a b fb v
      | none => s.loadRefused r 4 0
/-- LOAD of the binaries that lie at the addresses its arguments name. The operands give what the sections hold for which the
manual has no layout, and the accords of the run's other chips. -/
def execLoad (r : Fin 8) (env : FwEnv) (bin : BinImage) (fallback : Option BinImage) (peers : List Nat) (s : State) :
    Host.Outcome State Fault Refusal :=
  .next (whenLive s (fwServe r env (fwWants 1) (fun t e => (t.loadCmd r e bin fallback peers).fwMeanwhile r 1 env.full) s))

/-! ### UNLOAD (Table 15-6) -/

/-- A context in this state may be unloaded. -/
def CtxSt.unloads : CtxSt → Bool
  | .loaded | .ready | .saved | .stopped => true
  | _ => false
/-- Unload a context: a teardown that still waits for it is performed first; its open commands complete with FAULT and its
tenants are unbound (log entry 38). -/
def State.unload (s : State) (c : Nat) : State :=
  let p := (s.ctxAt c).part
  let torn := match s.recQ.find? fun r => r.kind == RecoveryKind.teardown c with
    | some r => s.tearCtx c r.seq
    | none => s
  let s1 := { torn with recQ := s.recQ.filter fun r => r.kind != RecoveryKind.teardown c }
  let s2 := ((s1.ctxAt c).slots.foldl (fun (t : State) q => t.unbind c q.entry) s1).faultAll c
  (s2.freeCtx c).partRelease p
/-- An UNLOAD command. -/
def State.unloadCmd (s : State) (r : Nat) (e : List Byte) : State :=
  let c := bits (field e 16 8) 7 0
  if (s.ctxAt c).st.unloads then (cfgJob (fun t => t.unload c) s).fwRespond r 0 0 0 else s.fwRespond r 2 0 0
/-- UNLOAD. -/
def execUnload (r : Fin 8) (env : FwEnv) (s : State) : Host.Outcome State Fault Refusal :=
  .next (whenLive s (fwServe r env (fwWants 2) (fun t e => t.unloadCmd r e) s))

end Sys2Proof.Machine
end

