-- ==== Sys2Proof/Machine/Matrix.lean ====
section
/-!
DEFINITION. Matrix engines (chapter 03): the pass and the epilogue.
-/
namespace Sys2Proof.Machine

/-- Engine `e` of an accord. -/
def Accord.engAt (A : Accord) (e : Fin 4) : Engine := A.eng[e.val]
/-- Replace engine `e` of an accord. -/
def Accord.setEng (A : Accord) (e : Fin 4) (x : Engine) : Accord := { A with eng := A.eng.set e.val x }

/-- A power of two up to 2,048 (Table 3-1, Table 3-3). -/
def tileHeight (h : Nat) : Bool := [1, 2, 4, 8, 16, 32, 64, 128, 256, 512, 1024, 2048].contains h

/-! ### The pass -/

/-- A pass runs at FP16 (R56). -/
def passFp16 (p : PassParams) : Bool := p.fa == .fp16 || p.fw == .fp16
/-- The matrix-engine timings in force for a pass (Table 5-5, R103): the row issue interval, the offset of a readable result,
the cycles of one source row of a weight load. -/
structure MeTiming where
  row : Nat
  ofs : Nat
  load : Nat
deriving DecidableEq, Repr
/-- The timings of a pass in a context: 1 ec a row, 2 at FP16, result at 130, 1 ec a source row, unless its binary's entries
say more. -/
def State.meTiming (s : State) (c : Nat) (p : PassParams) : MeTiming :=
  { row := if passFp16 p then s.fixedLat c 0x0102 2 else s.fixedLat c 0x0101 1, ofs := s.fixedLat c 0x0103 130,
    load := s.fixedLat c 0x0105 1 }

/-- The format and scale mode of an operand pair legally (R57). -/
def modeOk (f : Fmt) (mode : Nat) : Bool :=
  if fmtMx f then mode == 2 else if fmtFp8 f then decide (mode ≤ 2) else decide (mode ≤ 1)

/-- Rows of `n` bytes apart from a tile-store offset, as `m` rows of 128 elements. -/
def Accord.tileRow (A : Accord) (e off : Nat) (f : Fmt) (i : Nat) : List Nat :=
  unpackRow f 128 (A.top.readN (tileAddr e (off + i * rowBytes f 128)) (rowBytes f 128))

/-- The number of source rows of a weight load (R53). -/
def loadLen (kact ncols : Nat) (trans : Bool) : Nat := if trans then ncols else kact

/-- The weight tile a load leaves in the array, as a list of array rows (R53): entries it does not feed are zero. -/
def Accord.loadTile (A : Accord) (e off : Nat) (f : Fmt) (kact ncols : Nat) (trans : Bool) : List (List Nat) :=
  let src := (List.range (loadLen kact ncols trans)).map fun i => A.tileRow e off f i
  if trans then (List.range 128).map fun r => src.map fun row => row.getD r 0
  else src

/-- The weight scale byte of array row `r`, column `j` in mode 0 or 2 (R57). -/
def Accord.wScale (A : Accord) (e mode scale r j : Nat) : Nat :=
  if mode = 0 then scale else (A.top.read (tileAddr e (scale + 4 * j + r / 32))).toNat
/-- The activation scale byte of array row `r` of pass row `m` in mode 0, 1 or 2 (R57). -/
def Accord.aScale (A : Accord) (e mode scale tileH m r : Nat) : Nat :=
  if mode = 0 then scale
  else if mode = 1 then (A.top.read (tileAddr e (scale + m / tileH))).toNat
  else (A.top.read (tileAddr e (scale + 4 * m + r / 32))).toNat

/-- The partial sum of one output element: the products of the active array rows added in increasing row (R26 to R28). -/
def psum (fa fw : Fmt) (as_ ascs ws wscs : List Nat) (init : W32) : W32 :=
  ((as_.zip ascs).zip (ws.zip wscs)).foldl (fun acc q => add32 acc (product fa q.1.1 q.1.2 fw q.2.1 q.2.2)) init

/-- A segment of a pass as it runs: first row, rows, start cycle, weight tile, weight scale source, columns. -/
structure SegRun where
  row0 : Nat
  rows : Nat
  start : Nat
  newTile : Bool
  weights : List (List Nat)
  wscale : Nat
  cols : List Nat
deriving DecidableEq, Repr

/-- The columns below NCOLS that a column mask selects. -/
def maskCols (ncols cmask : Nat) : List Nat := (List.range ncols).filter fun j => inMask cmask j

/-- Place the segments after the first: a new tile's load begins when the active tile became active, and the segment
starts when it is usable and the rows before it have issued (R52, R65). -/
def placeSegs (A : Accord) (T : MeTiming) (e : Nat) (p : PassParams) :
    List Segment → (row0 next active : Nat) → (w : List (List Nat)) → (ws : Nat) → List SegRun
  | [], _, _, _, _, _ => []
  | g :: r, row0, next, active, w, ws =>
    if g.keep then
      ⟨row0, g.rows, next, false, w, ws, maskCols p.ncols g.cmask⟩ ::
        placeSegs A T e p r (row0 + g.rows) (next + g.rows * T.row) active w ws
    else
      let st := max next (active + loadLen p.kact p.ncols g.trans * T.load)
      let w' := A.loadTile e g.waddr p.fw p.kact p.ncols g.trans
      let ws' := if p.wsmode = 0 then g.wscale else g.saddr
      ⟨row0, g.rows, st, true, w', ws', maskCols p.ncols g.cmask⟩ ::
        placeSegs A T e p r (row0 + g.rows) (st + g.rows * T.row) st w' ws'

/-- The segments of a pass that starts in cycle `t`: one without a segment list. -/
def passSegs (A : Accord) (T : MeTiming) (e : Nat) (p : PassParams) (t : Nat) : List SegRun :=
  match p.seglist with
  | none => [⟨0, p.m, t, true, A.loadTile e p.waddr p.fw p.kact p.ncols p.wtrans, p.wscale, List.range p.ncols⟩]
  | some (off, n) =>
    match A.segments e off n with
    | [] => []
    | g :: r =>
      let w := A.loadTile e g.waddr p.fw p.kact p.ncols g.trans
      let ws := if p.wsmode = 0 then g.wscale else g.saddr
      ⟨0, g.rows, t, true, w, ws, maskCols p.ncols g.cmask⟩ ::
        placeSegs A T e p r g.rows (t + g.rows * T.row) t w ws

/-- The cycle in which the array has issued a pass's last row, plus one. -/
def segsEnd (i : Nat) (t : Nat) (l : List SegRun) : Nat := l.foldl (fun _ g => g.start + g.rows * i) t
/-- The first cycle of the tile that is active at the end. -/
def segsActive (t : Nat) (l : List SegRun) : Nat := l.foldl (fun a g => if g.newTile then g.start else a) t

/-- The accumulator halves that a row range meets (R58). -/
def halvesOf (row0 rows : Nat) : List Nat :=
  (if row0 < 1024 then [0] else []) ++ (if 1024 < row0 + rows then [1] else [])
/-- The rows of a range that lie in a half: how many rows precede them and how many there are. -/
def halfPart (half row0 rows : Nat) : Nat × Nat :=
  let lo := if row0 < half * 1024 then half * 1024 - row0 else 0
  let hi := min (row0 + rows) ((half + 1) * 1024)
  (lo, hi - (row0 + lo))

/-- The write-port uses of a pass (R50, R56, R58): two cycles before the result is readable. -/
def passPorts (accBase : Nat) (T : MeTiming) (l : List SegRun) : List PortUse :=
  l.flatMap fun g => (halvesOf (accBase + g.row0) g.rows).map fun hf =>
    let (lo, n) := halfPart hf (accBase + g.row0) g.rows
    ⟨hf, true, g.start + lo * T.row + T.ofs - 2, n, T.row, g.cols⟩
/-- The write-port uses of an epilogue's write-back, `wb` after its start (R60). -/
def epiPorts (src m t wb : Nat) : List PortUse :=
  (halvesOf src m).map fun hf =>
    let (lo, n) := halfPart hf src m
    ⟨hf, false, t + lo + wb, n, 1, List.range 128⟩

/-- The two uses meet in some column and cycle (R58): one of a pass, one of a write-back. -/
def portsMeet (a b : PortUse) : Bool :=
  let go := fun (p e : PortUse) => (List.range p.rows).any fun i => p.cols.any fun j =>
    let c := p.first + i * p.step + j
    decide (e.first ≤ c ∧ c < e.first + e.rows)
  a.half == b.half && ((a.skew && !b.skew && go a b) || (!a.skew && b.skew && go b a))
/-- A use whose last cycle is not yet past. -/
def portAlive (t : Nat) (u : PortUse) : Bool := decide (t ≤ u.first + u.rows * u.step + 128)

/-- Rows that two ranges share. -/
def rowsMeet (a n b m : Nat) : Bool := decide (a < b + m ∧ b < a + n)

/-- The detections of a pass. DESIGN CHOICE (log entry 174): the first of the order malformed, out of bounds, format, double
booking, not ready is reported. DESIGN CHOICE (log entry 175): a WADDR that is no multiple of 64 is used as it stands. -/
def passDets (a : Nat) (e : Fin 4) (p : PassParams) (s : State) (x : IssueCtx) : List Det :=
  let A := s.accAt a
  let T := s.meTiming x.ctx p
  let E := A.engAt e
  let ev := e.val
  let segs := match p.seglist with
    | some (off, n) => if inTile off (16 * n) then A.segments ev off n else []
    | none => []
  let ranges := (p.asrc % 64 == 0) && (decide (1 ≤ p.m ∧ p.m ≤ 2048)) && (decide (1 ≤ p.kact ∧ p.kact ≤ 128))
    && (decide (1 ≤ p.ncols ∧ p.ncols ≤ 128)) && fmtMeInput p.fa && fmtMeInput p.fw && (decide (p.asmode ≤ 2))
    && (p.wsmode == 0 || p.wsmode == 2) && tileHeight p.atileH && (decide (p.accBase ≤ 2047))
    && (p.asmode != 0 || decide (p.ascale ≤ 255)) && (p.wsmode != 0 || decide (p.wscale ≤ 255))
    && (match p.seglist with
        | some (_, n) => decide (1 ≤ n ∧ n ≤ 256)
        | none => true)
  let tile := fun (off n : Nat) => detUnless (inTile off n) 2 (tileAddr ev off)
  let mal := detUnless ranges 1 0
  let bound := detUnless (decide (p.accBase + p.m ≤ 2048)) 2 (accAddr ev p.accBase)
    ++ tile p.asrc (p.m * rowBytes p.fa 128) ++ tile p.tags (16 * p.m)
    ++ (if p.asmode = 0 then [] else tile p.ascale (if p.asmode = 1 then (p.m + p.atileH - 1) / p.atileH else 4 * p.m))
    ++ (match p.seglist with
        | none => tile p.waddr (loadLen p.kact p.ncols p.wtrans * rowBytes p.fw 128)
            ++ (if p.wsmode = 0 then [] else tile p.wscale (4 * p.ncols))
        | some (off, n) => tile off (16 * n) ++ detUnless (segsOk p.m segs) 1 0
            ++ (segs.filter fun g => !g.keep).flatMap fun g =>
              tile g.waddr (loadLen p.kact p.ncols g.trans * rowBytes p.fw 128)
                ++ (if p.wsmode = 0 then [] else tile g.saddr (4 * p.ncols)))
  let tags := (List.range p.m).map fun i => A.top.readLE (tileAddr ev (p.tags + 16 * i)) 16
  let fmt := detUnless (modeOk p.fa p.asmode && modeOk p.fw (if p.wsmode = 0 then 0 else 2)
      && (p.asmode != 2 && p.wsmode != 2 || p.kact % 32 == 0)
      && (p.asmode == 2 || tilesOneOwner p.atileH tags)) 7 p.accBase
  let runs := passSegs A T ev p x.t
  let book := detIf (decide (x.t < E.arrayFree)) 6 0
    ++ detIf ((passPorts p.accBase T runs).any fun u => E.ports.any fun v => portsMeet u v) 6 0 kMeDoubleBookings
  let wb := (s.guardAt x.part).phaseStart + p.wbegin
  let len := match segs with
    | g :: _ => loadLen p.kact p.ncols g.trans
    | [] => loadLen p.kact p.ncols p.wtrans
  let ready := detIf (decide (wb < E.activeAt ∨ x.t < wb + len * T.load)) 4 p.accBase
    ++ detIf (p.accumulate && E.last.any fun l =>
        rowsMeet p.accBase p.m l.row0 l.rows && decide (x.t < l.start + T.ofs + s.lrdOf x.ctx)) 4 p.accBase
  match mal ++ bound with
  | d :: r => d :: r
  | [] => fmt ++ book ++ ready

/-- The results of one row of a segment: column and partial sum. -/
def rowSums (A : Accord) (e : Nat) (p : PassParams) (g : SegRun) (i : Nat) : List (Nat × W32) :=
  let m := g.row0 + i
  let rs := List.range p.kact
  let as_ := (A.tileRow e p.asrc p.fa m).take p.kact
  let ascs := rs.map fun r => A.aScale e p.asmode p.ascale p.atileH m r
  g.cols.map fun j =>
    let ws := rs.map fun r => (g.weights.getD r []).getD j 0
    let wscs := rs.map fun r => A.wScale e p.wsmode g.wscale r j
    let init := if p.accumulate then A.accumAt e (p.accBase + m) j else posZero
    (j, psum p.fa p.fw as_ ascs ws wscs init)

/-- Every result of a pass: accumulator row, column, partial sum. -/
def passSums (A : Accord) (e : Nat) (p : PassParams) (runs : List SegRun) : List (Nat × Nat × W32) :=
  runs.flatMap fun g => (List.range g.rows).flatMap fun i =>
    (rowSums A e p g i).map fun q => (p.accBase + g.row0 + i, q.1, q.2)

/-- The effect of a pass on its accord (R49 to R59, R64, R65): sums into the accumulator store, the rows' tags, the
array's occupancy and active tile, the record of the halves it wrote. -/
def Accord.runPass (A : Accord) (T : MeTiming) (e : Fin 4) (p : PassParams) (t : Nat) : Accord :=
  let ev := e.val
  let runs := passSegs A T ev p t
  let E := A.engAt e
  let A1 := (passSums A ev p runs).foldl (fun B q => B.setAccum ev q.1 q.2.1 q.2.2) A
  let tags := (List.range p.m).foldl (fun m i =>
    SMap.set zeroNat m (tagKey ev (p.accBase + i)) (A.top.readLE (tileAddr ev (p.tags + 16 * i)) 16)) A.rowTags
  let hs := halvesOf p.accBase p.m
  let E1 : Engine :=
    { E with weights := (runs.getLast?.map SegRun.weights).getD E.weights,
             shadow := (runs.getLast?.map SegRun.weights).getD E.shadow,
             activeAt := segsActive t runs, arrayFree := segsEnd T.row t runs,
             last := (E.last.filter fun l => !hs.contains l.half)
               ++ hs.map fun hf => ⟨hf, t, p.accBase, p.m, passFp16 p⟩,
             ports := (E.ports.filter (portAlive t)) ++ passPorts p.accBase T runs }
  { A1 with rowTags := tags }.setEng e E1

/-- PASS (R54). -/
def execPass (h : Issue) (e : Fin 4) (p : PassParams) (s : State) : Host.Outcome State Fault Refusal :=
  engineIssue h e.val (unitId 1 (4 * h.acc + e)) (atTop h.acc (passDets h.acc e p))
    (atTop h.acc fun s x => (s.modAcc h.acc fun A => A.runPass (s.meTiming x.ctx p) e p x.t).bump
      (kMeBusyEc (4 * h.acc + e)) p.m) s

/-! ### The epilogue -/

/-- The pairing of the streamed operand's format with its scale mode (Table 3-3): it names none for E8M0. -/
def tModeOk (f : Fmt) (mode scale : Nat) : Bool :=
  match f with
  | .fp32 | .bf16 | .fp16 => mode == 0
  | .e4m3 | .e5m2 => mode == 0 || mode == 2
  | .e3m2 | .e2m3 | .e2m1 => mode == 2
  | .int8 | .int32 => mode == 0 && scale == 0x7F
  | .e8m0 => false

/-- The bytes an epilogue writes at DST: the rows and, for an MX format, their scale planes (Table 3-3). -/
def epiBytes (p : EpiParams) : Nat := p.m * rowBytes p.fout 128 + if fmtMx p.fout then 4 * p.m else 0

/-- The column mask of the segment that holds row `i`. -/
def segMask : List Segment → Nat → Nat
  | [], _ => 0
  | g :: r, k => if k < g.rows then g.cmask else segMask r (k - g.rows)
/-- The accumulator columns of output row `i` in output order (R66). -/
def epiCols (segs : Option (List Segment)) (i : Nat) : List Nat :=
  match segs with
  | none => List.range 128
  | some l => (List.range 128).filter (inMask (segMask l i))

/-- The streamed operand's FP32 elements of row `i` (R40 step 1). -/
def Accord.tRow (A : Accord) (p : EpiParams) (i : Nat) : List W32 :=
  let n := rowBytes p.ft 128
  let es := unpackRow p.ft 128 (A.top.readN (p.tsrc + i * n) n)
  (es.zip (List.range 128)).map fun q =>
    let sc := if p.tsmode = 0 then p.tscale else (A.top.read (p.tscale + 4 * i + q.2 / 32)).toNat
    rne32 ((decodeVal p.ft q.1).scaleBy sc)

/-- The fused operation (R40 step 1). -/
def fused (op : FusedOp) (acc t : W32) : W32 :=
  match op with
  | .none => acc
  | .add => add32 acc t
  | .mul => mul32 acc t

/-- Row `i` of the values v, all 128 columns. -/
def Accord.epiRow (A : Accord) (e : Nat) (p : EpiParams) (i : Nat) : List W32 :=
  let acc := (List.range 128).map fun j => A.accumAt e (p.srcBase + i) j
  match p.op with
  | .none => acc
  | op => (acc.zip (A.tRow p i)).map fun q => fused op q.1 q.2

/-- One output row: the selected columns, then +0.0 converted (R66), as element encodings and MX block scales. -/
def epiEncode (f : Fmt) (r : Round) (sat : Bool) (x : Int) (sel : List W32) (ws : List Nat) : List Nat × List Nat :=
  if f = .fp32 ∧ x = 0 then ((sel.map BitVec.toNat ++ List.replicate (128 - sel.length) 0).take 128, [])
  else
    let vals := ((sel.map fun v => (dec32 v).scale (-x)) ++ List.replicate (128 - sel.length) (FVal.fin false 0 0)).take 128
    let words := (ws ++ List.replicate (128 - ws.length) 0).take 128
    if fmtMx f then
      let bl := ((chunks 32 4 vals).zip (chunks 32 4 words)).map fun q => convBlock f r sat q.2 q.1
      (bl.flatMap Prod.snd, bl.map Prod.fst)
    else ((vals.zip words).map fun q => convElem f r sat q.2 q.1, [])

/-- One scale tile converted (R40 to R42): its rows' selected values, their random words and its index. -/
structure TileOut where
  rows : List (List Nat × List Nat)
  status : StatusRec
deriving DecidableEq, Repr

/-- Convert one scale tile, with the rescale of R41 when it overflows. -/
def convTile (p : EpiParams) (rows : List (List W32 × List Nat)) (tile : Nat) : TileOut :=
  let vs := rows.flatMap Prod.fst
  let ws := rows.flatMap Prod.snd
  let req : Int := (p.sOut : Int) - 127
  let toobig := tileOverflows p.fout p.rnd req ws vs
  let x := if toobig then rescaleExp p.fout vs else req
  let sat := p.sat
  { rows := rows.map fun q => epiEncode p.fout p.rnd sat x q.1 q.2,
    status := StatusRec.of vs p.sOut (if toobig then scaleByte x else p.sOut) toobig (p.tile0 + tile) }

/-- The detections of an epilogue. DESIGN CHOICE (log entry 174): the first of the order malformed, out of bounds, format,
double booking, not ready, read marks is reported. -/
def epiDets (a : Nat) (e : Fin 4) (h : Issue) (p : EpiParams) (s : State) (x : IssueCtx) : List Det :=
  let A := s.accAt a
  let E := A.engAt e
  let ev := e.val
  let segs := match p.compact with
    | some (off, n) => if inTile off (16 * n) then A.segments ev off n else []
    | none => []
  let ranges := decide (p.srcBase ≤ 2047) && decide (1 ≤ p.m ∧ p.m ≤ 2048) && (p.tsmode == 0 || p.tsmode == 2)
    && (p.tsmode != 0 || decide (p.tscale ≤ 255)) && (p.fout != .e8m0) && decide (p.sOut ≤ 254)
    && tileHeight p.tileH && (p.m % p.tileH == 0) && (p.status % 16 == 0) && decide (p.tensorId < 2 ^ 24)
    && (match p.compact with
        | some (_, n) => decide (1 ≤ n ∧ n ≤ 256)
        | none => true)
  let uses := p.op != FusedOp.none
  let tn := p.m * rowBytes p.ft 128
  let bound := detUnless (decide (p.srcBase + p.m ≤ 2048)) 2 (accAddr ev p.srcBase)
    ++ detUnless (inTop p.dst (epiBytes p)) 2 p.dst ++ detUnless (inSp p.status (16 * (p.m / p.tileH))) 2 p.status
    ++ (if uses then detUnless (inSp p.tsrc tn) 2 p.tsrc ++ (if p.tsmode = 0 then [] else detUnless (inTop p.tscale (4 * p.m)) 2 p.tscale)
        else [])
    ++ (match p.compact with
        | some (off, n) => detUnless (inTile off (16 * n)) 2 (tileAddr ev off) ++ detUnless (segsOk p.m segs) 1 0
        | none => [])
  let tags := (List.range p.m).map fun i => SMap.get zeroNat A.rowTags (tagKey ev (p.srcBase + i))
  let fmt := detUnless ((!uses || tModeOk p.ft p.tsmode p.tscale) && tilesOneOwner p.tileH tags) 7 p.srcBase
  let ofs := s.fixedLat x.ctx 0x0103 130
  let book := detIf (decide (x.t < E.epiFree)) 6 0
    ++ (if uses then detIf ((epiPorts p.srcBase p.m x.t (s.epiOfs x.ctx 0x0107 8 1)).any fun u => E.ports.any fun v => portsMeet u v) 6 0 kMeDoubleBookings
        else [])
  let ready := detIf (E.last.any fun l => rowsMeet p.srcBase p.m l.row0 l.rows &&
      decide (x.t < l.start + ofs + (if l.fp16 then l.rows + 126 else 127))) 4 p.srcBase
  let reads := if uses then s.readDets x.ctx a h.stamped p.tsrc tn p.rstamp p.tTensor
      ++ (if p.tsmode = 0 then [] else s.readDets x.ctx a h.stamped p.tscale (4 * p.m) p.rstamp p.tTensor)
    else []
  match detUnless ranges 1 0 ++ bound with
  | d :: r => d :: r
  | [] => fmt ++ book ++ ready ++ reads

/-- The scale tiles of an epilogue: the values v of the selected columns with their random words, converted. -/
def State.epiTiles (s : State) (a c : Nat) (e : Fin 4) (p : EpiParams) : List TileOut :=
  let A := s.accAt a
  let ev := e.val
  let segs := p.compact.map fun q => A.segments ev q.1 q.2
  let rows := (List.range p.m).map fun i =>
    let v := A.epiRow ev p i
    let cols := epiCols segs i
    let t := SMap.get zeroNat A.rowTags (tagKey ev (p.srcBase + i))
    (cols.map fun j => v.getD j 0,
     if p.rnd = .sr then cols.map fun j => s.elemWord c 0 p.tensorId t (p.row0 + i) (p.col0 + j) else cols.map fun _ => 0)
  let ts := chunks p.tileH p.m rows
  (ts.zip (List.range ts.length)).map fun q => convTile p q.1 q.2

/-- The bytes that an epilogue leaves, by address: the output rows, the MX scale plane behind them, the status records. -/
def epiOut (p : EpiParams) (tiles : List TileOut) : List (Nat × List Byte) :=
  let n := rowBytes p.fout 128
  let rows := tiles.flatMap TileOut.rows
  [(p.dst, rows.flatMap fun q => leBytes n (packNat (fmtWidth p.fout) q.1)),
   (p.dst + p.m * n, if fmtMx p.fout then rows.flatMap fun q => q.2.flatMap (leBytes 1) else []),
   (p.status, tiles.flatMap fun q => leBytes 16 q.status.toNat)]
/-- The effect of an epilogue on its engine (R60, R61): the rows of a fused operation hold v, the unit is free at
completion. -/
def Accord.runEpi (A : Accord) (e : Fin 4) (p : EpiParams) (t done wb : Nat) : Accord :=
  let ev := e.val
  let vs := if p.op = .none then [] else (List.range p.m).map fun i => (i, A.epiRow ev p i)
  let acc1 := vs.foldl (fun m q => SMap.setList accDefault m (accKey ev (p.srcBase + q.1) 0) q.2) A.accum
  let E := A.engAt e
  let E1 : Engine :=
    { E with epiFree := done,
             ports := E.ports.filter (portAlive t) ++ if p.op = .none then [] else epiPorts p.srcBase p.m t wb }
  { A with accum := acc1 }.setEng e E1
/-- Free bytes over ranges, from the free values `k` on: what is undefined there (log entry 173). -/
def Accord.blur (A : Accord) (k : Nat) : List (Nat × List Byte) → Accord
  | [] => A
  | (a, d) :: r => ({ A with top := A.top.writeN a (freeBytes k d.length) }).blur (k + d.length) r

/-- The effect of an epilogue (R60 to R63, R113). Until its completion the destination and the records are undefined: free
bytes; at completion they hold the output, with its stamps and tags. NONFINITE_OUT counts the non-finite values v of the
status records (log entry 176). -/
def State.epilogue (s : State) (h : Issue) (e : Fin 4) (p : EpiParams) (x : IssueCtx) : State :=
  let tiles := s.epiTiles h.acc x.ctx e p
  let out := epiOut p tiles
  let done := x.t + 2 * p.m + s.epiOfs x.ctx 0x010B 26 2
  let marks := s.markActs x.ctx h.stamped p.dst (epiBytes p) p.wstamp p.tensorId
    ++ s.markActs x.ctx h.stamped p.status (16 * (p.m / p.tileH)) p.wstamp p.tensorId
  let s1 := s.modAcc h.acc fun A => ((A.runEpi e p x.t done (s.epiOfs x.ctx 0x0107 8 1)).blur s.free out).await done 8
    (out.map (fun q => LandAct.bytes q.1 q.2) ++ marks)
  let s2 := (s1.skipFree (out.map fun q => q.2.length).sum).bump kRescaleEvents (tiles.filter fun q => q.status.rescaled).length
  s2.bump (kMeNonfiniteOut (4 * h.acc + e)) (tiles.map fun q => q.status.nonfinite).sum

/-- EPILOGUE (R60). -/
def execEpilogue (h : Issue) (e : Fin 4) (p : EpiParams) (s : State) : Host.Outcome State Fault Refusal :=
  engineIssue h e.val (unitId 1 (4 * h.acc + e)) (atTop h.acc (epiDets h.acc e h p))
    (atTop h.acc fun s x => s.epilogue h e p x) s

end Sys2Proof.Machine
end

