-- ==== Sys2Proof/Machine/Mgmt.lean ====
section
/-!
DEFINITION. The management target on MP0 and MP1 (R369, R370): I3C common command codes and MCTP control messages. The byte
layouts of their answers are those of MIPI I3C Basic and DSP0236, which the manual names (PRESUMED, log entry 14). An answer
to a control message is held from its command code on: the header byte before it repeats the request's instance.
-/
namespace Sys2Proof.Machine

/-- The target answers only while MP0 and MP1 carry I3C (R369, R388). -/
def onTarget (f : State → State) (s : State) : State := if s.runPins then f s else s
/-- The static address: 0x30 plus the organ position of the strap (R369). -/
def State.staticAddr (s : State) : Nat := (0x30 + bits (s.odGet kStraps) 4 0) % 128
/-- The answer to a directed common command code; only a target with a dynamic address answers one. -/
def ccAnswer (f : State → List Byte) (s : State) : Host.Outcome State Fault Refusal :=
  .next (onTarget (fun t => if t.i3c.dyn.isSome then { t with i3c := { t.i3c with lastOut := f t } } else t) s)
/-- Change the target's registers. -/
def ccSet (f : State → I3c → I3c) (s : State) : Host.Outcome State Fault Refusal :=
  .next (onTarget (fun t => { t with i3c := f t t.i3c }) s)
/-- The assignment of a dynamic address to a target that has none. -/
def takeAddr (v : Nat) (x : I3c) : I3c := if x.dyn.isSome then x else { x with dyn := some v }

/-- RSTDAA: the dynamic address goes. -/
def execRstdaa (s : State) : Host.Outcome State Fault Refusal := ccSet (fun _ x => { x with dyn := none }) s
/-- ENTDAA: the address of the arbitration that this target won. -/
def execEntdaa (addr : BitVec 7) (s : State) : Host.Outcome State Fault Refusal := ccSet (fun _ x => takeAddr addr.toNat x) s
/-- SETDASA. -/
def execSetdasa (addr : BitVec 7) (s : State) : Host.Outcome State Fault Refusal := ccSet (fun _ x => takeAddr addr.toNat x) s
/-- SETAASA. -/
def execSetaasa (s : State) : Host.Outcome State Fault Refusal := ccSet (fun t x => takeAddr t.staticAddr x) s
/-- ENEC: bit 0 enables in-band interrupts. -/
def execEnec (events : Byte) (s : State) : Host.Outcome State Fault Refusal :=
  ccSet (fun _ x => { x with ibiEnabled := x.ibiEnabled || bit events.toNat 0 }) s
/-- DISEC: bit 0 disables in-band interrupts. -/
def execDisec (events : Byte) (s : State) : Host.Outcome State Fault Refusal :=
  ccSet (fun _ x => { x with ibiEnabled := x.ibiEnabled && !bit events.toNat 0 }) s
/-- RSTACT: action 0, the only one, is no reset on the target reset pattern; nothing changes. -/
def execRstact (action : Byte) (s : State) : Host.Outcome State Fault Refusal :=
  .next (onTarget (fun t => { t with i3c := { t.i3c with lastOut := if action = 0 then [0] else [] } }) s)
/-- A length as SETMWL and SETMRL set it: at most 256 B (R370). -/
def lengthOf (v : BitVec 16) : Nat := min 256 v.toNat
/-- SETMWL. -/
def execSetmwl (v : BitVec 16) (s : State) : Host.Outcome State Fault Refusal := ccSet (fun _ x => { x with mwl := lengthOf v }) s
/-- GETMWL. -/
def execGetmwl (s : State) : Host.Outcome State Fault Refusal := ccAnswer (fun t => beBytes 2 t.i3c.mwl) s
/-- SETMRL. -/
def execSetmrl (v : BitVec 16) (s : State) : Host.Outcome State Fault Refusal := ccSet (fun _ x => { x with mrl := lengthOf v }) s
/-- GETMRL: the length and the IBI payload of 5 bytes (R371). -/
def execGetmrl (s : State) : Host.Outcome State Fault Refusal := ccAnswer (fun t => beBytes 2 t.i3c.mrl ++ [5]) s
/-- GETPID: I3C_PID, highest byte first. -/
def execGetpid (s : State) : Host.Outcome State Fault Refusal := ccAnswer (fun t => beBytes 6 (t.odValue 0x1000 0x08)) s
/-- GETBCR: IBI capability with payload. -/
def execGetbcr (s : State) : Host.Outcome State Fault Refusal := ccAnswer (fun _ => [0x06]) s
/-- GETDCR: 0x00. -/
def execGetdcr (s : State) : Host.Outcome State Fault Refusal := ccAnswer (fun _ => [0x00]) s
/-- GETSTATUS: the manual gives the status no contents; its two bytes are free. -/
def execGetstatus (s : State) : Host.Outcome State Fault Refusal :=
  .next (onTarget (fun t => if t.i3c.dyn.isSome then
    let (n, u) := t.drawNat
    { u with i3c := { u.i3c with lastOut := beBytes 2 n } } else t) s)
/-- GETMXDS: SDR up to 12.5 MHz, no limit below it. -/
def execGetmxds (s : State) : Host.Outcome State Fault Refusal := ccAnswer (fun _ => [0x00, 0x00]) s

/-- The answer to an MCTP control message: command code, completion code, data. -/
def ctlAnswer (cmd : Byte) (f : State → List Byte) (s : State) : State :=
  { s with i3c := { s.i3c with mctpOut := s.i3c.mctpOut ++ [cmd :: f s] } }
/-- An EID that can be assigned: neither the null nor the broadcast EID. -/
def eidOk (eid : Byte) : Bool := eid != 0x00 && eid != 0xFF
/-- SET_ENDPOINT_ID (R370): the EID is reported in MCTP_EID; one that cannot be assigned is answered as invalid data. -/
def execSetEndpointId (eid : Byte) (s : State) : Host.Outcome State Fault Refusal :=
  .next (onTarget (fun t =>
    if eidOk eid then ctlAnswer 0x01 (fun _ => [0x00, 0x00, eid, 0x00]) (t.odSet kMctpEid eid.toNat)
    else ctlAnswer 0x01 (fun _ => [0x02]) t) s)
/-- GET_ENDPOINT_ID (R370). -/
def execGetEndpointId (s : State) : Host.Outcome State Fault Refusal :=
  .next (onTarget (ctlAnswer 0x02 fun t => [0x00] ++ leBytes 1 (t.odGet kMctpEid) ++ [0x00, 0x00]) s)
/-- GET_MCTP_VERSION_SUPPORT (R370). -/
def execGetMctpVersionSupport (s : State) : Host.Outcome State Fault Refusal :=
  .next (onTarget (ctlAnswer 0x04 fun _ => 0x00 :: Config.mctpVersions) s)
/-- GET_MESSAGE_TYPE_SUPPORT (R370): one type besides control messages, 0x7F. -/
def execGetMessageTypeSupport (s : State) : Host.Outcome State Fault Refusal :=
  .next (onTarget (ctlAnswer 0x05 fun _ => [0x00, 0x01, 0x7F]) s)
/-- GET_VENDOR_DEFINED_MSG_SUPPORT (R370): the last set, an IANA enterprise number, the number of OD 0x1000.07. -/
def execGetVendorDefinedMsgSupport (s : State) : Host.Outcome State Fault Refusal :=
  .next (onTarget (ctlAnswer 0x06 fun t =>
    [0x00, 0xFF, 0x01] ++ beBytes 4 (t.odGet kIanaPen) ++ Config.mctpVendorVersion) s)

end Sys2Proof.Machine
end

