-- ==== Sys2Proof/Machine/Move.lean ====
section
/-!
DEFINITION. MOVE of a DMA channel (R137, R139, R246, Table 6-9): copies between the spaces, and packets on a flow.
-/
namespace Sys2Proof.Machine

/-- A signed 24-bit step in 64 B units. -/
def moveStep (v hi lo : Nat) : Int := 64 * signedOf 24 (bits v hi lo)
/-- An address of a MOVE: base plus steps, modulo 2^44 (DESIGN CHOICE, log entry 183). -/
def moveAddr (base : Nat) (i0 i1 : Nat) (s0 s1 : Int) : Nat := (((base : Int) + i0 * s0 + i1 * s1) % (2 ^ 44 : Int)).toNat
/-- The bytes of a MOVE. -/
def moveLen (v : Nat) : Nat := (bits v 155 140 + 1) * 64
/-- SSPACE. -/
def moveSrcSpace (v : Nat) : Nat := bits v 251 249
/-- DSPACE. -/
def moveDstSpace (v : Nat) : Nat := bits v 248 246
/-- The source address. -/
def moveSrc (x : Channel) (v : Nat) : Nat := moveAddr (bits v 243 200) x.i0 x.i1 (moveStep v 139 116) (moveStep v 91 68)
/-- The destination address. -/
def moveDst (x : Channel) (v : Nat) : Nat := moveAddr (bits v 199 156) x.i0 x.i1 (moveStep v 115 92) (moveStep v 67 44)
/-- The flow of a MOVE to the fabric. -/
def moveFlow (v : Nat) : Nat := bits v 199 180
/-- A MOVE is malformed (R137, Table 6-9). -/
def moveMalformed (x : Channel) (v : Nat) : Bool :=
  decide (3 ≤ moveSrcSpace v ∨ 4 ≤ moveDstSpace v ∨ bits v 243 200 % 64 ≠ 0)
    || (moveDstSpace v != 3 && decide (bits v 199 156 % 64 ≠ 0))
    || (moveSrcSpace v == moveDstSpace v
        && decide (moveSrc x v < moveDst x v + moveLen v ∧ moveDst x v < moveSrc x v + moveLen v))
/-- A MOVE to the fabric is malformed (R246). -/
def State.fabMalformed (s : State) (ctx v : Nat) : Bool :=
  let e := s.flowEnt (moveFlow v)
  moveFlow v == 0 || !flowSendEn e || flowSend e != ctx || bits v 115 92 != 0 || bits v 67 44 != 0

/-- A range of a space as a MOVE may use it, with its physical address: the detection where it may not. -/
def State.moveRange (s : State) (ctx sp addr n : Nat) (write : Bool) : Except (Nat × Nat) Nat :=
  if sp = 0 then (if inTop addr n then .ok addr else .error (2, addr))
  else match s.window ctx (sp == 2) addr n write with
    | some pa => .ok pa
    | none => .error (3, windowVal (sp == 2) addr)

/-- The largest payload of a packet of a flow in a context's run (R246, Table 11-1). -/
def State.sendMax (s : State) (ctx f : Nat) : Nat :=
  if flowClass (s.flowEnt f) = 8 then
    let links := match (s.ctxAt ctx).variant with
      | some v => v.slots.filterMap fun q => match q.1 with
          | .port p => some p
          | _ => none
      | none => []
    match s.lowRate links with
    | 200 => 3072
    | 100 => 1536
    | 50 => 768
    | _ => 0
  else 4096
/-- Send the packets of a MOVE: each at the flow's cursor, which advances modulo the region's size; the last carries
LAST. What is a node of the canonical tree travels as TREE_REDUCE with its AUX (R273, log entry 227), all else as WRITE. The sending
digest folds the payloads (R271). -/
def State.sendMove (s : State) (ctx f : Nat) : List (List Byte) → State
  | [] => s
  | bs :: r =>
    let e := s.flowEnt f
    let cur := (s.flowAt f).cursor
    let s1 := match Config.nodeAux ((s.ctxAt ctx).prog.map Binary.imageDigest |>.getD 0) f cur with
      | some aux => s.sendFlow f 7 (flowClass e) cur (aux % 2 ^ 32) bs r.isEmpty false
      | none => s.sendFlow f 1 (flowClass e) cur 0 bs r.isEmpty false
    let s2 := s1.setFlow f { s1.flowAt f with cursor := (cur + bs.length) % flowSize e }
    (if flowEpchk e then s2.foldFlow ctx f true bs else s2).sendMove ctx f r

/-- The bound on a channel's outstanding writes: BASE_WR, BASE_NARROW, BASE_FIRST and D2D together (R140). -/
def drainBound : Nat := 13888
/-- The cycle in which beat `k` of a copy that starts in cycle `start` lands, becomes visible or has been handed to its port:
free within the bound (log entry 185). -/
def State.beatLands (s : State) (start k : Nat) : Nat := start + k + 1 + Config.freeNat (s.free + k) % (drainBound + 1)
/-- The beats of 256 B that write the top tier from cycle `start` on; stamp and tag follow the last byte (R113, R114). -/
def State.moveBeats (s : State) (ctx a : Nat) (c : Fin 8) (start v pa : Nat) (bs : List Byte) (last : Nat) : State :=
  let beats := (chunks 256 bs.length bs).zipIdx
  let marks := s.markActs ctx (bit v 35) pa bs.length (BitVec.ofNat 8 (bits v 43 36)) (bits v 7 0)
  s.modAcc a fun A =>
    (beats.foldl (fun (B : Accord) q => B.await (s.beatLands start q.2) c [.bytes (pa + 256 * q.2) q.1]) A).await last c marks
/-- Deliver the bytes of a MOVE that starts in cycle `start`: whether it was performed, and the cycle from which none of its
writes is outstanding. `pa` is the physical destination. Tier writes and packets are performed at issue and become visible, or
are handed over, later (log entry 185). -/
def State.moveWrite (s : State) (ctx a : Nat) (c : Fin 8) (start v pa : Nat) (bs : List Byte) : State × Bool × Nat :=
  let n := (bs.length + 255) / 256
  let last := ((List.range n).map (s.beatLands start)).foldl max start
  let s0 := s.skipFree n
  match moveDstSpace v with
  | 0 => ((s.moveBeats ctx a c start v pa bs last).skipFree n, true, last)
  | 3 =>
    let m := s.sendMax ctx (moveFlow v)
    (s0.sendMove ctx (moveFlow v) (if m = 0 then [] else chunks m bs.length bs), true, last)
  | d =>
    let r := s0.tierStore (d == 2) pa bs ⟨some ctx, chanId a c, instrWord 2 (s.chanPc a c)⟩ []
    (r.1, r.2, last)
/-- Read the bytes of a MOVE: none where the read ended the context (R160, R161). -/
def State.moveRead (s : State) (ctx a : Nat) (c : Fin 8) (v pa : Nat) (obs : List ReadObs) : State × Option (List Byte) :=
  if moveSrcSpace v = 0 then (s, some ((s.accAt a).top.readN pa (moveLen v)))
  else s.tierFetch (moveSrcSpace v == 2) pa (moveLen v) ⟨some ctx, chanId a c, instrWord 2 (s.chanPc a c)⟩ obs

/-- A MOVE that has passed every check: the copy, the bytes counted, the cycle in which its last request has issued, and what is
outstanding until a SIGNAL or END. -/
def State.moveRun (s : State) (ctx a : Nat) (c : Fin 8) (t v src dst : Nat) (obs : List ReadObs) : State :=
  match s.moveRead ctx a c v src obs with
  | (s1, none) => s1
  | (s1, some bs) =>
    let start := max t (max (s.chanAt a c).moveFree (s.chanAt a c).firstAt)
    let r := s1.moveWrite ctx a c start v dst bs
    if !r.2.1 then r.1
    else
      let dest := (moveDstSpace v, if moveDstSpace v = 3 then moveFlow v else dst, bs.length)
      let s3 := (r.1.bump (kDmaBytes a c) bs.length).modChan a c fun x => { x with
        moveFree := start + (bs.length + 255) / 256, sinceSignal := x.sinceSignal ++ [dest],
        outstanding := (x.outstanding.filter fun l => decide (t < l)) ++ [r.2.2] }
      s3.chanNext ctx a c

/-- A MOVE that the channel starts: its first detection, or the copy. -/
def State.move (s : State) (ctx a : Nat) (c : Fin 8) (t v : Nat) (obs : List ReadObs) : State :=
  let x := s.chanAt a c
  let n := moveLen v
  if moveMalformed x v then s.chanFault ctx a c 1 0
  else if moveDstSpace v = 3 ∧ s.fabMalformed ctx v then s.chanFault ctx a c 0x10 (moveFlow v)
  else match s.moveRange ctx (moveSrcSpace v) (moveSrc x v) n false with
    | .error e => s.chanFault ctx a c e.1 e.2
    | .ok src =>
      match (if moveDstSpace v = 3 then .ok 0 else s.moveRange ctx (moveDstSpace v) (moveDst x v) n true : Except (Nat × Nat) Nat) with
      | .error e => s.chanFault ctx a c e.1 e.2
      | .ok dst =>
        let own := if moveSrcSpace v = 0 then s.readDets ctx a false src n 0 (bits v 7 0) else []
        match own with
        | d :: _ => (s.countDet d).chanFault ctx a c d.code d.val
        | [] => s.moveRun ctx a c t v src dst obs

/-- MOVE (R137, R139, R246): reached under the pause condition it is not started and the channel is PACED. `obs` is what the
memory controller sees of the code words of a source in a tier. -/
def execMove (acc : Fin 16) (c : Fin 8) (cyc : Nat) (up : Upset) (obs : List ReadObs) (s : State) :
    Host.Outcome State Fault Refusal :=
  chanStep 1 acc c cyc up (fun s ctx t v =>
    if s.pauseCond acc c t then s.setChanState acc c .paced else s.move ctx acc c t v obs) s

end Sys2Proof.Machine
end

