-- ==== Sys2Proof/Machine/Start.lean ====
section
/-!
DEFINITION. Reset, straps, phases and start-up (R349 to R353, R364, R382 to R387, R397, R398), and RESTART (R351).
-/
namespace Sys2Proof.Machine

/-! ### Reset (R364, R387, R393) -/

/-- An entry whose value is set at production, or tells what is populated. -/
def productionKey (k : Nat) : Bool :=
  let i := k / 256
  (i == 0x1000 && k != kMctpEid) || i == 0x1001 || i == 0x3101
    || [kMeCount, kMePresent, kAccReadLat, kVeCount, kVePresent, kPcCount, kPcPresent, kMisa, kVlen, kHeartPositions,
        kHeartCapacity, kBaseChannels, kBaseCapacity, kBaseConfigError, kIdRsaPub, kIdSlhPub, kIdCerts, kRootDigest, 0xA00005,
        0x43000A].contains k
/-- The sticky entries (R364). -/
def stickyKey (k : Nat) : Bool := [kHeartRate, kBaseRateMax, kPcieWidthMax, kPcieRateMax].contains k
/-- The heads of the rings that a warm start keeps (R364). -/
def ringHeadKey (k : Nat) : Bool := [kBlotterHead, kEventHead, kProvHead, kLogHead].contains k

/-- RESET_N falls, or with it PWRGOOD (R387): the straps phase. Flash, fuses and what is set at production stay; nothing else on
the device survives PWRGOOD falling (R393). -/
def State.chipReset (s : State) (power : Bool) : State :=
  let kept := s.od.filter fun e => productionKey e.1 || (!power && (stickyKey e.1 || ringHeadKey e.1))
  let z := State.reset
  let mem := fun (m : Memory) => if power then ([] : Memory) else m
  { z with
    pending := s.pending, free := s.free, od := SMap.set odDefault kept kPhase 0,
    heart := mem s.heart, base := mem s.base, baseValid := if power then [] else s.baseValid,
    sec := { z.sec with banks := s.sec.banks },
    fw := { z.fw with
      flash := s.fw.flash, mapImage := if power then [] else s.fw.mapImage, heartRate := if power then z.fw.heartRate else s.fw.heartRate,
      persist := if power then z.fw.persist else s.fw.persist, selfRefresh := !power && s.fw.selfRefresh },
    pins := { z.pins with driven := false, strapped := false } }
/-- RESET_ASSERT. -/
def execResetAssert (pwrgoodFalls : Bool) (s : State) : Host.Outcome State Fault Refusal := .next (s.chipReset pwrgoodFalls)

/-! ### RESTART (R351) -/

/-- A warm restart may begin: only a cold start returns a chip that is offline to service (R302). -/
def State.mayRestartWarm (s : State) : Bool :=
  s.allFree && s.odGet kChipState != 1 && (List.range 16).all fun n => s.wsState n != 1 && s.wsState n != 3 && s.wsState n != 5
/-- The heart map as its image holds it: the granules of the reserved region are written (R149, R157). -/
def State.heartMap (s : State) : List (Nat × Bool) :=
  (List.range 256).foldl (fun m i => SMap.set falseAt m (granOf s.resBase + i) true) s.heartValid
/-- What is done before a warm restart: the heart map's image, the persistent area with WARM_INTENT, and self-refresh. -/
def State.saveWarm (s : State) : State :=
  { s with fw := { s.fw with
    mapImage := s.heartMap, selfRefresh := true,
    persist := { valid := true, warmIntent := true, testLast := (List.range 16).map fun a => s.odGet (kTestLast a), passSeq := s.jobs.passSeq,
                 wsets := (List.range 16).map fun n => (s.odGet (kWsetCfg n), s.odGet (kWsetState n)),
                 phy := s.fw.phy, ports := (List.range 16).map fun p => (s.odGet (kPortState p), (s.portAt p).cfg) } } }
/-- A RESTART command: the reset follows at once, and no response is written, since the rings return to zero. -/
def State.restartCmd (s : State) (r : Nat) (e : List Byte) : State :=
  if !bit (field e 16 8) 0 then
    { s with fw := { s.fw with persist := { s.fw.persist with warmIntent := false } } }.chipReset false
  else if s.mayRestartWarm then s.saveWarm.chipReset false
  else s.fwRespond r 2 0 0
/-- RESTART. -/
def execRestart (r : Fin 8) (env : FwEnv) (s : State) : Host.Outcome State Fault Refusal :=
  .next (whenLive s (fwServe r env (fwWants 5) (fun t e => t.restartCmd r e) s))

/-! ### Straps and phases (R382 to R387, R397, R398) -/

/-- D2D_TRAINING (R398): a failure enters DUMP with the identity frame alone. -/
def execD2dTraining (ok : Bool) (s : State) : Host.Outcome State Fault Refusal :=
  .next (if s.odGet kPhase ≠ 0 ∨ s.pins.strapped then s
    else if ok then s
    else { s with pins := { s.pins with d2dOk := false } }.enterDump true true 0)
/-- The straps make the boot ROM start no image (R384). -/
def State.badStraps (s : State) (v : Nat) : Bool :=
  bits v 7 6 == 3 || bits v 15 11 != 0 || bits v 9 8 != (if s.reduced then 1 else 0)
/-- What the latched straps set (R384, R364). -/
def State.setStraps (s : State) (v : Nat) (glitch : Bool) : State :=
  let s1 := ((((s.odSet kStraps v).odSet kStrapGlitch (b2n glitch)).odSet kBridgeEnabled (bits v 5 5)).odSet kSyncRole (bits v 5 5)).odSet
    kChipId (bits v 4 0)
  let s2 := (s1.odSetBits kI3cPid 15 12 (bits v 3 0)).odSet kHeartPositions (if bits v 9 8 = 0 then 0xFF else 0x77)
  { s2 with pins := { s2.pins with strapped := true, glitchRecord := glitch } }
/-- STRAP_LATCH (R384, R385, R397). -/
def State.strapLatch (s : State) (v : Nat) (glitch testEn : Bool) : State :=
  if s.odGet kPhase ≠ 0 ∨ s.pins.strapped ∨ s.dumping then s
  else
    let s1 := s.setStraps v glitch
    if s1.badStraps v then s1.enterDump true true 0
    else
      let s2 := s1.changePhase 1
      if testEn ∨ bits v 7 6 = 2 then { s2 with sec := { s2.sec with locked := true } }.odSet kTestMode 1 else s2
/-- STRAP_LATCH. -/
def execStrapLatch (straps : BitVec 16) (glitch testEn : Bool) (s : State) : Host.Outcome State Fault Refusal :=
  .next (s.strapLatch straps.toNat glitch testEn)
/-- PHASE_SWITCH (R387): 48 tk after the trigger, PHASE changes. -/
def execPhaseSwitch (s : State) : Host.Outcome State Fault Refusal :=
  .next (match s.pins.change with
    | some (p, false) => { s with pins := { s.pins with change := some (p, true) } }.odSet kPhase p
    | _ => s)
/-- PHASE_DRIVE (R387): 523 tk after the trigger, the outputs of the new phase are driven. -/
def execPhaseDrive (s : State) : Host.Outcome State Fault Refusal :=
  .next (match s.pins.change with
    | some (_, true) => { s with pins := { s.pins with change := none, driven := true } }
    | _ => s)

/-! ### Choosing a start (R349, R353) -/

/-- The status record that a start uses: the copy in force, or zeros. -/
def State.bootRecord (s : State) : List Byte :=
  match s.copyNow with
  | some i => s.copyBytes i
  | none => List.replicate 16384 0
/-- The failure counters with the previous attempt settled: warm, cold, golden. -/
def settled (rec_ : List Byte) : Nat × Nat × Nat :=
  let a := field rec_ 9 1
  let up := fun (k v : Nat) => if bit a 7 && bits a 1 0 == k then min 255 (v + 1) else v
  (up 1 (field rec_ 10 1), up 0 (field rec_ 11 1), up 2 (field rec_ 12 1))
/-- How a start begins: kind of the attempt (0 cold, 1 warm, 2 golden) and whether from the golden image. -/
def State.chooseStart (s : State) (rec_ : List Byte) (persistentOk : Bool) : Option (Nat × Bool) :=
  let (w, c, g) := settled rec_
  if s.odBits kStraps 7 6 = 1 then some (2, true)
  else if !s.odBit kStraps 10 && persistentOk && s.fw.persist.valid && s.fw.persist.warmIntent && decide (w < 3) && s.copyNow.isSome then
    some (1, field rec_ 13 1 == 1)
  else if c < 3 then some (0, false)
  else if g < 3 then some (2, true)
  else none

/-- The unit ids that a record fences, and the granules. -/
def recUnits (rec_ : List Byte) : List Nat := ((List.range 256).map fun i => field rec_ (4096 + 2 * i) 2).filter fun u => u != 0xFFFF
/-- The fenced granules that a status record names, with their tier (Table 15-10). -/
def recGranules (rec_ : List Byte) : List (Bool × Nat) :=
  (((List.range 2047).map fun i => field rec_ (8192 + 4 * i) 4).filter fun v => v != 0xFFFFFFFF).map fun v => (bit v 31, bits v 25 0)
/-- What the boot ROM takes from the status record (Table 15-10). The record of zeros, used when neither copy is valid, fences nothing
(DEDUCED, log entry 236). -/
def State.readRecord (s : State) (rec_ : List Byte) : State :=
  let (w, c, g) := settled rec_
  let s1 := { s with fw := { s.fw with recSeq := field rec_ 4 4, imageLast := field rec_ 13 1, sdcFirst := field rec_ 24 8,
                                       recordRead := rec_ },
                     sec := { s.sec with counter := field rec_ 32 8 },
                     unitFences := if s.copyNow.isSome then recUnits rec_ else [],
                     granFences := if s.copyNow.isSome then recGranules rec_ else [] }
  ((((s1.odSetBits kFwSlots 1 1 (field rec_ 8 1)).odSet kBootCounters (g * 2 ^ 16 + c * 2 ^ 8 + w)).odSet kSdcCount
    (field rec_ 16 1)).odSet kKeyslots (field rec_ 64 3584)).odSet kHeartFencedSlices (field rec_ 4608 4)
/-- The signature over the record's key slots holds. -/
def slotsSigned (rec_ : List Byte) : Bool := rsaVerify idModulus 65537 ((rec_.drop 32).take 3616) ((rec_.drop 3648).take 384)
/-- Slot 0 against the fuses: it matches the highest bank, or there is nothing to match. -/
def State.slot0Good (s : State) : Bool :=
  slotEmpty (s.keySlot 0) || s.sec.banks.getLast? == some (beNat (sha3 (s.keySlot 0)))
/-- Slot 0 matches the bank below the highest. -/
def State.slot0Old (s : State) : Bool :=
  decide (2 ≤ s.sec.banks.length) && s.sec.banks[s.sec.banks.length - 2]? == some (beNat (sha3 (s.keySlot 0)))
/-- The key slots that survive the checks of a start (R321): all empty where their signature fails; slot 0 against the fuses. -/
def State.checkKeys (s : State) (rec_ : List Byte) : State :=
  let s1 := if slotsSigned rec_ then s else s.odSet kKeyslots 0
  if s1.slot0Good then s1
  else if s1.slot0Old then s1.odSet kKeyslotStatus 7
  else s1.odSetBits kKeyslots 3583 0 0
/-- The events of slots that then read as empty (Table 14-6). -/
def State.keyEvents (s : State) (rec_ : List Byte) : State :=
  let kept := slotsSigned rec_
  let s0 := s.odSet kKeyslots (if kept then field rec_ 64 3584 else 0)
  let s1 := if kept || field rec_ 64 3584 == 0 then s else s.event .sec 2
  if s0.slot0Good || s0.slot0Old then s1 else s1.event .sec 2
/-- The fences of the status record are applied (R305, R350 step 13); a fenced base channel or bridge keeps the chip offline. -/
def State.applyFences (s : State) : State :=
  let s1 := s.unitFences.foldl State.markFenced s
  if s.unitFences.any fun u => u / 1024 == 8 || u / 1024 == 10 then
    { s1 with pins := { s1.pins with faultN := true } }.odSet kChipState 1
  else s1

/-! ### Running the steps (Table 15-12) -/

/-- A failed start resets the chip; the attempt stays open (R352). -/
def State.failStart (s : State) : State := s.chipReset false
/-- Which image a start enters: 0 slot A, 1 slot B, 2 golden. -/
def State.imageNo (s : State) (golden : Bool) : Nat := if golden then 2 else s.activeSlot
/-- Open the attempt in flash (R353). -/
def State.openAttempt (s : State) (kind : Nat) : State := { s with fw := { s.fw with attempt := 128 + kind } }.writeStatus
/-- Trace points of start-up steps: each began and ended (Table 15-8). -/
def State.traceSteps (s : State) (l : List Nat) : State := l.foldl (fun t k => (t.trace (0x0100 + k)).trace (0x0180 + k)) s
/-- Steps 3 to 5: the image in SRAM slot 0, Tuimeat's tasks, the rest of the SRAM zero but for the persistent area of a warm start. The
rings of a cold start begin at zero. -/
def State.enterImage (s : State) (image : Nat) (warm : Bool) : State :=
  let h := s.flashGet (imageAt image) 128
  let bs := s.flashGet (imageAt image) (128 + imgBody h)
  let s1 := { s with
    od := if warm then s.od else s.od.filter fun e => !ringHeadKey e.1,
    fw := { s.fw with sram := Memory.writeN [] 0 bs, persist := if warm then s.fw.persist else Persist.reset } }
  ((((s1.odSet kFwVersion (field h 8 4)).odSet kFwImage (s1.slotHash 0)).odSet kPhase 2).startTasks).traceSteps [4, 5]
/-- Steps 6 to 12: a cold start trains the PHYs and begins with empty memories, zeroed maps and rings; a warm start restores the
calibration, leaves self-refresh, keeps the memories and the rings of R339, restores the heart map and zeroes the rest of the firmware
part. -/
def State.startMemories (s : State) (warm : Bool) : State :=
  if warm then
    { s with heartValid := s.fw.mapImage, heart := s.heart.clearRange (s.fwBase + 0x2E0000) (0x600000 - 0x2E0000),
             blot := { s.blot with last := s.odGet kBlotterHead }, fw := { s.fw with phy := s.fw.persist.phy, selfRefresh := false } }
  else
    { s.skipFree 24 with
      heart := [], base := [], heartValid := [], baseValid := [],
      fw := { s.fw with heartRate := s.odGet kHeartRate, phy := (freeWords s.free 24).map BitVec.toNat, selfRefresh := false } }

/-- The rates of Table 7-2 for a DIMM type, falling. -/
def dimmRates (kind : Nat) : List Nat := if kind = 1 then [6400, 5600, 4800] else if kind = 2 then [8800, 8000] else []
/-- The rate that a channel with a DIMM runs at (R145). -/
def dimmRate (top : Nat) (d : Dimm) : Option Nat := (dimmRates d.kind).find? fun r => d.rates.contains r && decide (r ≤ top)
/-- The channels that hold a DIMM. -/
def populated (l : List (Option Dimm)) : List Nat := (List.range 16).filter fun c => (l.getD c none).isSome
/-- The lowest reason of R145 that applies to what detection finds; 0 for none. -/
def dimmReason (l : List (Option Dimm)) (top : Nat) : Nat :=
  let ds := (l.take 16).filterMap id
  let cap := (ds.head?.map Dimm.capacity).getD 0
  if populated l ≠ List.range 16 ∧ populated l ≠ [0, 1, 2, 3, 8, 9, 10, 11] then 1
  else if ds.any fun d => d.capacity != cap || !([32, 64, 96, 128, 192, 256].contains d.capacity) then 2
  else if ds.any fun d => !d.x4Ecc then 3
  else if ds.any fun d => !(d.kind == 1 || d.kind == 2) || !d.stacked || !(d.ranks == 1 || d.ranks == 2) then 4
  else if ds.any fun d => (dimmRate top d).isNone then 5 else 0
/-- BASE_DIMM of a channel; 0 where no DIMM is, and a rate of 0 where none is supported (DESIGN CHOICE, log entry 209). -/
def dimmWord (top : Nat) : Option Dimm → Nat
  | some d => d.kind % 4 * 2 ^ 30 + (d.ranks - 1) % 4 * 2 ^ 28 + (dimmRate top d).getD 0 * 2 ^ 14 + d.capacity % 2 ^ 14
  | none => 0
/-- DIMM detection of a cold start (step 9, R145): a configuration that breaks a condition leaves the base tier no capacity. -/
def State.detectDimms (s : State) (l : List (Option Dimm)) : State :=
  let top := s.odGet kBaseRateMax
  let n := (populated l).length
  let cap := ((l.take 16).filterMap id |>.head?.map Dimm.capacity).getD 0
  let s1 := (List.range 16).foldl (fun t c => t.odSet (kBaseDimm c) (dimmWord top (l.getD c none))) s
  ((s1.odSet kBaseChannels ((populated l).foldl setBit 0)).odSet kBaseConfigError (dimmReason l top)).odSet kBaseCapacity
    (if dimmReason l top = 0 then n * cap * 2 ^ 30 else 0)

/-- The accords that step 14 tests. -/
def State.startTests (s : State) (warm : Bool) : List Nat :=
  (List.range 16).filter fun a => s.hasAccord a && !s.accordFenced a
    && (!warm || decide (s.odGet (kTestLast a) + s.odGet kTestInterval ≤ s.g))
/-- TEST_LAST of every accord with the record of that test, from the persistent area of a warm start. -/
def State.restoreTests (s : State) (warm : Bool) : State :=
  if warm then (List.range 16).foldl (fun t a => t.odSet (kTestLast a) (s.fw.persist.testLast.getD a 0))
    { s with jobs := { s.jobs with passSeq := s.fw.persist.passSeq } }
  else s
/-- Step 14. -/
def State.runStartTests (s : State) (warm : Bool) (masks : List Nat) : State :=
  ((s.restoreTests warm).startTests warm).zipIdx.foldl (fun t e => (t.trace 0x0700).testEnd e.1 (masks.getD e.2 0)) (s.restoreTests warm)
/-- The loop-backs of steps 7 and 10: every populated channel of the tier in both modes of Table 7-8, with the mismatches given. -/
def State.startLoops (s : State) (base : Bool) (errors : List Nat) : State :=
  let chans := (List.range (if base then 16 else 256)).filter (s.chanOk base)
  let l := chans.flatMap fun c => (if base then [3, 4] else [1, 2]).map fun m => c * 2 ^ 16 + m
  l.zipIdx.foldl (fun t e => (t.odSet kMemLoopbackCtrl (2 ^ 30 + e.1)).loopDone kMemLoopbackCtrl kMemLoopbackErrors 65536 (errors.getD e.2 0)) s
/-- The ports that the endpoint takes on a bridge chip: 0 to 3, or 0 and 1 at width x8 (R237). -/
def State.pciePorts (s : State) (width : Nat) : List Nat :=
  if s.isBridge then List.range (if min width (s.odGet kPcieWidthMax) ≤ 8 then 2 else 4) else []
/-- Step 16 at a port: full training, or, where a warm start finds the link held by its partner, the echo alone, with the PORT_CFG that was
in force. -/
def State.startPort (s : State) (warm : Bool) (p : Nat) (e : PortStart) : State :=
  let saved := s.fw.persist.ports.getD p (0, 0)
  if warm ∧ e.held ∧ e.ok ∧ saved.1 = 2 ∧ s.odGet (kPortState p) = 0 then s.linkUp p saved.2 (e.flight % 65536)
  else s.train p e.ok (e.flight % 65536)
/-- Step 16. -/
def State.startPorts (s : State) (warm : Bool) (width : Nat) (l : List PortStart) : State :=
  ((List.range 16).filter fun p => !(s.pciePorts width).contains p).foldl
    (fun t p => t.startPort warm p (l.getD p ⟨false, false, 0⟩)) s
/-- Step 17, on the bridge chip: the endpoint takes its ports, and PCIE_LINK shows what was negotiated within the limits. -/
def State.startPcie (s : State) (width rate : Nat) : State :=
  if s.isBridge then
    let w := min width (s.odGet kPcieWidthMax)
    let s1 := (s.pciePorts width).foldl
      (fun t p => if t.odGet (kPortState p) = 4 then t else t.odSet (kPortState p) 5) s
    s1.odSet kPcieLink (w % 256 * 256 + min rate (s1.odGet kPcieRateMax) % 256)
  else s
/-- Step 18: G is acquired from a beacon, once (R218), and with it the hops to the grandmaster (R217): its stamp in ec, the
grandmaster's chip id and the sender's hops. -/
def State.startSync (s : State) (b : Option (Nat × Nat × Nat)) : State :=
  match b with
  | some (t, master, hops) => if s.odGet kSyncRole = 2 then s else s.acquire t master hops
  | none => s
/-- A layer read back through the sillage engine: its digest (R265, R268). -/
def State.layerMatches (s : State) (m : List Byte) (at_ i : Nat) : Bool :=
  let l := manLayer m i
  closeFold (manKey m) l.tile (l.size / l.tile) (foldAt (manKey m) l.tile 0 (blocks (s.tierBytes false (at_ + l.off) l.size)) 0) == l.sil
/-- A recorded set at a warm start (R351): it stays ACTIVE if every layer matches SILLAGE in its manifest area, and is EMPTY else, with its
record. `read` tells that the reads deliver data. -/
def State.keepSet (s : State) (n cfg st : Nat) (read : Bool) : State :=
  let s1 := s.odSet (kWsetCfg n) cfg
  let m := s1.tierBytes false (bits cfg 255 192) (128 + 96 * 4096)
  if read && (List.range (manLayers m)).all (s1.layerMatches m (s1.wsCfg n 0)) then
    let s2 := (s1.odSet (kWsetState n) (setBits (setBits st 7 0 2) 191 128 0)).modWs n fun _ => { WeightSet.reset with active := m.take (manLen m) }
    (List.range (manLayers m)).foldl (fun t i => t.setLayerSt n i 2) s2
  else
    (s1.emptySet n).blotAdd (s1.mkRec 1 0 0 0 (unitId 12 1) none none 0 0 [])
/-- Step 19. -/
def State.startSets (s : State) (warm : Bool) (reads : List Bool) : State :=
  if warm then
    let l := s.fw.persist.wsets.zipIdx.filter fun e => bits e.1.2 7 0 == 2 || bits e.1.2 7 0 == 4
    l.zipIdx.foldl (fun t e => t.keepSet e.1.2 e.1.1.1 e.1.1.2 (reads.getD e.2 false)) s
  else s
/-- Step 20: the attempt is closed and the counters follow the kind (R353). -/
def State.closeAttempt (s : State) (kind : Nat) (golden : Bool) : State :=
  let s1 := s.odSetBits kBootCounters 7 0 0
  let s2 := if kind = 2 then s1.odSetBits kBootCounters 23 16 0 else if kind = 0 then s1.odSetBits kBootCounters 15 8 0 else s1
  { s2 with fw := { s2.fw with attempt := kind, imageLast := b2n golden,
                               persist := { s2.fw.persist with warmIntent := false } } }.writeStatus.trace 0x0801
/-- The records and events of a start: the strap glitch (R385), the golden image, a warm start that fell back to cold. -/
def State.startEvents (s : State) (kind : Nat) (golden intended : Bool) : State :=
  let s1 := if s.pins.glitchRecord then
      let t := (s.blotAdd (s.mkRec 5 0 0 0 (unitId 0 0) none none 0 0 [])).event .pins 1
      { t with pins := { t.pins with glitchRecord := false } }
    else s
  let s2 := if golden then s1.event .fw 4 else s1
  if intended ∧ kind ≠ 1 then s2.event .fw 5 else s2
/-- Steps 6 to 12 with the loop-backs and the DIMM detection of a cold start. -/
def State.startTiers (s : State) (warm : Bool) (env : StartEnv) : State :=
  if warm then (s.traceSteps [6, 8, 9, 11, 12]).startMemories true
  else
    let n := 2 * ((List.range 256).filter (s.chanOk false)).length
    ((((s.startLoops false env.loopErrors).detectDimms env.dimms).startLoops true (env.loopErrors.drop n)).traceSteps
      [6, 7, 8, 9, 10, 11, 12]).startMemories false
/-- Steps 3 to 14 of a start whose image is good and whose memories train. -/
def State.startUnits (s : State) (kind : Nat) (golden : Bool) (env : StartEnv) : State :=
  let warm := kind == 1
  ((((s.enterImage (s.imageNo golden) warm).startTiers warm env).traceSteps [13]).applyFences.runStartTests warm env.testMasks).traceSteps [14, 15]
/-- Steps 15 to 20. -/
def State.finishStart (s : State) (kind : Nat) (golden intended : Bool) (rec_ : List Byte) (env : StartEnv) : State :=
  let warm := kind == 1
  let s1 := ((s.startPorts warm env.pcieWidth env.ports).startPcie env.pcieWidth env.pcieRate).startSync env.beacon
  let s2 := ((s1.traceSteps [16, 17, 18]).startSets warm env.weightSetsRead).traceSteps [19]
  let s3 := (((s2.closeAttempt kind golden).startEvents kind golden intended).keyEvents rec_).traceSteps [20]
  let s4 := s3.odSet kStartKind (if golden then (if warm then 3 else 2) else b2n warm)
  { s4 with pins := { s4.pins with change := none, driven := true } }
/-- A fault that a start records makes it fail only where it makes the chip FATAL or offline (R352); a fence that the record already
held records none. -/
def State.startDies (s : State) (kind : Nat) (golden : Bool) (env : StartEnv) : Bool :=
  let t := s.startUnits kind golden env
  env.fatal || t.dumping
    || t.odGet kChipState == 1 && !(s.unitFences.any fun u => u / 1024 == 8 || u / 1024 == 10)

/-- A start may begin: the straps are latched, the device is in BOOT outside a window, and not in production test. -/
def State.mayStartUp (s : State) : Bool :=
  s.pins.strapped && s.odGet kPhase == 1 && s.pins.change.isNone && s.pins.window.isNone && s.odGet kTestMode == 0 && !s.dumping
/-- Steps 1 and 2 of a start: the record is read, the key slots are checked, the kind is chosen. -/
def State.startChoice (s : State) (persistentOk : Bool) : State × Option (Nat × Bool) :=
  let rec_ := s.bootRecord
  let s0 := (s.readRecord rec_).checkKeys rec_
  (s0, s0.chooseStart rec_ persistentOk)
/-- The bound of a start of a kind has passed (R352). -/
def State.startLate (s : State) (kind : Nat) : Bool :=
  decide ((if kind = 1 then s.odGet kStartLimitWarm else s.odGet kStartLimitCold) ≤ s.g)
/-- START_UP: the steps of Table 15-12. -/
def State.startUp (s : State) (env : StartEnv) : State :=
  if !s.mayStartUp then s
  else
    let (s0, choice) := s.startChoice env.persistentOk
    match choice with
    | none => s0.enterDump true false 0
    | some (kind, golden) =>
      let s1 := s0.openAttempt kind
      let a := imageAt (s1.imageNo golden)
      let h := s1.flashGet a 128
      if s.startLate kind ∨ !imageGood (s1.flashGet a (imgSize h)) ∨ !env.trainingOk ∨ (kind = 1 ∧ !env.calibrationOk)
          ∨ s1.startDies kind golden env then s1.failStart
      else (s1.startUnits kind golden env).finishStart kind golden (s.fw.persist.valid && s.fw.persist.warmIntent) s.bootRecord env
/-- START_UP. -/
def execStartUp (env : StartEnv) (s : State) : Host.Outcome State Fault Refusal := .next (s.startUp env)
/-- START_LIMIT (R352): a start that has not reached step 20 within its bound; the attempt that step 2 opened stays open. -/
def execStartLimit (s : State) : Host.Outcome State Fault Refusal :=
  .next (if s.mayStartUp then
    match s.startChoice s.fw.persist.valid with
    | (s0, some (kind, _)) => if s.startLate kind then (s0.openAttempt kind).failStart else s
    | (_, none) => s
  else s)

end Sys2Proof.Machine
end

