-- ==== Sys2Proof/Machine/CoreArith.lean ====
section
/-!
DEFINITION. The arithmetic of the preparer cores (R83, R84): binary32 and binary64 with the five rounding modes, the exception
flags and canonical NaNs, and the integer operations. PRESUMED (log entry 186): what R84 does not say follows the RISC-V
instruction sets that R83 names.
-/
namespace Sys2Proof.Machine

/-- binary64. -/
def fp64 : FSpec := ⟨64, 52, 1023, 0x7FEFFFFFFFFFFFFF, some 0x7FF0000000000000, some 0x7FF8000000000000⟩
/-- The layout of a core's floating-point operand. -/
def fpSpec (dbl : Bool) : FSpec := if dbl then fp64 else fspec .fp32
/-- The canonical NaN of R84: 0x7FC0_0000 or 0x7FF8_0000_0000_0000. -/
def fpNan (dbl : Bool) : Nat := (fpSpec dbl).nan.getD 0

/-! ### Exception flags: NX 1, UF 2, OF 4, DZ 8, NV 16 -/

/-- The invalid flag. -/
def flagNV (b : Bool) : Nat := 16 * b2n b
/-- A quotient with remainder rounded to an integer count in a mode. -/
def roundCore (rm : CoreRound) (neg : Bool) (p : Nat × Nat × Nat) : Nat :=
  match rm with
  | .rtz => p.1
  | .rdn => p.1 + b2n (neg && p.2.1 != 0)
  | .rup => p.1 + b2n (!neg && p.2.1 != 0)
  | .rmm => p.1 + b2n (decide (p.2.2 ≤ 2 * p.2.1))
  | .rod => if p.2.1 = 0 then p.1 else p.1 ||| 1
  | .rne | .dyn => roundQ .rne 0 p
/-- A mode that writes the largest finite value where a value overflows. -/
def overflowToMax (rm : CoreRound) (neg : Bool) : Bool :=
  match rm with
  | .rtz | .rod => true
  | .rdn => !neg
  | .rup => neg
  | _ => false
/-- One rounding of an exact value to a format (R84): the encoding and the flags. -/
def fpRound (dbl : Bool) (rm : CoreRound) (x : FVal) : Nat × Nat :=
  let s := fpSpec dbl
  match x with
  | .nan => (fpNan dbl, 0)
  | .inf n => (withSignBit s n (s.inf.getD 0), 0)
  | .fin n m e =>
    if m = 0 then (withSignBit s n 0, 0)
    else
      let emin : Int := 1 - (s.bias : Int)
      let top : Int := (Nat.log2 m : Int) + e
      let b : Int := if top < emin then emin else top
      let q := quantum m e (b - s.mbits)
      let v := (b - emin).toNat * 2 ^ s.mbits + roundCore rm n q
      let inexact := q.2.1 != 0
      let tiny := decide (top < emin) && !(decide (top = emin - 1)
        && roundCore rm n (quantum m e (top - s.mbits)) == 2 ^ (s.mbits + 1))
      if s.maxFin < v then
        (withSignBit s n (if overflowToMax rm n then s.maxFin else s.inf.getD 0), 5)
      else (withSignBit s n v, b2n inexact + 2 * b2n (inexact && tiny))

/-- A signaling NaN. -/
def isSNan (dbl : Bool) (v : Nat) : Bool :=
  let s := fpSpec dbl
  let mag := v % 2 ^ (s.width - 1)
  decide (s.inf.getD 0 < mag) && !bit v (s.mbits - 1)
/-- The value of an operand. -/
def fpVal (dbl : Bool) (v : Nat) : FVal := decodeFloat (fpSpec dbl) v
/-- A result and its flags: invalid where a NaN comes of no NaN, or of a signaling one. -/
def fpFinish (dbl : Bool) (rm : CoreRound) (ins : List Nat) (x : FVal) : Nat × Nat :=
  let r := fpRound dbl rm x
  (r.1, r.2 ||| flagNV (ins.any (isSNan dbl) || (x.isNan && ins.all fun v => !(fpVal dbl v).isNan)))
/-- The sign of an encoding replaced. -/
def fpSign (dbl : Bool) (v : Nat) (neg : Bool) : Nat :=
  withSignBit (fpSpec dbl) neg (v % 2 ^ ((fpSpec dbl).width - 1))
/-- The sign bit of an encoding. -/
def fpNeg (dbl : Bool) (v : Nat) : Bool := bit v ((fpSpec dbl).width - 1)
/-- The smaller or larger operand: a number beats a NaN, −0 lies below +0. -/
def fpMinMax (dbl max : Bool) (a b : Nat) : Nat × Nat :=
  let x := fpVal dbl a; let y := fpVal dbl b
  let nv := flagNV (isSNan dbl a || isSNan dbl b)
  if x.isNan && y.isNan then (fpNan dbl, nv)
  else if x.isNan then (b, nv) else if y.isNan then (a, nv)
  else
    let less := x.lt y || (!y.lt x && fpNeg dbl a && !fpNeg dbl b)
    (if less != max then a else b, nv)
/-- An operation of two operands. -/
def fpOp (op : FpOp) (dbl : Bool) (rm : CoreRound) (a b : Nat) : Nat × Nat :=
  let x := fpVal dbl a; let y := fpVal dbl b
  match op with
  | .add => fpFinish dbl rm [a, b] (fpZero rm (x.add y) x y)
  | .sub => fpFinish dbl rm [a, b] (fpZero rm (x.add y.negate) x y.negate)
  | .mul => fpFinish dbl rm [a, b] (x.mul y)
  | .div =>
    let r := fpFinish dbl rm [a, b] (x.div y)
    (r.1, r.2 ||| 8 * b2n (x.isFinite && !x.isZero && y.isZero))
  | .sqrt => fpFinish dbl rm [a] x.sqrt
  | .min => fpMinMax dbl false a b
  | .max => fpMinMax dbl true a b
  | .sgnj => (fpSign dbl a (fpNeg dbl b), 0)
  | .sgnjn => (fpSign dbl a (!fpNeg dbl b), 0)
  | .sgnjx => (fpSign dbl a (fpNeg dbl a ^^ fpNeg dbl b), 0)
where
  /-- The sign of an exact zero sum: that of both addends, else plus, but minus where rounding goes down. -/
  fpZero (rm : CoreRound) (r x y : FVal) : FVal :=
    match r with
    | .fin _ 0 e => .fin (if x.neg? == y.neg? then x.neg? else rm == .rdn) 0 e
    | v => v
/-- A fused multiply-add: `±(a * b) ± c`, rounded once. -/
def fpFma (negProd negAdd dbl : Bool) (rm : CoreRound) (a b c : Nat) : Nat × Nat :=
  let p := (fpVal dbl a).mul (fpVal dbl b)
  let p' := if negProd then p.negate else p
  let c' := if negAdd then (fpVal dbl c).negate else fpVal dbl c
  let r := fpFinish dbl rm [a, b, c] (fpOp.fpZero rm (p'.add c') p' c')
  (r.1, r.2 ||| flagNV (p.isNan && !(fpVal dbl a).isNan && !(fpVal dbl b).isNan))
/-- A comparison and its flags: the ordered ones are invalid on any NaN, equality on a signaling one. -/
def fpCompare (c : FpCmp) (dbl : Bool) (a b : Nat) : Bool × Nat :=
  let x := fpVal dbl a; let y := fpVal dbl b
  match c with
  | .eq => (x.eqv y, flagNV (isSNan dbl a || isSNan dbl b))
  | .lt => (x.lt y, flagNV (x.isNan || y.isNan))
  | .le => (x.lt y || x.eqv y, flagNV (x.isNan || y.isNan))
/-- The class mask of an operand: infinities, normal, subnormal and zero by sign, signaling and quiet NaN. -/
def fpClass (dbl : Bool) (v : Nat) : Nat :=
  let s := fpSpec dbl
  let mag := v % 2 ^ (s.width - 1)
  let n := fpNeg dbl v
  match fpVal dbl v with
  | .nan => if isSNan dbl v then 256 else 512
  | .inf _ => if n then 1 else 128
  | .fin _ m _ =>
    if m = 0 then (if n then 8 else 16)
    else if mag < 2 ^ s.mbits then (if n then 4 else 32) else if n then 2 else 64
/-- A floating-point value to an integer of `w` bits: the two's complement bits and the flags; it saturates, a NaN gives the
largest. -/
def fpToInt (w : Nat) (unsigned : Bool) (rm : CoreRound) (x : FVal) : Nat × Nat :=
  let hi : Int := if unsigned then 2 ^ w - 1 else 2 ^ (w - 1) - 1
  let lo : Int := if unsigned then 0 else -(2 ^ (w - 1))
  let out := fun (v : Int) => (v % 2 ^ w).toNat
  match x with
  | .nan => (out hi, 16)
  | .inf n => (out (if n then lo else hi), 16)
  | .fin n m e =>
    let q := quantum m e 0
    let v : Int := if n then -(roundCore rm n q : Int) else roundCore rm n q
    if v < lo then (out lo, 16) else if hi < v then (out hi, 16) else (out v, b2n (q.2.1 != 0))
/-- The 7-bit estimates of RVV: mantissa bits of 1/x or 1/√x of the middle of a table interval. -/
def estimate7 (rsqrt : Bool) (i : Nat) : Nat :=
  if rsqrt then
    let odd := decide (64 ≤ i)
    let x := 2 * (64 + i % 64) + 1
    -- 256 / sqrt(x / 128 * (2 or 1)) rounded, less 128
    let y := isqrt (2 ^ 55 / (if odd then x else 2 * x))
    (y * 2 / 2 ^ 16 + 1) / 2 - 128
  else (2 ^ 16 * 2 / (2 * (128 + i) + 1) + 1) / 2 - 128
/-- The mantissa and the unbiased exponent of a finite non-zero magnitude, the mantissa `f` bits after the point. -/
def normalized (m : Nat) (e : Int) (f : Nat) : Nat × Int :=
  let l := Nat.log2 m
  ((if l ≤ f then m * 2 ^ (f - l) else m / 2 ^ (l - f)) % 2 ^ f, e + l)
/-- An operation of one operand on a vector element. -/
def fpUnary (op : VFUnary) (dbl : Bool) (rm : CoreRound) (a : Nat) : Nat × Nat :=
  let s := fpSpec dbl
  match op with
  | .sqrt => fpOp .sqrt dbl rm a 0
  | .classify => (fpClass dbl a, 0)
  | .rec7 =>
    match fpVal dbl a with
    | .nan => (fpNan dbl, flagNV (isSNan dbl a))
    | .inf n => (withSignBit s n 0, 0)
    | .fin n m e =>
      if m = 0 then (withSignBit s n (s.inf.getD 0), 8)
      else
        let (f, x) := normalized m e 7
        if x < -(s.bias : Int) - 1 then
          (withSignBit s n (if overflowToMax rm n then s.maxFin else s.inf.getD 0), 5)
        else ((fpRound dbl .rtz (.fin n (128 + estimate7 false f) (-x - 8))).1, 0)
  | .rsqrt7 =>
    match fpVal dbl a with
    | .nan => (fpNan dbl, flagNV (isSNan dbl a))
    | .inf n => if n then (fpNan dbl, 16) else (0, 0)
    | .fin n m e =>
      if m = 0 then (withSignBit s n (s.inf.getD 0), 8)
      else if n then (fpNan dbl, 16)
      else
        let (f, x) := normalized m e 6
        let odd := x % 2 = 0
        let h : Int := if odd then x / 2 else (x - 1) / 2
        ((fpRound dbl .rtz (.fin false (128 + estimate7 true (f + if odd then 64 else 0)) (-h - 8))).1, 0)

/-! ### Integers -/

/-- The bits of an integer in `w` bits. -/
def wrapInt (w : Nat) (v : Int) : Nat := (v % 2 ^ w).toNat
/-- The value of `w` bits. -/
def intOf (signed : Bool) (w v : Nat) : Int := if signed then signedOf w v else (v % 2 ^ w : Nat)
/-- The quotient of a division: all ones for a zero divisor; it truncates. -/
def coreDiv (a b : Int) : Int := if b = 0 then -1 else a.tdiv b
/-- The remainder of a division: the dividend for a zero divisor. -/
def coreRem (a b : Int) : Int := if b = 0 then a else a.tmod b
/-- An integer operation on `w` bits. -/
def aluBits (w : Nat) (op : AluOp) (a b : Nat) : Nat :=
  let sa := signedOf w a; let sb := signedOf w b
  let ua : Int := (a % 2 ^ w : Nat); let ub : Int := (b % 2 ^ w : Nat)
  let sh := b % w
  match op with
  | .add => wrapInt w (sa + sb)
  | .sub => wrapInt w (sa - sb)
  | .sll => wrapInt w (ua * 2 ^ sh)
  | .slt => b2n (decide (sa < sb))
  | .sltu => b2n (decide (ua < ub))
  | .xor => (a ^^^ b) % 2 ^ w
  | .srl => wrapInt w (ua / 2 ^ sh)
  | .sra => wrapInt w (sa / 2 ^ sh)
  | .or => (a ||| b) % 2 ^ w
  | .and => (a &&& b) % 2 ^ w
  | .mul => wrapInt w (sa * sb)
  | .mulh => wrapInt w (sa * sb / 2 ^ w)
  | .mulhsu => wrapInt w (sa * ub / 2 ^ w)
  | .mulhu => wrapInt w (ua * ub / 2 ^ w)
  | .div => wrapInt w (coreDiv sa sb)
  | .divu => wrapInt w (coreDiv ua ub)
  | .rem => wrapInt w (coreRem sa sb)
  | .remu => wrapInt w (coreRem ua ub)
/-- An integer operation of RV64: on all 64 bits, or on the low 32 with the result sign-extended. -/
def aluCore (op : AluOp) (w : Bool) (a b : Nat) : Nat :=
  if w then wrapInt 64 (signedOf 32 (aluBits 32 op a b)) else aluBits 64 op a b
/-- The condition of a branch. -/
def branchTaken (c : BrCond) (a b : Nat) : Bool :=
  match c with
  | .eq => a == b
  | .ne => a != b
  | .lt => decide (signedOf 64 a < signedOf 64 b)
  | .ge => decide (signedOf 64 b ≤ signedOf 64 a)
  | .ltu => decide (a < b)
  | .geu => decide (b ≤ a)
/-- The value that an atomic memory operation stores, on `w` bits. -/
def amoBits (w : Nat) (op : AmoOp) (old v : Nat) : Nat :=
  match op with
  | .swap => v % 2 ^ w
  | .add => (old + v) % 2 ^ w
  | .xor => (old ^^^ v) % 2 ^ w
  | .and => (old &&& v) % 2 ^ w
  | .or => (old ||| v) % 2 ^ w
  | .min => if signedOf w old ≤ signedOf w v then old % 2 ^ w else v % 2 ^ w
  | .max => if signedOf w old ≤ signedOf w v then v % 2 ^ w else old % 2 ^ w
  | .minu => min (old % 2 ^ w) (v % 2 ^ w)
  | .maxu => max (old % 2 ^ w) (v % 2 ^ w)

/-- A right shift rounded under vxrm: 0 to nearest up, 1 to nearest even, 2 down, 3 to odd. -/
def roundShift (vxrm : Nat) (v : Int) (sh : Nat) : Int :=
  let q := v / 2 ^ sh
  let r := (v % 2 ^ sh).toNat
  let half := 2 ^ sh / 2
  match vxrm with
  | 0 => q + b2n (sh != 0 && decide (half ≤ r))
  | 1 => q + b2n (sh != 0 && (decide (half < r) || (r == half && q % 2 != 0)))
  | 2 => q
  | _ => if r ≠ 0 ∧ q % 2 = 0 then q + 1 else q
/-- A value brought into the range of `w` bits, and whether it lay outside. -/
def saturate (signed : Bool) (w : Nat) (v : Int) : Nat × Bool :=
  let hi : Int := if signed then 2 ^ (w - 1) - 1 else 2 ^ w - 1
  let lo : Int := if signed then -(2 ^ (w - 1)) else 0
  if v < lo then (wrapInt w lo, true) else if hi < v then (wrapInt w hi, true) else (wrapInt w v, false)
/-- A vector integer operation: operands as integers, `w` the width of the result, `sw` that of a shift's or high product's
operand, `signed` whether the left operand is; the bits and whether it saturated. -/
def vintBits (op : VInt) (signed : Bool) (w sw vxrm : Nat) (a b : Int) : Nat × Bool :=
  let sh := (b % sw).toNat
  match op with
  | .add => (wrapInt w (a + b), false)
  | .sub => (wrapInt w (a - b), false)
  | .rsub => (wrapInt w (b - a), false)
  | .and => (wrapInt w a &&& wrapInt w b, false)
  | .or => (wrapInt w a ||| wrapInt w b, false)
  | .xor => (wrapInt w a ^^^ wrapInt w b, false)
  | .min => (wrapInt w (min a b), false)
  | .max => (wrapInt w (max a b), false)
  | .sll => (wrapInt w (a * 2 ^ sh), false)
  | .sr => (wrapInt w (a / 2 ^ sh), false)
  | .mul => (wrapInt w (a * b), false)
  | .mulh => (wrapInt w (a * b / 2 ^ w), false)
  | .div => (wrapInt w (coreDiv a b), false)
  | .rem => (wrapInt w (coreRem a b), false)
  | .sadd => saturate signed w (a + b)
  | .ssub => saturate signed w (a - b)
  | .aadd => (wrapInt w (roundShift vxrm (a + b) 1), false)
  | .asub => (wrapInt w (roundShift vxrm (a - b) 1), false)
  | .smul => saturate true w (roundShift vxrm (a * b) (w - 1))
  | .ssr => (wrapInt w (roundShift vxrm a sh), false)
  | .clip => saturate signed w (roundShift vxrm a sh)

end Sys2Proof.Machine
end

