-- ==== Sys2Proof/Machine/Cores.lean ====
section
/-!
DEFINITION. What a preparer core executes (R83 to R87): its registers, its memory view (Table 4-5) with the two caches, and one
decoded instruction after the other. PRESUMED (log entry 186): the instructions are those of the RISC-V sets that R83 names.
-/
namespace Sys2Proof.Machine

/-- The unit id of a core. -/
def coreUnit (a : Nat) (k : Fin 4) : Nat := unitId 3 (4 * a + k)

/-- How an instruction leaves the task: it goes on; a trap ends it with a detection (code and value) and
the cause that mcause takes; an uncorrectable read or
a refused store has ended its context. -/
inductive CoreEnd
  | go
  | trap (code val cause : Nat)
  | ended
deriving DecidableEq, Repr

/-- A core in an instruction: the device, accord and core, the context of the task, what the controllers see of the code words
that it still reads, whether the data cache finds a parity error, what the check bits of the scratchpad report, whether it has
accessed the scratchpad, and how the instruction ends. -/
structure Hart where
  s : State
  a : Nat
  k : Fin 4
  c : Nat
  obs : List ReadObs
  par : Bool
  up : Upset
  sp : Bool
  stop : CoreEnd

/-- The core. -/
def Hart.core (h : Hart) : Core := (h.s.accAt h.a).cores[h.k.val]
/-- Change the core. -/
def Hart.mod (h : Hart) (f : Core → Core) : Hart :=
  { h with s := h.s.modAcc h.a fun A => { A with cores := A.cores.set h.k.val (f A.cores[h.k.val]) } }
/-- Go on with the instruction unless it has ended. -/
def Hart.andThen (h : Hart) (f : Hart → Hart) : Hart :=
  match h.stop with
  | .go => f h
  | _ => h
/-- A trap with the detection of Table 13-11 for an illegal instruction: code 0xA, the faulting address the pc. -/
def Hart.illegal (h : Hart) : Hart := { h with stop := .trap 0xA h.core.pc 2 }
/-- Go on where a condition holds, else trap. -/
def Hart.need (h : Hart) (ok : Bool) (f : Hart → Hart) : Hart := if ok then f h else h.illegal

/-! ### Registers -/

/-- An integer register; x0 reads as zero. -/
def Core.getX (x : Core) (r : Fin 32) : Nat := if r = 0 then 0 else (SMap.get (fun _ => (0 : W64)) x.x r).toNat
/-- Write an integer register; x0 discards it. -/
def Core.setX (x : Core) (r : Fin 32) (v : Nat) : Core :=
  if r = 0 then x else { x with x := SMap.set (fun _ => (0 : W64)) x.x r (BitVec.ofNat 64 v) }
/-- A floating-point register: an FP32 operand that is not boxed in ones reads as the canonical NaN. -/
def Core.getF (x : Core) (dbl : Bool) (r : Fin 32) : Nat :=
  let v := (SMap.get (fun _ => (0 : W64)) x.f r).toNat
  if dbl then v else if v / 2 ^ 32 = 2 ^ 32 - 1 then v % 2 ^ 32 else fpNan false
/-- Write a floating-point register; an FP32 value is boxed in ones. -/
def Core.setF (x : Core) (dbl : Bool) (r : Fin 32) (v : Nat) : Core :=
  { x with f := SMap.set (fun _ => (0 : W64)) x.f r (BitVec.ofNat 64 (if dbl then v else (2 ^ 32 - 1) * 2 ^ 32 + v % 2 ^ 32)) }
/-- The value of a second operand. -/
def Core.src (x : Core) : CoreSrc → Nat
  | .reg r => x.getX r
  | .imm v => wrapInt 64 v
/-- Accrue exception flags. -/
def Core.accrue (x : Core) (fl : Nat) : Core := { x with fcsr := x.fcsr ||| fl }
/-- The rounding mode in force; none where fcsr holds a reserved mode. -/
def Core.round (x : Core) : CoreRound → Option CoreRound
  | .dyn => match x.fcsr / 32 % 8 with
    | 0 => some .rne
    | 1 => some .rtz
    | 2 => some .rdn
    | 3 => some .rup
    | 4 => some .rmm
    | _ => none
  | r => some r
/-- A result with its flags goes to a floating-point register, in the rounding mode of the instruction or of fcsr (R84). -/
def Hart.fpTo (h : Hart) (rm : CoreRound) (dbl : Bool) (rd : Fin 32) (f : CoreRound → Nat × Nat) : Hart :=
  match h.core.round rm with
  | some m => h.mod fun x => (x.setF dbl rd (f m).1).accrue (f m).2
  | none => h.illegal
/-- A result with its flags goes to an integer register. -/
def Hart.fpToX (h : Hart) (rm : CoreRound) (rd : Fin 32) (f : CoreRound → Nat × Nat) : Hart :=
  match h.core.round rm with
  | some m => h.mod fun x => (x.setX rd (f m).1).accrue (f m).2
  | none => h.illegal

/-! ### Control and status registers -/

/-- The default of the vector control registers. -/
def vcsrDefault : Nat → Nat := fun _ => 0
/-- A vector control register by its CSR number. -/
def Core.vctl (x : Core) (n : Nat) : Nat := SMap.get vcsrDefault x.vcsr n
/-- Set a vector control register. -/
def Core.setVctl (x : Core) (n v : Nat) : Core := { x with vcsr := SMap.set vcsrDefault x.vcsr n v }
/-! ### Physical memory protection (R84) -/

/-- The configuration byte of protection region `i`: bits 0 to 2 R, W, X, bits 4:3 the matching mode, bit 7 locked. -/
def Core.pmpCfg (x : Core) (i : Nat) : Nat := SMap.get vcsrDefault x.mcsr (0x3A0 + 2 * (i / 8)) / 2 ^ (8 * (i % 8)) % 256
/-- The address register of protection region `i`. -/
def Core.pmpAddr (x : Core) (i : Nat) : Nat := SMap.get vcsrDefault x.mcsr (0x3B0 + i)
/-- The address register of a region cannot be written: the region is locked, or the next one is and begins here. -/
def Core.pmpLocked (x : Core) (i : Nat) : Bool :=
  bit (x.pmpCfg i) 7 || (decide (i < 15) && bit (x.pmpCfg (i + 1)) 7 && bits (x.pmpCfg (i + 1)) 4 3 == 1)
/-- The number of ones at the low end of `v`, at most `n`. -/
def trailingOnes : Nat → Nat → Nat
  | 0, _ => 0
  | n + 1, v => if v % 2 = 1 then 1 + trailingOnes n (v / 2) else 0
/-- The range of protection region `i`: its first byte and the byte past its end. -/
def Core.pmpRange (x : Core) (i : Nat) : Nat × Nat :=
  let a := x.pmpAddr i
  match bits (x.pmpCfg i) 4 3 with
  | 0 => (0, 0)
  | 1 => (4 * if i = 0 then 0 else x.pmpAddr (i - 1), 4 * a)
  | 2 => (4 * a, 4 * a + 4)
  | _ =>
    let k := trailingOnes 54 a
    (4 * (a / 2 ^ k * 2 ^ k), 4 * (a / 2 ^ k * 2 ^ k) + 2 ^ (k + 3))
/-- An access of `n` bytes passes the protection: bit `perm` of the first region that it meets, which must hold all of it; with
none, machine mode passes. -/
def Core.pmpOk (x : Core) (machine : Bool) (addr n perm : Nat) : Bool :=
  match (List.range 16).find? fun i => decide ((x.pmpRange i).1 < addr + n ∧ addr < (x.pmpRange i).2) with
  | some i => (machine && !bit (x.pmpCfg i) 7)
      || (decide ((x.pmpRange i).1 ≤ addr ∧ addr + n ≤ (x.pmpRange i).2) && bit (x.pmpCfg i) perm)
  | none => machine
/-- Loads and stores are those of machine mode: MPRV puts the mode of MPP in its place. -/
def Core.dataMode (x : Core) : Bool :=
  x.machine && !(bit (SMap.get vcsrDefault x.mcsr 0x300) 17 && bits (SMap.get vcsrDefault x.mcsr 0x300) 12 11 == 0)

/-- A machine-mode register by its CSR number. -/
def Core.getM (x : Core) (n : Nat) : Nat := SMap.get vcsrDefault x.mcsr n
/-- Set a machine-mode register. -/
def Core.setM (x : Core) (n v : Nat) : Core := { x with mcsr := SMap.set vcsrDefault x.mcsr n v }
/-- The machine-mode registers that hold a value, and the bits of them that can be written (log entry 186): mie, mtvec,
mcounteren, mscratch, mepc, mcause, mtval, and 16 physical memory protection regions. -/
def machineMask (n : Nat) : Option Nat :=
  if n = 0x304 then some 0x888
  else if n = 0x305 then some (2 ^ 64 - 3)
  else if n = 0x306 ∨ n = 0x320 then some (2 ^ 32 - 1)
  else if n = 0x340 ∨ n = 0x342 ∨ n = 0x343 then some (2 ^ 64 - 1)
  else if n = 0x341 then some (2 ^ 64 - 2)
  else if n = 0x3A0 ∨ n = 0x3A2 then some 0x9F9F9F9F9F9F9F9F
  else if 0x3B0 ≤ n ∧ n < 0x3C0 then some (2 ^ 54 - 1)
  else none
/-- The bits of mstatus that can be written: MIE, MPIE, VS, MPP, FS, MPRV, TW. -/
def mstatusMask : Nat := 0x227E88
/-- misa of R83. -/
def misaValue : Nat := 0x800000000030112D
/-- The counters, which read as free values (R84, log entry 186). -/
def freeCsr (n : Nat) : Bool := (0xC00 ≤ n && n ≤ 0xC02) || n == 0xB00 || n == 0xB02 || (0xF11 ≤ n && n ≤ 0xF14)
/-- What a register that machine mode alone can read reads as; mstatus shows SD and UXL 64. -/
def Core.machineRead (x : Core) (free : Nat) (n : Nat) : Option Nat :=
  if n = 0x301 then some misaValue
  else if n = 0x300 then
    let v := x.getM 0x300
    some (v + 2 * 2 ^ 32 + if bits v 14 13 = 3 ∨ bits v 10 9 = 3 then 2 ^ 63 else 0)
  else if n = 0x344 ∨ n = 0xF15 then some 0
  else if freeCsr n then some free
  else if (machineMask n).isSome then some (x.getM n)
  else none
/-- What a CSR reads as; none: illegal. cycle, time and instret read as a free value (R84, log entry 186). -/
def Core.csrRead (x : Core) (free : Nat) (n : Nat) : Option Nat :=
  match n with
  | 0x001 => some (x.fcsr % 32)
  | 0x002 => some (x.fcsr / 32 % 8)
  | 0x003 => some (x.fcsr % 256)
  | 0x008 => some (x.vctl 8)
  | 0x009 => some (x.vctl 9)
  | 0x00A => some (x.vctl 10)
  | 0x00F => some (x.vctl 9 + 2 * x.vctl 10)
  | 0xC20 => some x.vl
  | 0xC21 => some x.vtype
  | 0xC22 => some 64
  | 0xC00 => some free
  | 0xC01 => some free
  | 0xC02 => some free
  | n => if x.machine then x.machineRead free n else none
/-- The write of a register that machine mode alone can write: MPP takes user or machine; of a locked protection region nothing
changes. -/
def Core.machineWrite (x : Core) (n v : Nat) : Option Core :=
  if n = 0x300 then
    let w := v &&& mstatusMask
    some (x.setM 0x300 (if bits w 12 11 = 3 then w else setBits w 12 11 0))
  else if n = 0x301 ∨ n = 0x344 ∨ n = 0xB00 ∨ n = 0xB02 then some x
  else if n = 0x3A0 ∨ n = 0x3A2 then
    let old := x.getM n
    some (x.setM n ((List.range 8).foldl (fun w i =>
      if bit old (8 * i + 7) then setBits w (8 * i + 7) (8 * i) (bits old (8 * i + 7) (8 * i)) else w) (v &&& 0x9F9F9F9F9F9F9F9F)))
  else if 0x3B0 ≤ n ∧ n < 0x3C0 then
    some (if x.pmpLocked (n - 0x3B0) then x else x.setM n (v % 2 ^ 54))
  else (machineMask n).map fun m => x.setM n (v &&& m)
/-- The write of a CSR; none: it is read-only or does not exist. -/
def Core.csrWrite (x : Core) (n v : Nat) : Option Core :=
  match n with
  | 0x001 => some { x with fcsr := x.fcsr / 32 * 32 + v % 32 }
  | 0x002 => some { x with fcsr := x.fcsr % 32 + 32 * (v % 8) }
  | 0x003 => some { x with fcsr := v % 256 }
  | 0x008 => some (x.setVctl 8 (v % 512))
  | 0x009 => some (x.setVctl 9 (v % 2))
  | 0x00A => some (x.setVctl 10 (v % 4))
  | 0x00F => some ((x.setVctl 9 (v % 2)).setVctl 10 (v / 2 % 4))
  | n => if x.machine then x.machineWrite n v else none
/-- A CSR instruction. -/
def Hart.csr (h : Hart) (op : CsrOp) (rd : Fin 32) (n : Nat) (src : CoreSrc) (writes : Bool) : Hart :=
  let x := h.core
  let (r, s1) := h.s.drawNat
  match x.csrRead (r % 2 ^ 64) n with
  | none => h.illegal
  | some old =>
    let v := match op with
      | .write => x.src src
      | .set => old ||| x.src src
      | .clear => old - (old &&& x.src src)
    let h1 := { h with s := if freeCsr n then s1 else h.s }
    if !writes then h1.mod fun y => y.setX rd old
    else match x.csrWrite n v with
      | none => h.illegal
      | some y => h1.mod fun _ => y.setX rd old

/-! ### Memory view (Table 4-5) -/

/-- The scratchpad in a core's view. -/
def coreSp : Nat := 0x10000000
/-- The token and task-queue registers, 4 KiB. -/
def coreRegs : Nat := 0x20000000
/-- The program code, up to 256 MiB, execute only. -/
def coreCode : Nat := 0x100000000
/-- The base of the heart window in a core's view. -/
def coreHeart : Nat := 0x10000000000
/-- The base of the base window in a core's view. -/
def coreBase : Nat := 0x20000000000

/-- The monitor sets the protection for a task from its context's windows (R84): the scratchpad, the token and task-queue registers,
the code, and the two windows of `win` bytes. -/
def Core.protect (x : Core) (win : Nat × Nat) : Core :=
  let napot := fun (base size : Nat) => base / 4 + (size / 8 - 1)
  let y := ((x.setM 0x3B0 (napot coreSp spSize)).setM 0x3B1 (napot coreRegs 4096)).setM 0x3B2 (napot coreCode (2 ^ 28))
  let z := (((y.setM 0x3B3 (coreHeart / 4)).setM 0x3B4 ((coreHeart + win.1) / 4)).setM 0x3B5 (coreBase / 4)).setM 0x3B6
    ((coreBase + win.2) / 4)
  z.setM 0x3A0 0x0B000B001C1B1B
/-- A trap enters machine mode at mtvec: mepc, mcause, mtval and mstatus take the pc, the cause, the value, the mode and MIE. -/
def Core.trapIn (cause val : Nat) (x : Core) : Core :=
  let st := x.getM 0x300
  let st' := setBits (setBits (setBits st 12 11 (if x.machine then 3 else 0)) 7 7 (bits st 3 3)) 3 3 0
  { (((x.setM 0x341 x.pc).setM 0x342 cause).setM 0x343 val).setM 0x300 st' with
    machine := true, pc := x.getM 0x305 / 4 * 4, resv := none }
/-- mret: the pc is mepc, the mode MPP and MIE MPIE. -/
def Core.mret (x : Core) : Core :=
  let st := x.getM 0x300
  let m := bits st 12 11 == 3
  let st' := setBits (setBits (setBits st 3 3 (bits st 7 7)) 7 7 1) 12 11 0
  { x.setM 0x300 (if m then st' else setBits st' 17 17 0) with machine := m, pc := x.getM 0x341 }

/-- The detection of an out-of-bounds access of a core (R85, Table 13-11): within the two windows' regions an access outside the
windows, anywhere else an out-of-bounds access with its address, local where it lies above the scratchpad's base (log entry
178). -/
def coreOob (addr : Nat) : Nat × Nat :=
  if coreBase ≤ addr then (3, windowVal true (addr - coreBase))
  else if coreHeart ≤ addr then (3, windowVal false (addr - coreHeart))
  else (2, if coreSp ≤ addr then addr - coreSp else addr)
/-- End the task with an out-of-bounds access: cause 1 of a fetch, 5 of a load, 7 of a store. -/
def Hart.oob (h : Hart) (addr cause : Nat) : Hart := { h with stop := .trap (coreOob addr).1 (coreOob addr).2 cause }

/-- The default of the data cache. -/
def lineDefault : Nat → List Byte := fun _ => []
/-- A line of the data cache and whether it is there. -/
def Core.line (x : Core) (l : Nat) : Option (List Byte) :=
  match SMap.get lineDefault x.dcache l with
  | [] => none
  | bs => some bs
/-- The lines that a cache of 64 KiB holds (R83). The manual gives the size alone: that a line has 64 B, so that there are 1,024,
and that a cache is fully associative is the model's (DESIGN CHOICE, log entry 219). -/
def cacheLines : Nat := 1024
/-- Put a line into the data cache; in a full one it takes the place of line `k`. -/
def Core.cache (x : Core) (l : Nat) (bs : List Byte) (k : Nat) : Core :=
  let d := if x.dcache.length < cacheLines then x.dcache else x.dcache.eraseIdx (k % cacheLines)
  { x with dcache := SMap.set lineDefault d l bs }
/-- A parity error of a cache: counted, the line fetched again (R87). -/
def Hart.parity (h : Hart) : Hart := { h with s := h.s.bump kCacheParityCount 1, par := false }

/-- Fetch line `l` of a window through the data cache (R86, R87). Whether a line that the cache holds is still in it is a free
value: replacement is not specified, and a store by another unit may or may not be seen. -/
def Hart.fetchLine (h : Hart) (base : Bool) (l : Nat) : Hart × List Byte :=
  let (keep, s1) := h.s.drawBool
  let h1 := { h with s := s1 }
  match h1.core.line l, keep && !h1.par with
  | some bs, true => (h1, bs)
  | had, _ =>
    let h2 := if had.isSome && h1.par then h1.parity else h1
    match h2.s.window h2.c base (64 * l - if base then coreBase else coreHeart) 64 false with
    | none => (h2.oob (64 * l) 5, [])
    | some pa =>
      let cws := codeWords pa 64
      let (s3, ok) := h2.s.tierReads base ⟨some h2.c, coreUnit h2.a h2.k, 0⟩ cws h2.obs
      let h3 := { h2 with s := s3, obs := h2.obs.drop cws.length }
      if !ok then ({ h3 with stop := .ended }, [])
      else
        let (ev, s4) := s3.drawNat
        let bs := s4.tierBytes base pa 64
        ({ h3 with s := s4 }.mod fun x => x.cache l bs ev, bs)
/-- Fetch several lines. -/
def Hart.fetchLines (h : Hart) (base : Bool) : List Nat → Hart × List Byte
  | [] => (h, [])
  | l :: r =>
    let (h1, bs) := h.fetchLine base l
    match h1.stop with
    | .go => let (h2, more) := h1.fetchLines base r
             (h2, bs ++ more)
    | _ => (h1, [])

/-- A load of `n` bytes in the view of Table 4-5. The manual gives the token and task-queue registers no layout: they read as
free bytes (log entry 196). What the check bits of the scratchpad report is counted, or a fault of the partition (R121). -/
def Hart.load (h : Hart) (addr n : Nat) : Hart × List Byte :=
  if !h.core.pmpOk (h.core.dataMode) addr n 0 then (h.oob addr 5, [])
  else if coreSp ≤ addr ∧ addr + n ≤ coreSp + spSize then
    match h.up with
    | .uncorrectable k at_ syn => ({ h with s := h.s.uncorrectable k h.a 0 at_ syn 0, sp := true, stop := .ended }, [])
    | .corrected k m =>
      ({ h with s := h.s.corrected k h.a 0 m, sp := true, up := .none }, (h.s.accAt h.a).top.readN (addr - coreSp) n)
    | .none => ({ h with sp := true }, (h.s.accAt h.a).top.readN (addr - coreSp) n)
  else if coreRegs ≤ addr ∧ addr + n ≤ coreRegs + 4096 then
    ({ h with s := h.s.skipFree n }, freeBytes h.s.free n)
  else if coreHeart ≤ addr ∧ addr + n ≤ 2 ^ 64 then
    let base := decide (coreBase ≤ addr)
    match h.s.window h.c base (addr - if base then coreBase else coreHeart) n false with
    | none => (h.oob addr 5, [])
    | some _ =>
      let (h1, bs) := h.fetchLines base (codeWords addr n)
      (h1, (bs.drop (addr % 64)).take n)
  else (h.oob addr 5, [])

/-- The cached lines take what a store writes; no line is allocated (R86). -/
def Core.through (x : Core) (addr : Nat) (bs : List Byte) : Core :=
  (cwPieces addr bs).foldl (fun y e => match y.line (e.1 / 64) with
    | some old =>
      let bs := old.take (e.1 % 64) ++ e.2 ++ old.drop (e.1 % 64 + e.2.length)
      { y with dcache := SMap.set lineDefault y.dcache (e.1 / 64) bs }
    | none => y) x
/-- The ownership tags of a scratchpad store of a task (R114): the output that its descriptor declares is one tensor; of a store
outside it the manual names no tensor, and the tag is a free value (log entry 218). -/
def Hart.tagStore (h : Hart) (addr n : Nat) : Hart :=
  if !h.s.ownTags h.c then h
  else
    let (w, s1) := h.s.drawNat
    let id := match h.core.run.bind fun r => r.task.out with
      | some o => if o.addr ≤ addr ∧ addr + n ≤ o.addr + o.len then o.tensor else w
      | none => w
    { h with s := s1.modAcc h.a fun A => A.ownTag addr n id }
/-- A store in the view of Table 4-5. A store of 64 bytes to the codec port is a job (R178); the manual gives the other token and
task-queue registers no effect (log entry 196). -/
def Hart.store (h : Hart) (addr : Nat) (bs : List Byte) : Hart :=
  let n := bs.length
  if !h.core.pmpOk (h.core.dataMode) addr n 1 then h.oob addr 7
  else if coreSp ≤ addr ∧ addr + n ≤ coreSp + spSize then
    { h with s := h.s.modAcc h.a fun A => { A with top := A.top.writeN (addr - coreSp) bs }, sp := true }.tagStore (addr - coreSp) n
  else if coreRegs ≤ addr ∧ addr + n ≤ coreRegs + 4096 then
    (if addr = coreRegs + 0xC00 ∧ n = 64 then
      let s1 := h.s.codecStart h.c h.a (jobOf bs).1 (jobOf bs).2 h.obs
      { h with s := s1, stop := if (s1.ctxAt h.c).st = .stopped then .ended else .go }
     else h)
  else if coreHeart ≤ addr ∧ addr + n ≤ 2 ^ 64 then
    let base := decide (coreBase ≤ addr)
    match h.s.window h.c base (addr - if base then coreBase else coreHeart) n true with
    | none => h.oob addr 7
    | some pa =>
      let (s1, ok) := h.s.tierStore base pa bs ⟨some h.c, coreUnit h.a h.k, 0⟩ h.obs
      let h1 := { h with s := s1, obs := h.obs.drop (narrowWords pa n).length }
      if ok then h1.mod fun x => x.through addr bs else { h1 with stop := .ended }
  else h.oob addr 7
/-- A load whose value goes on to `f`. -/
def Hart.loadTo (h : Hart) (addr n : Nat) (f : Nat → Core → Core) : Hart :=
  let (h1, bs) := h.load addr n
  h1.andThen fun g => g.mod (f (leNat bs))

/-- The fetch of an instruction: the code region alone is executable in user mode (R85), and machine mode executes from the
monitor's ROM besides (R84); a parity error of a line that the instruction cache holds fetches it again (R87). -/
def Hart.fetch (h : Hart) (parity : Bool) : Hart :=
  let pc := h.core.pc
  if !h.core.machine && (decide (pc < coreCode ∨ coreCode + 2 ^ 28 ≤ pc) || !h.core.pmpOk false pc 2 2) then h.oob pc 1
  else
    let h1 := if h.core.icache.contains (pc / 64) && parity then { h with s := h.s.bump kCacheParityCount 1 } else h
    let (ev, s1) := h1.s.drawNat
    { h1 with s := s1 }.mod fun x =>
      if x.icache.contains (pc / 64) then x
      else
        let l := if x.icache.length < cacheLines then x.icache else x.icache.eraseIdx (ev % cacheLines)
        { x with icache := insertRising (pc / 64) l }

/-! ### Vector registers -/

/-- The default of the vector registers. -/
def vregDefault : Nat → BitVec 512 := fun _ => 0
/-- Element `i` of `w` bits in the register group at `r`. -/
def Core.elem (x : Core) (r i w : Nat) : Nat :=
  (SMap.get vregDefault x.v ((r + i * w / 512) % 32)).toNat / 2 ^ (i * w % 512) % 2 ^ w
/-- Write an element. -/
def Core.setElem (x : Core) (r i w v : Nat) : Core :=
  let k := (r + i * w / 512) % 32
  let lo := i * w % 512
  let r' := setBits (SMap.get vregDefault x.v k).toNat (lo + w - 1) lo (v % 2 ^ w)
  { x with v := SMap.set vregDefault x.v k (BitVec.ofNat 512 r') }
/-- SEW of vtype; none where vill is set or the width exceeds ELEN. -/
def Core.sew (x : Core) : Option Nat :=
  if bit x.vtype 63 ∨ 3 < bits x.vtype 5 3 then none else some (8 * 2 ^ bits x.vtype 5 3)
/-- Eight times LMUL. -/
def lmul8 (vtype : Nat) : Nat :=
  match bits vtype 2 0 with
  | 0 => 8
  | 1 => 16
  | 2 => 32
  | 3 => 64
  | 5 => 1
  | 6 => 2
  | 7 => 4
  | _ => 0
/-- VLMAX of a vtype. -/
def vlmax (vtype : Nat) : Nat := 512 / (8 * 2 ^ bits vtype 5 3) * lmul8 vtype / 8
/-- The registers that a group of elements of `eew` bits takes. -/
def Core.regs (x : Core) (sew eew : Nat) : Nat := max 1 (lmul8 x.vtype * eew / sew / 8)
/-- A register number begins a group of `n`. -/
def alignedTo (r : Fin 32) (n : Nat) : Bool := r.val % max 1 n == 0
/-- Bit `i` of a mask register. -/
def Core.maskBit (x : Core) (r i : Nat) : Bool := x.elem r i 1 == 1
/-- The elements that a vector instruction works on: from vstart to vl, those of the mask. -/
def Core.active (x : Core) (m : Bool) : List Nat :=
  (List.range x.vl).filter fun i => decide (x.vctl 8 ≤ i) && (!m || x.maskBit 0 i)
/-- Write the results of the listed elements; their flags accrue. -/
def Core.fill (x : Core) (vd w : Nat) (l : List Nat) (f : Nat → Nat × Nat) : Core :=
  l.foldl (fun y i => (y.setElem vd i w (f i).1).accrue (f i).2) x
/-- Write the listed bits of a mask register. -/
def Core.fillMask (x : Core) (vd : Nat) (l : List Nat) (f : Nat → Bool × Nat) : Core :=
  l.foldl (fun y i => (y.setElem vd i 1 (b2n (f i).1)).accrue (f i).2) x
/-- A vector instruction on SEW: illegal with vill; it leaves vstart at 0. -/
def Hart.vec (h : Hart) (ok : Nat → Bool) (f : Core → Nat → Core) : Hart :=
  match h.core.sew with
  | some w => if ok w then h.mod fun x => (f x w).setVctl 8 0 else h.illegal
  | none => h.illegal
/-- The bits of a right-hand operand for element `i` of `w` bits. -/
def Core.rhs (x : Core) (i w : Nat) : VRhs → Nat
  | .v r => x.elem r i w
  | .x r => x.getX r % 2 ^ w
  | .i n => wrapInt w n
  | .f r => x.getF (w == 64) r % 2 ^ w
/-- The widths of result, left and right operand of a form. -/
def formWidths (w : Nat) : VForm → Nat × Nat × Nat
  | .same => (w, w, w)
  | .wide => (2 * w, w, w)
  | .wideLeft => (2 * w, 2 * w, w)
  | .narrow => (w, 2 * w, w)
/-- The widths of a form exist and its groups are aligned. -/
def Core.formOk (x : Core) (form : VForm) (w : Nat) (vd vs2 : Fin 32) (b : VRhs) : Bool :=
  let (wd, wl, wr) := formWidths w form
  decide (wd ≤ 64 ∧ wl ≤ 64) && alignedTo vd (x.regs w wd) && alignedTo vs2 (x.regs w wl)
    && (match b with
        | .v r => alignedTo r (x.regs w wr)
        | _ => true)
/-- SEW is one that floating point has, twice it where a form widens. -/
def fpSew (w wd : Nat) : Bool := (w == 32 || w == 64) && (wd == 32 || wd == 64)
/-- A floating-point value of `w` bits at FP64 or as it is. -/
def widenFp (w wd v : Nat) : Nat × Nat :=
  if w = wd then (v, 0) else ((fpFinish true .rne [] (fpVal false v)).1, flagNV (isSNan false v))

/-- Integer operations. -/
def vintOp (op : VInt) (form : VForm) (sa sb : Bool) (vd vs2 : Fin 32) (b : VRhs) (m : Bool) (x : Core) (w : Nat) : Core :=
  let (wd, wl, wr) := formWidths w form
  let r := fun i => vintBits op sa wd (if form = .narrow then wl else w) (x.vctl 10) (intOf sa wl (x.elem vs2 i wl))
    (intOf sb wr (x.rhs i wr b))
  let l := x.active m
  let y := x.fill vd wd l fun i => ((r i).1, 0)
  if l.any fun i => (r i).2 then y.setVctl 9 1 else y
/-- Multiply-add: the product of vs2 and the right-hand operand with vd added, or of vd and the operand with vs2 added. -/
def vmacOp (neg addend wide sa sb : Bool) (vd vs2 : Fin 32) (b : VRhs) (m : Bool) (x : Core) (w : Nat) : Core :=
  let wd := if wide then 2 * w else w
  x.fill vd wd (x.active m) fun i =>
    let p : Int := intOf sb w (x.rhs i w b) * (if addend then intOf sa w (x.elem vs2 i w) else intOf sa w (x.elem vd i w))
    let c : Int := if addend then x.elem vd i wd else x.elem vs2 i wd
    (wrapInt wd ((if neg then -p else p) + c), 0)
/-- A comparison or carry of element `i`. -/
def vcmpBit (c : VCmp) (signed : Bool) (w a b : Nat) (cin : Nat) : Bool :=
  let x := intOf signed w a; let y := intOf signed w b
  match c with
  | .eq => a == b
  | .ne => a != b
  | .lt => decide (x < y)
  | .le => decide (x ≤ y)
  | .gt => decide (y < x)
  | .carry => decide (2 ^ w ≤ a + b + cin)
  | .borrow => decide (a < b + cin)
/-- Comparisons, carries and borrows; a carry's mask operand is the carry in, and all its elements are active. -/
def vcmpOp (c : VCmp) (signed : Bool) (vd vs2 : Fin 32) (b : VRhs) (m : Bool) (x : Core) (w : Nat) : Core :=
  let cin := c == .carry || c == .borrow
  x.fillMask vd (x.active (m && !cin)) fun i =>
    (vcmpBit c signed w (x.elem vs2 i w) (x.rhs i w b) (b2n (cin && m && x.maskBit 0 i)), 0)
/-- A floating-point operation of two operands. -/
def vfpOne (op : VFp) (dbl : Bool) (rm : CoreRound) (a b : Nat) : Nat × Nat :=
  match op with
  | .add => fpOp .add dbl rm a b
  | .sub => fpOp .sub dbl rm a b
  | .rsub => fpOp .sub dbl rm b a
  | .mul => fpOp .mul dbl rm a b
  | .div => fpOp .div dbl rm a b
  | .rdiv => fpOp .div dbl rm b a
  | .min => fpOp .min dbl rm a b
  | .max => fpOp .max dbl rm a b
  | .sgnj => fpOp .sgnj dbl rm a b
  | .sgnjn => fpOp .sgnjn dbl rm a b
  | .sgnjx => fpOp .sgnjx dbl rm a b
/-- Floating-point operations of vectors. -/
def vfpOps (op : VFp) (form : VForm) (vd vs2 : Fin 32) (b : VRhs) (m : Bool) (rm : CoreRound) (x : Core) (w : Nat) : Core :=
  let (wd, wl, wr) := formWidths w form
  x.fill vd wd (x.active m) fun i =>
    let p := widenFp wl wd (x.elem vs2 i wl)
    let q := widenFp wr wd (x.rhs i wr b)
    let r := vfpOne op (wd == 64) rm p.1 q.1
    (r.1, r.2 ||| p.2 ||| q.2)
/-- Fused multiply-adds of vectors, with vd or vs2 added. -/
def vfmacOps (negProd negAdd addend wide : Bool) (vd vs2 : Fin 32) (b : VRhs) (m : Bool) (rm : CoreRound) (x : Core) (w : Nat) :
    Core :=
  let wd := if wide then 2 * w else w
  x.fill vd wd (x.active m) fun i =>
    let p := widenFp w wd (x.rhs i w b)
    let q := if addend then widenFp w wd (x.elem vs2 i w) else (x.elem vd i wd, 0)
    let r := fpFma negProd negAdd (wd == 64) rm p.1 q.1 (if addend then x.elem vd i wd else x.elem vs2 i wd)
    (r.1, r.2 ||| p.2 ||| q.2)
/-- A floating-point comparison of an element. -/
def vfcmpBit (c : VFCmp) (dbl : Bool) (a b : Nat) : Bool × Nat :=
  match c with
  | .eq => fpCompare .eq dbl a b
  | .ne => let r := fpCompare .eq dbl a b
           (!r.1, r.2)
  | .lt => fpCompare .lt dbl a b
  | .le => fpCompare .le dbl a b
  | .gt => fpCompare .lt dbl b a
  | .ge => fpCompare .le dbl b a
/-- A conversion of an element from `ws` to `wd` bits. -/
def vconvOne (k : VConv) (unsigned : Bool) (rm : CoreRound) (ws wd v : Nat) : Nat × Nat :=
  match k with
  | .toInt => fpToInt wd unsigned rm (fpVal (ws == 64) v)
  | .fromInt => fpRound (wd == 64) rm (FVal.ofInt (intOf (!unsigned) ws v))
  | .toFp => fpRound (wd == 64) rm (fpVal (ws == 64) v)
/-- The flags that a conversion between floating-point widths adds for a signaling NaN. -/
def vconvNv (k : VConv) (ws v : Nat) : Nat := if k = .toFp then flagNV (isSNan (ws == 64) v) else 0
/-- An integer reduction's step. -/
def vredStep (op : VRed) (signed : Bool) (w a b : Nat) : Nat :=
  match op with
  | .sum => (a + b) % 2 ^ w
  | .and => a &&& b
  | .or => a ||| b
  | .xor => a ^^^ b
  | .min => if intOf signed w a ≤ intOf signed w b then a else b
  | .max => if intOf signed w a ≤ intOf signed w b then b else a
/-- Integer reductions: element 0 of vs1 with the active elements of vs2. -/
def vredOp (op : VRed) (wide signed : Bool) (vd vs2 vs1 : Fin 32) (m : Bool) (x : Core) (w : Nat) : Core :=
  let wd := if wide then 2 * w else w
  if x.vl = 0 then x
  else x.setElem vd 0 wd ((x.active m).foldl (fun a i => vredStep op signed wd a (wrapInt wd (intOf signed w (x.elem vs2 i w))))
    (x.elem vs1 0 wd))
/-- Floating-point reductions (R84): sums, ordered or not, in increasing element order, one rounding per addition. -/
def vfredOp (op : VFRed) (wide : Bool) (vd vs2 vs1 : Fin 32) (m : Bool) (rm : CoreRound) (x : Core) (w : Nat) : Core :=
  let wd := if wide then 2 * w else w
  let step := fun (a : Nat × Nat) (i : Nat) =>
    let p := widenFp w wd (x.elem vs2 i w)
    let r := match op with
      | .osum => fpOp .add (wd == 64) rm a.1 p.1
      | .usum => fpOp .add (wd == 64) rm a.1 p.1
      | .min => fpOp .min (wd == 64) rm a.1 p.1
      | .max => fpOp .max (wd == 64) rm a.1 p.1
    (r.1, a.2 ||| r.2 ||| p.2)
  if x.vl = 0 then x
  else
    let r := (x.active m).foldl step (x.elem vs1 0 wd, 0)
    (x.setElem vd 0 wd r.1).accrue r.2
/-- An operation on mask bits. -/
def vmaskBit (op : VMaskOp) (a b : Bool) : Bool :=
  match op with
  | .and => a && b
  | .nand => !(a && b)
  | .andn => a && !b
  | .or => a || b
  | .nor => !(a || b)
  | .orn => a || !b
  | .xor => a ^^ b
  | .xnor => !(a ^^ b)
/-- The mask operations that go by the first set bit of vs2 among the active elements. -/
def vfirstOp (k : VFirst) (vd vs2 : Fin 32) (m : Bool) (x : Core) : Core :=
  let l := x.active m
  let first := l.find? fun i => x.maskBit vs2 i
  x.fillMask vd l fun i => (match first with
    | some j => (match k with
      | .before => decide (i < j)
      | .incl => decide (i ≤ j)
      | .only => i == j)
    | none => k != .only, 0)
/-- The distance of a slide or the index of a gather from a scalar operand. -/
def Core.rhsNat (x : Core) (w : Nat) : VRhs → Nat
  | .x r => x.getX r
  | .i n => n.toNat
  | b => x.rhs 0 w b
/-- Slides: up leaves the elements below the distance; down fills with zeros past VLMAX. -/
def vslideOp (up : Bool) (vd vs2 : Fin 32) (b : VRhs) (m : Bool) (x : Core) (w : Nat) : Core :=
  let d := x.rhsNat w b
  let src := fun j => if j < vlmax x.vtype then x.elem vs2 j w else 0
  x.fill vd w ((x.active m).filter fun i => !up || decide (d ≤ i)) fun i => (if up then x.elem vs2 (i - d) w else src (i + d), 0)
/-- Slides by one that take a scalar in. -/
def vslide1Op (up : Bool) (vd vs2 : Fin 32) (b : VRhs) (m : Bool) (x : Core) (w : Nat) : Core :=
  x.fill vd w (x.active m) fun i =>
    (if up then (if i = 0 then x.rhs 0 w b else x.elem vs2 (i - 1) w)
     else if i + 1 = x.vl then x.rhs 0 w b else x.elem vs2 (i + 1) w, 0)
/-- Gathers: an index at or past VLMAX gives zero. -/
def vgatherOp (idx16 : Bool) (vd vs2 : Fin 32) (b : VRhs) (m : Bool) (x : Core) (w : Nat) : Core :=
  x.fill vd w (x.active m) fun i =>
    let j := match b with
      | .v r => x.elem r i (if idx16 then 16 else w)
      | _ => x.rhsNat w b
    (if j < vlmax x.vtype then x.elem vs2 j w else 0, 0)
/-- The elements of vs2 that mask vs1 selects, packed. -/
def vcompressOp (vd vs2 vs1 : Fin 32) (x : Core) (w : Nat) : Core :=
  let l := (List.range x.vl).filter fun i => x.maskBit vs1 i
  l.zipIdx.foldl (fun y e => y.setElem vd e.2 w (x.elem vs2 e.1 w)) x
/-- vset{i}vl{i}: the vector type and length. An unsupported type sets vill; the length is the application's where it fits. -/
def Core.vset (x : Core) (rd : Fin 32) (avl : Option CoreSrc) (vt : Nat) : Core :=
  let ok := vt < 256 && decide (bits vt 5 3 ≤ 3) && decide (lmul8 vt ≠ 0) && decide (8 * 2 ^ bits vt 5 3 * 8 ≤ 64 * lmul8 vt)
  let vt' := if ok then vt else 2 ^ 63
  let vl := if !ok then 0 else match avl with
    | some a => min (x.src a) (vlmax vt)
    | none => if rd = 0 then min x.vl (vlmax vt) else vlmax vt
  ({ x with vtype := vt', vl := vl }.setVctl 8 0).setX rd vl

/-! ### Vector loads and stores -/

/-- The memory accesses of a vector load or store that goes by elements: address, element, field. -/
def Core.places (x : Core) (base : Nat) (mode : VMode) (ew nf : Nat) (m : Bool) : List (Nat × Nat × Nat) :=
  (x.active m).flatMap fun i => (List.range nf).map fun f =>
    let start := match mode with
      | .strided r => base + wrapInt 64 ((i : Int) * signedOf 64 (x.getX r))
      | .indexed v eew => base + x.elem v i eew
      | _ => base + i * nf * (ew / 8)
    ((start + f * (ew / 8)) % 2 ^ 64, i, f)
/-- The width of the data elements: that of the instruction, or SEW where the index has it. -/
def dataWidth (mode : VMode) (eew sew : Nat) : Nat :=
  match mode with
  | .indexed _ _ => sew
  | _ => eew
/-- Loads of elements one after the other; a fault-only-first load shortens vl where an element past the first would trap. -/
def Hart.loadElems (h : Hart) (vd g ew : Nat) (ff : Bool) : List (Nat × Nat × Nat) → Hart
  | [] => h
  | (addr, i, f) :: r =>
    let (h1, bs) := h.load addr (ew / 8)
    match h1.stop with
    | .go => (h1.mod fun x => x.setElem (vd + f * g) i ew (leNat bs)).loadElems vd g ew ff r
    | .trap _ _ _ => if ff && i != 0 then { h1 with stop := .go }.mod fun x => { x with vl := i } else h1
    | .ended => h1
/-- Stores of elements one after the other. -/
def Hart.storeElems (h : Hart) (vs g ew : Nat) : List (Nat × Nat × Nat) → Hart
  | [] => h
  | (addr, i, f) :: r => (h.store addr (leBytes (ew / 8) (h.core.elem (vs + f * g) i ew))).andThen fun g1 => g1.storeElems vs g ew r
/-- Stores of bytes in accesses of at most 64 B within one line (Table 4-5). -/
def Hart.storePieces (h : Hart) : List (Nat × List Byte) → Hart
  | [] => h
  | (addr, bs) :: r => (h.store addr bs).andThen fun g => g.storePieces r
/-- The bytes of registers from `r` on. -/
def Core.regBytes (x : Core) (r n : Nat) : List Byte :=
  (List.range n).map fun i => BitVec.ofNat 8 (x.elem r i 8)
/-- Loads of whole registers or a mask. -/
def Hart.loadBytes (h : Hart) (vd addr n : Nat) : Hart :=
  let (h1, bs) := h.load addr n
  h1.andThen fun g => g.mod fun x => bs.zipIdx.foldl (fun y e => y.setElem vd e.2 8 e.1.toNat) x
/-- A vector load. -/
def Hart.vload (h : Hart) (vd rs1 : Fin 32) (mode : VMode) (eew nf : Nat) (m : Bool) : Hart :=
  let x := h.core
  let a := x.getX rs1
  match mode, x.sew with
  | .whole n, _ => h.loadBytes vd a (64 * n)
  | _, none => h.illegal
  | .maskBits, some _ => (h.loadBytes vd a ((x.vl + 7) / 8)).andThen fun g => g.mod fun y => y.setVctl 8 0
  | _, some w =>
    let ew := dataWidth mode eew w
    let g := x.regs w ew
    h.need (alignedTo vd g && decide (nf * g ≤ 8)) fun h1 =>
      (h1.loadElems vd g ew (mode == .faultFirst) (x.places a mode ew nf m)).andThen fun h2 => h2.mod fun y => y.setVctl 8 0
/-- A vector store; a store of consecutive elements without a mask goes in accesses of up to 64 B. -/
def Hart.vstore (h : Hart) (vs rs1 : Fin 32) (mode : VMode) (eew nf : Nat) (m : Bool) : Hart :=
  let x := h.core
  let a := x.getX rs1
  match mode, x.sew with
  | .whole n, _ => h.storePieces (cwPieces a (x.regBytes vs (64 * n)))
  | _, none => h.illegal
  | .maskBits, some _ =>
    (h.storePieces (cwPieces a (x.regBytes vs ((x.vl + 7) / 8)))).andThen fun g => g.mod fun y => y.setVctl 8 0
  | _, some w =>
    let ew := dataWidth mode eew w
    let g := x.regs w ew
    h.need (alignedTo vs g && decide (nf * g ≤ 8)) fun h1 =>
      (if mode = .unit ∧ nf = 1 ∧ !m ∧ x.vctl 8 = 0 then h1.storePieces (cwPieces a (x.regBytes vs (x.vl * ew / 8)))
       else h1.storeElems vs g ew (x.places a mode ew nf m)).andThen fun h2 => h2.mod fun y => y.setVctl 8 0

/-! ### Instructions -/

/-- The size of an access in bytes. -/
def accSize (n : Fin 4) : Nat := 2 ^ n.val
/-- The width of a word or doubleword. -/
def wordBits (dbl : Bool) : Nat := if dbl then 64 else 32
/-- A jump to an address; bit 0 of a target register is dropped. -/
def Hart.jump (h : Hart) (target : Nat) : Hart := h.mod fun x => { x with pc := target % 2 ^ 64 }
/-- An atomic memory operation's address is aligned, else it traps with the address. -/
def Hart.aligned (h : Hart) (addr n cause : Nat) (f : Hart → Hart) : Hart :=
  if addr % n = 0 then f h else { h with stop := .trap 0xA addr cause }
/-- A store-conditional succeeds at most where the reservation covers it; whether it does is free, since another unit may have
written there (log entry 186). -/
def Hart.storeCond (h : Hart) (dbl : Bool) (rd : Fin 32) (addr v : Nat) : Hart :=
  let (b, s1) := h.s.drawBool
  let n := wordBits dbl / 8
  let h1 := { h with s := s1 }
  if h1.core.resv = some (addr, n) ∧ b then
    ((h1.store addr (leBytes n v)).andThen fun g => g.mod fun x => x.setX rd 0).mod fun x => { x with resv := none }
  else h1.mod fun x => { (x.setX rd 1) with resv := none }
/-- A floating-point vector instruction: SEW one of floating point's, the rounding mode of fcsr legal. -/
def Hart.vecFp (h : Hart) (rm : CoreRound) (ok : Core → Nat → Bool) (f : CoreRound → Core → Nat → Core) : Hart :=
  match h.core.round rm with
  | some r => h.vec (fun w => ok h.core w) (f r)
  | none => h.illegal

/-- The effect of an instruction besides the advance of the pc. -/
def Hart.run (h : Hart) (next : Nat) : CoreOp → Hart
  | .alu op w rd rs1 b => h.mod fun x => x.setX rd (aluCore op w (x.getX rs1) (x.src b))
  | .lui rd imm => h.mod fun x => x.setX rd (wrapInt 64 imm)
  | .auipc rd imm => h.mod fun x => x.setX rd (wrapInt 64 ((h.core.pc : Int) + imm))
  | .jal rd off => (h.mod fun x => x.setX rd next).jump (wrapInt 64 ((h.core.pc : Int) + off))
  | .jalr rd rs1 off =>
    (h.mod fun x => x.setX rd next).jump (wrapInt 64 ((h.core.getX rs1 : Int) + off) / 2 * 2)
  | .branch c rs1 rs2 off =>
    if branchTaken c (h.core.getX rs1) (h.core.getX rs2) then h.jump (wrapInt 64 ((h.core.pc : Int) + off)) else h
  | .load rd rs1 off size signed =>
    h.loadTo (wrapInt 64 ((h.core.getX rs1 : Int) + off)) (accSize size) fun v x =>
      x.setX rd (wrapInt 64 (intOf signed (8 * accSize size) v))
  | .store rs2 rs1 off size =>
    h.store (wrapInt 64 ((h.core.getX rs1 : Int) + off)) (leBytes (accSize size) (h.core.getX rs2))
  | .lr dbl rd rs1 =>
    let a := h.core.getX rs1
    h.aligned a (wordBits dbl / 8) 4 fun g => g.loadTo a (wordBits dbl / 8) fun v x =>
      { (x.setX rd (wrapInt 64 (signedOf (wordBits dbl) v))) with resv := some (a, wordBits dbl / 8) }
  | .sc dbl rd rs1 rs2 =>
    h.aligned (h.core.getX rs1) (wordBits dbl / 8) 6 fun g => g.storeCond dbl rd (h.core.getX rs1) (h.core.getX rs2)
  | .amo op dbl rd rs1 rs2 =>
    let a := h.core.getX rs1
    let n := wordBits dbl / 8
    h.aligned a n 6 fun g =>
      let (g1, bs) := g.load a n
      g1.andThen fun g2 =>
        (g2.store a (leBytes n (amoBits (wordBits dbl) op (leNat bs) (h.core.getX rs2)))).andThen fun g3 =>
          g3.mod fun x => x.setX rd (wrapInt 64 (signedOf (wordBits dbl) (leNat bs)))
  | .fence => h
  | .mret => if h.core.machine then h.mod Core.mret else h.illegal
  | .wfi => h
  | .fenceI => h.mod fun x => { x with icache := [] }
  | .csr op rd n src writes => h.csr op rd n src writes
  | .fload dbl rd rs1 off =>
    h.loadTo (wrapInt 64 ((h.core.getX rs1 : Int) + off)) (wordBits dbl / 8) fun v x => x.setF dbl rd v
  | .fstore dbl rs2 rs1 off =>
    h.store (wrapInt 64 ((h.core.getX rs1 : Int) + off)) (leBytes (wordBits dbl / 8) (h.core.getF true rs2))
  | .fp op dbl rm rd rs1 rs2 => h.fpTo rm dbl rd fun r => fpOp op dbl r (h.core.getF dbl rs1) (h.core.getF dbl rs2)
  | .fma np na dbl rm rd rs1 rs2 rs3 =>
    h.fpTo rm dbl rd fun r => fpFma np na dbl r (h.core.getF dbl rs1) (h.core.getF dbl rs2) (h.core.getF dbl rs3)
  | .fcmp c dbl rd rs1 rs2 =>
    h.fpToX .rne rd fun _ => let r := fpCompare c dbl (h.core.getF dbl rs1) (h.core.getF dbl rs2)
                             (b2n r.1, r.2)
  | .fclass dbl rd rs1 => h.mod fun x => x.setX rd (fpClass dbl (x.getF dbl rs1))
  | .fToInt dbl w uns rm rd rs1 =>
    h.fpToX rm rd fun r => let q := fpToInt (wordBits (!w)) uns r (fpVal dbl (h.core.getF dbl rs1))
                           (wrapInt 64 (signedOf (wordBits (!w)) q.1), q.2)
  | .fFromInt dbl w uns rm rd rs1 =>
    h.fpTo rm dbl rd fun r => fpRound dbl r (FVal.ofInt (intOf (!uns) (wordBits (!w)) (h.core.getX rs1)))
  | .fCvt toDbl rm rd rs1 =>
    h.fpTo rm toDbl rd fun r =>
      let v := h.core.getF (!toDbl) rs1
      let q := fpRound toDbl r (fpVal (!toDbl) v)
      (q.1, q.2 ||| flagNV (isSNan (!toDbl) v))
  | .fmvX dbl rd rs1 =>
    h.mod fun x => x.setX rd (wrapInt 64 (signedOf (wordBits dbl) (x.getF true rs1 % 2 ^ wordBits dbl)))
  | .fmvF dbl rd rs1 => h.mod fun x => x.setF dbl rd (x.getX rs1)
  | .vset rd avl vt => h.mod fun x => x.vset rd avl (x.src vt)
  | .vload vd rs1 mode eew nf m => h.vload vd rs1 mode eew nf m
  | .vstore vs rs1 mode eew nf m => h.vstore vs rs1 mode eew nf m
  | .vint op form sa sb vd vs2 b m => h.vec (fun w => h.core.formOk form w vd vs2 b) (vintOp op form sa sb vd vs2 b m)
  | .vadc sub vd vs2 b => h.vec (fun w => h.core.formOk .same w vd vs2 b) fun x w =>
      x.fill vd w (x.active false) fun i =>
        let c : Int := b2n (x.maskBit 0 i)
        let r : Int := (x.rhs i w b : Int) + c
        (wrapInt w (if sub then (x.elem vs2 i w : Int) - r else (x.elem vs2 i w : Int) + r), 0)
  | .vmac neg addend wide sa sb vd vs2 b m =>
    h.vec (fun w => h.core.formOk (if wide then .wide else .same) w vd vs2 b) (vmacOp neg addend wide sa sb vd vs2 b m)
  | .vcmp c signed vd vs2 b m =>
    h.vec (fun w => alignedTo vs2 (h.core.regs w w)) (vcmpOp c signed vd vs2 b m)
  | .vmerge vd vs2 b => h.vec (fun w => h.core.formOk .same w vd vs2 b) fun x w =>
      x.fill vd w (x.active false) fun i => (if x.maskBit 0 i then x.rhs i w b else x.elem vs2 i w, 0)
  | .vmv vd b => h.vec (fun w => alignedTo vd (h.core.regs w w)) fun x w =>
      x.fill vd w (x.active false) fun i => (x.rhs i w b, 0)
  | .vext signed frac vd vs2 m => h.vec (fun w => alignedTo vd (h.core.regs w w) && decide (8 * frac ≤ w)) fun x w =>
      x.fill vd w (x.active m) fun i => (wrapInt w (intOf signed (w / frac) (x.elem vs2 i (w / frac))), 0)
  | .vfp op form vd vs2 b m =>
    h.vecFp .dyn (fun x w => x.formOk form w vd vs2 b && fpSew w (formWidths w form).1) (vfpOps op form vd vs2 b m)
  | .vfmac np na addend wide vd vs2 b m =>
    h.vecFp .dyn (fun x w => x.formOk (if wide then .wide else .same) w vd vs2 b && fpSew w (if wide then 2 * w else w))
      (vfmacOps np na addend wide vd vs2 b m)
  | .vfcmp c vd vs2 b m => h.vecFp .dyn (fun x w => alignedTo vs2 (x.regs w w) && fpSew w w) fun _ x w =>
      x.fillMask vd (x.active m) fun i => vfcmpBit c (w == 64) (x.elem vs2 i w) (x.rhs i w b)
  | .vfun op vd vs2 m => h.vecFp .dyn (fun x w => x.formOk .same w vd vs2 (.i 0) && fpSew w w) fun r x w =>
      x.fill vd w (x.active m) fun i => fpUnary op (w == 64) r (x.elem vs2 i w)
  | .vconv k form uns rm vd vs2 m =>
    h.vecFp rm (fun x w => x.formOk form w vd vs2 (.i 0)
      && fpSew (if k = .fromInt then (formWidths w form).1 else (formWidths w form).2.1) (if k = .toInt then 32 else (formWidths w form).1))
      fun r x w =>
        let (wd, wl, _) := formWidths w form
        x.fill vd wd (x.active m) fun i =>
          let q := vconvOne k uns r wl wd (x.elem vs2 i wl)
          (q.1, q.2 ||| vconvNv k wl (x.elem vs2 i wl))
  | .vred op wide signed vd vs2 vs1 m =>
    h.vec (fun w => alignedTo vs2 (h.core.regs w w) && (!wide || decide (w < 64))) (vredOp op wide signed vd vs2 vs1 m)
  | .vfred op wide vd vs2 vs1 m =>
    h.vecFp .dyn (fun x w => alignedTo vs2 (x.regs w w) && fpSew w (if wide then 2 * w else w)) (vfredOp op wide vd vs2 vs1 m)
  | .vmask op vd vs2 vs1 => h.vec (fun _ => true) fun x _ =>
      x.fillMask vd (x.active false) fun i => (vmaskBit op (x.maskBit vs2 i) (x.maskBit vs1 i), 0)
  | .vfirst k vd vs2 m => h.vec (fun _ => h.core.vctl 8 == 0) fun x _ => vfirstOp k vd vs2 m x
  | .vcpop rd vs2 m => h.vec (fun _ => h.core.vctl 8 == 0) fun x _ =>
      x.setX rd ((x.active m).filter fun i => x.maskBit vs2 i).length
  | .vffirst rd vs2 m => h.vec (fun _ => h.core.vctl 8 == 0) fun x _ =>
      x.setX rd (match (x.active m).find? fun i => x.maskBit vs2 i with
        | some i => i
        | none => 2 ^ 64 - 1)
  | .viota vd vs2 m => h.vec (fun w => alignedTo vd (h.core.regs w w) && h.core.vctl 8 == 0) fun x w =>
      x.fill vd w (x.active m) fun i => (((x.active m).filter fun j => decide (j < i) && x.maskBit vs2 j).length, 0)
  | .vid vd m => h.vec (fun w => alignedTo vd (h.core.regs w w)) fun x w => x.fill vd w (x.active m) fun i => (i, 0)
  | .vmvXS rd vs2 => h.vec (fun _ => true) fun x w => x.setX rd (wrapInt 64 (signedOf w (x.elem vs2 0 w)))
  | .vmvSX vd rs1 => h.vec (fun _ => true) fun x w => if x.vctl 8 < x.vl then x.setElem vd 0 w (x.getX rs1) else x
  | .vmvFS rd vs2 => h.vec (fun w => fpSew w w) fun x w => x.setF (w == 64) rd (x.elem vs2 0 w)
  | .vmvSF vd rs1 => h.vec (fun w => fpSew w w) fun x w =>
      if x.vctl 8 < x.vl then x.setElem vd 0 w (x.getF (w == 64) rs1) else x
  | .vmvNr n vd vs2 => h.need (alignedTo vd n && alignedTo vs2 n) fun g =>
      g.mod fun x => ((List.range n).foldl (fun y j => y.setElem (vd + j) 0 512 (x.elem (vs2 + j) 0 512)) x).setVctl 8 0
  | .vslide up vd vs2 b m => h.vec (fun w => h.core.formOk .same w vd vs2 (.i 0)) (vslideOp up vd vs2 b m)
  | .vslide1 up vd vs2 b m => h.vec (fun w => h.core.formOk .same w vd vs2 (.i 0)) (vslide1Op up vd vs2 b m)
  | .vgather idx16 vd vs2 b m => h.vec (fun w => h.core.formOk .same w vd vs2 (.i 0)) (vgatherOp idx16 vd vs2 b m)
  | .vcompress vd vs2 vs1 => h.vec (fun w => h.core.formOk .same w vd vs2 (.i 0) && h.core.vctl 8 == 0) (vcompressOp vd vs2 vs1)

/-- The unit that an instruction needs is on: FS of mstatus for floating point, VS for vectors. -/
def Core.unitOn (x : Core) (i : CoreOp) : Bool :=
  let st := x.getM 0x300
  (!i.isFp || bits st 14 13 != 0) && (!i.isVec || bits st 10 9 != 0)
/-- An instruction that changes the flow sets the pc itself. -/
def Hart.jumps (h : Hart) : CoreOp → Bool
  | .jal _ _ => true
  | .jalr _ _ _ => true
  | .mret => true
  | .branch c rs1 rs2 _ => branchTaken c (h.core.getX rs1) (h.core.getX rs2)
  | _ => false
/-- One instruction: it is fetched, executed, and the pc goes on. -/
def Hart.step (h : Hart) (i : CoreAct) : Hart :=
  ({ h with obs := i.obs, par := i.dParity, up := i.up }.fetch i.iParity).andThen fun g =>
    let next := wrapInt 64 ((g.core.pc : Int) + if i.short then 2 else 4)
    (g.need (g.core.unitOn i.op) fun u => u.run next i.op).andThen fun k => if g.jumps i.op then k else k.jump next
/-- Instructions in turn, up to the first that ends the task. -/
def Hart.steps (h : Hart) : List CoreAct → Hart
  | [] => h
  | i :: r => match (h.step i).stop with
    | .go => (h.step i).steps r
    | _ => h.step i

end Sys2Proof.Machine
end

