-- ==== Sys2Proof/Machine/Tasks.lean ====
section
/-!
DEFINITION. Preparer tasks: the task queue, the dispatch to the first free core, and how a task ends (R83 to R90).
-/
namespace Sys2Proof.Machine

/-- Core `k` of accord `a`. -/
def State.coreAt (s : State) (a : Nat) (k : Fin 4) : Core := (s.accAt a).cores[k.val]
/-- Change a core. -/
def State.modCore (s : State) (a : Nat) (k : Fin 4) (f : Core → Core) : State :=
  s.modAcc a fun A => { A with cores := A.cores.set k.val (f A.cores[k.val]) }
/-- What a core runs. -/
def State.taskOn (s : State) (a : Nat) (k : Fin 4) : Option Running := (s.coreAt a k).run

/-- A core took its task in cycle `t`. -/
def Core.tookAt (t : Int) (x : Core) : Bool :=
  match x.run with
  | some r => r.at_ == t
  | none => false
/-- The occupancy of the task queue at the start of cycle `t` (R88): what was pushed earlier, with what is dispatched in
this cycle. -/
def State.taskOcc (s : State) (a : Nat) (t : Int) : Nat :=
  ((s.accAt a).tasks.filter fun e => decide (e.2 < t)).length + ((s.accAt a).cores.toList.filter (Core.tookAt t)).length

/-- TASK_PUSH (R88): a push into a full task queue is a program fault. -/
def execTaskPush (h : Issue) (d : TaskDesc) (s : State) : Host.Outcome State Fault Refusal :=
  engineIssue h 0 (unitId 6 h.acc) (fun s x => detIf (decide (16 ≤ s.taskOcc h.acc x.t)) 8 0 kQueueFull)
    (fun s x => s.modAcc h.acc fun A => { A with tasks := A.tasks ++ [(d, (x.t : Int))] }) s

/-- The lowest-numbered core of an accord that is free and not fenced. -/
def State.freeCore (s : State) (a : Nat) : Option (Fin 4) :=
  [0, 1, 2, 3].find? fun k : Fin 4 => (s.taskOn a k).isNone && !s.coreFenced a k
/-- A core has taken a task in cycle `t`. -/
def State.dispatchedAt (s : State) (a : Nat) (t : Int) : Bool := (s.accAt a).cores.toList.any (Core.tookAt t)

/-- The monitor starts a task in user mode (R84, R86, Table 4-6): ENTRY, the argument in a0, TASK_SEQ in a1, the stack pointer;
both caches are invalid. It has set the physical memory protection from the context's windows `win`, and its mret enters user mode
with the floating-point and vector units on. Every other register is zero, so that a task's bits never depend on the core (R88, log entry 187). -/
def Core.start (d : TaskDesc) (t : Int) (win : Nat × Nat) : Core :=
  let x : Core := { Core.reset with run := some ⟨d, t⟩ }
  ((((x.setX 10 d.arg).setX 11 d.taskSeq).setX 2 d.stack).protect win |>.setM 0x341 d.entry |>.setM 0x300 0x6600).mret
/-- The dispatch of the oldest task in cycle `t` (R88). -/
def State.dispatch (s : State) (a t : Nat) : State :=
  if s.dispatchedAt a t then s
  else match (s.accAt a).tasks, s.freeCore a with
    | (d, at_) :: r, some k =>
      let s1 := (s.modAcc a fun A => { A with tasks := r }).modCore a k fun _ => Core.start d t ((s.ctxAt d.ctx).heartSize, (s.ctxAt d.ctx).baseSize)
      let s2 := (s1.bump kTasksDispatched 1).bump (kTasksRun (4 * a + k)) 1
      (s2.raiseMax kMaxDispatchWait (t - at_).toNat).odSet (kCoreState (4 * a + k)) 1
    | _, _ => s

/-- The token queue that a freeze may wait for at the queue's oldest task (R111). -/
def State.headTokq (s : State) (a : Nat) : Nat :=
  match (s.accAt a).tasks with
  | (d, _) :: _ => d.tokq
  | [] => 0
/-- TASK_DISPATCH (R88, R90): also between two steps of the context. -/
def execTaskDispatch (acc : Fin 16) (cyc : Nat) (s : State) : Host.Outcome State Fault Refusal :=
  .next (match s.coreHost acc (s.headTokq acc) with
    | some (p, _) => s.dispatch acc (s.schedAt p cyc)
    | none => s)

/-- A core becomes free: the monitor holds it again; its busy time and its state, which stays 2 for a fenced core. -/
def State.coreDone (s : State) (a : Nat) (k : Fin 4) (t v : Nat) : State :=
  match s.taskOn a k with
  | some r =>
    let s1 := (s.modCore a k fun x => { x with run := none, machine := true }).bump (kPcBusyEc (4 * a + k)) (t - r.at_).toNat
    if s.coreFenced a k then s1 else s1.odSet (kCoreState (4 * a + k)) v
  | none => s
/-- A trap or an ecall enters machine mode, where the monitor takes over (R84). -/
def State.trapIn (s : State) (a : Nat) (k : Fin 4) (cause val : Nat) : State := s.modCore a k (Core.trapIn cause val)
/-- A program fault ends a task and its context (R84, R85, R89). -/
def State.coreFault (s : State) (a : Nat) (k : Fin 4) (t : Nat) (d : TaskDesc) (code val : Nat) : State :=
  ((s.coreDone a k t 3).event .pc (4 * a + k)).progFault d.ctx (coreUnit a k) 0 code val

/-- The core after what a task has executed by cycle `t`. -/
def State.taskHart (s : State) (a : Nat) (k : Fin 4) (t : Nat) (d : TaskDesc) (acts : List CoreAct) : Hart :=
  (Hart.mk (s.settle a t) a k d.ctx [] false .none false .go).steps acts
/-- What a task has executed by cycle `t`, each of its writes in the order of its instructions (R83 to R87); then, unless that
ended the task, `f`. -/
def State.taskRun (s : State) (a : Nat) (k : Fin 4) (t : Nat) (d : TaskDesc) (acts : List CoreAct) (f : State → State) : State :=
  let h := s.taskHart a k t d acts
  match h.stop with
  | .go => f h.s
  | .trap code val cause => (h.s.trapIn a k cause val).coreFault a k t d code val
  | .ended => h.s.coreDone a k t 3

/-- The marks of a task's output (R113, R114). -/
def State.taskStamp (s : State) (a : Nat) (d : TaskDesc) : State :=
  match d.out with
  | some o => s.landMarks d.ctx a o.stamped o.addr o.len o.stamp o.tensor
  | none => s
/-- The ecall that ends a task within its budget: its stores have arrived; its output is marked and its token is pushed. -/
def State.taskEnd (s : State) (a : Nat) (k : Fin 4) (t : Nat) (d : TaskDesc) : State :=
  (((s.trapIn a k 8 0).coreDone a k t 0).taskStamp a d).tokPush d.ctx a d.tokq t (BitVec.ofNat 32 d.taskSeq) (coreUnit a k) 0

/-- A command of a task that runs on a core: `f` in schedule time. A task runs on between two steps of its context. -/
def taskCommand (acc : Fin 16) (core : Fin 4) (cyc : Nat) (f : State → Nat → Running → State) (s : State) :
    Host.Outcome State Fault Refusal :=
  .next (match s.taskOn acc core with
    | some r => match s.coreHost acc r.task.tokq with
      | some (p, _) => f s (s.schedAt p cyc) r
      | none => s
    | none => s)
/-- The least time that a task takes (R103, Table 5-5): PC_TASK_START to its first instruction, PC_SCRATCH where it
makes an access to the scratchpad (log entry 217), and PC_TASK_END from its ecall to its token. -/
def State.endsFrom (s : State) (a : Nat) (k : Fin 4) (t : Nat) (r : Running) (acts : List CoreAct) : Int :=
  let c := r.task.ctx
  r.at_ + s.fixedLat c 0x0302 48 + s.fixedLat c 0x0303 24 + (if (s.taskHart a k t r.task acts).sp then s.fixedLat c 0x0301 6 else 0)
/-- TASK_END (R86, R88, R113): the completion token is written in this cycle. -/
def execTaskEnd (acc : Fin 16) (core : Fin 4) (cyc : Nat) (acts : List CoreAct) (s : State) : Host.Outcome State Fault Refusal :=
  taskCommand acc core cyc (fun s t r =>
    if s.endsFrom acc core t r acts ≤ t ∧ t ≤ r.at_ + r.task.budget then
      s.taskRun acc core t r.task acts fun u => u.taskEnd acc core t r.task
    else s) s

/-- The detection of a trap (R84, R85): an access fault is out of bounds, any other trap has its own code. -/
def trapCode (addr cause : Nat) : Nat × Nat := if cause = 1 ∨ cause = 5 ∨ cause = 7 then coreOob addr else (0xA, addr)
/-- TASK_TRAP (R84, R85): any trap other than ecall ends the task with a program fault, after what it has executed. -/
def execTaskTrap (acc : Fin 16) (core : Fin 4) (cyc : Nat) (acts : List CoreAct) (addr : Nat) (cause : Nat) (s : State) :
    Host.Outcome State Fault Refusal :=
  taskCommand acc core cyc (fun s t r => s.taskRun acc core t r.task acts fun u =>
    (u.trapIn acc core cause addr).coreFault acc core t r.task (trapCode addr cause).1 (trapCode addr cause).2) s

/-- TASK_BUDGET_OVERRUN (R89): a task that has not ended BUDGET ec after its dispatch is stopped. -/
def execTaskBudgetOverrun (acc : Fin 16) (core : Fin 4) (cyc : Nat) (acts : List CoreAct) (s : State) :
    Host.Outcome State Fault Refusal :=
  taskCommand acc core cyc (fun s t r =>
    if r.at_ + r.task.budget ≤ t then
      s.taskRun acc core t r.task acts fun u => (u.bump kTaskOverruns 1).coreFault acc core t r.task 9 r.task.taskSeq
    else s) s

end Sys2Proof.Machine
end

