-- ==== Sys2Proof/Machine/ClassG.lean ====
section
/-!
DEFINITION. The class G operations of the vector engine (R45, Table 2-8). Each is evaluated in fixed point far beyond FP32,
and the result is either FP32 neighbour of the exact value: the free choice that the bound of one ulp leaves (log entry 10).
-/
namespace Sys2Proof.Machine

/-- A result within one ulp of an exact non-zero quantity (R45): the value rounded toward zero, moved by a free choice of
steps that keeps it within one ulp; an infinity stays. -/
def ulpChoice (op : Nat) (x : W32) (v : FVal) : W32 :=
  let t := convFloat (fspec .fp32) .rtz false 0 v
  let exact := (decodeVal .fp32 t).eqv v
  let k := (Config.classG op x).toNat % 3
  if !v.isFinite || (decodeVal .fp32 t).isInf then rne32 v
  else if exact then BitVec.ofNat 32 (if k = 0 then t else if k = 1 then t + 1 else t - b2n (t % 2 ^ 31 != 0))
  else BitVec.ofNat 32 (if k = 0 then t else t + 1)

/-! ### Fixed point: a number of units 2 ^ -320 -/

/-- The number of fractional bits. -/
def fxBits : Nat := 320
/-- The number 1. -/
def fxOne : Int := 2 ^ fxBits
/-- The product of two numbers. -/
def fxMul (a b : Int) : Int := a * b / fxOne
/-- A finite magnitude `m * 2 ^ e` with `e` at least -320. -/
def fxOf (m : Nat) (e : Int) : Int := m * 2 ^ ((fxBits : Int) + e).toNat
/-- A sum of `n` terms: each is its power over its divisor, the next power is this one times `y`. -/
def fxSeries (y : Int) (div : Nat → Nat) : Nat → Nat → Int → Int
  | 0, _, _ => 0
  | n + 1, i, p => p / (div i : Int) + fxSeries y div n (i + 1) (fxMul p y)
/-- A sum of `n` terms of an exponential kind: each term is the one before times `y / i`. -/
def fxExpSeries (y : Int) : Nat → Nat → Int → Int
  | 0, _, _ => 0
  | n + 1, i, p => p + fxExpSeries y n (i + 1) (fxMul p y / (i : Int))
/-- The terms of the error function's series, `p` being `(-1)^i x^(2i+1) / i!` and `y` being `x^2`. -/
def fxErfSeries (y : Int) : Nat → Nat → Int → Int
  | 0, _, _ => 0
  | n + 1, i, p => p / ((2 * i + 1 : Nat) : Int) + fxErfSeries y n (i + 1) (-(fxMul p y / ((i + 1 : Nat) : Int)))
/-- `artanh z` for `|z|` at most 1/3. -/
def fxAtanh (z : Int) : Int := fxSeries (fxMul z z) (fun i => 2 * i + 1) 110 0 z
/-- `arctan (1 / n)`. -/
def fxAtanInv (n : Nat) : Int := fxSeries (-(fxOne / ((n * n : Nat) : Int))) (fun i => 2 * i + 1) 80 0 (fxOne / (n : Int))
/-- The logarithm of 2. -/
def fxLn2 : Int := 2 * fxAtanh (fxOne / 3)
/-- Machin's sum for pi. -/
def fxPi : Int := 4 * (4 * fxAtanInv 5 - fxAtanInv 239)
/-- Two over the square root of pi. -/
def fxErfUnit : Int := 2 * fxOne * fxOne / (isqrt (fxPi * fxOne).toNat : Int)

/-- A signed fixed-point number times `2 ^ k` as an exact value just off every FP32 number: the last bit is sticky. -/
def fxVal (v : Int) (k : Int) : FVal := .fin (decide (v < 0)) (2 * v.natAbs + 1) (k - fxBits - 1)
/-- A value a hair below a finite magnitude. -/
def justBelow (n : Bool) (m : Nat) (e : Int) : FVal := .fin n (m * 2 ^ 64 - 1) (e - 64)

/-- `exp` of a fixed-point number: the exponent of 2, and the factor in [1, 2). -/
def fxExp (x : Int) : Int × Int :=
  let k := x / fxLn2
  (k, fxExpSeries (x - k * fxLn2) 90 1 fxOne)
/-- `exp (± m * 2 ^ e)` for a non-zero argument; far outside the range of FP32 a value that lies there too. -/
def expVal (n : Bool) (m : Nat) (e : Int) : FVal :=
  if 8 ≤ (Nat.log2 m : Int) + e then .fin false 1 (if n then -400 else 400)
  else
    let r := fxExp (if n then -fxOf m e else fxOf m e)
    fxVal r.2 r.1
/-- `log (m * 2 ^ e)` of a positive argument other than 1: `m * 2 ^ e = y * 2 ^ k` with `y` in [3/4, 3/2). -/
def logVal (m : Nat) (e : Int) : FVal :=
  let b := Nat.log2 m
  let y0 := fxOf m (-(b : Int))
  let up := decide (3 * fxOne ≤ 2 * y0)
  let y := if up then y0 / 2 else y0
  let k : Int := b + e + b2n up
  fxVal (2 * fxAtanh ((y - fxOne) * fxOne / (y + fxOne)) + k * fxLn2) 0
/-- `tanh` of a non-zero magnitude: below the argument where it is tiny, below 1 where it is large. -/
def tanhVal (n : Bool) (m : Nat) (e : Int) : FVal :=
  let top : Int := Nat.log2 m + e
  if top < -24 then justBelow n m e
  else if 6 ≤ top then justBelow n 1 0
  else
    let r := fxExp (-(2 * fxOf m e))
    let x := r.2 / 2 ^ (-r.1).toNat
    let v := (fxOne - x) * fxOne / (fxOne + x)
    fxVal (if n then -v else v) 0
/-- `erf` of a non-zero magnitude: from 4 on it lies less than 2^-25 below 1. -/
def erfVal (n : Bool) (m : Nat) (e : Int) : FVal :=
  if 2 ≤ (Nat.log2 m : Int) + e then justBelow n 1 0
  else
    let x := fxOf m e
    let v := fxMul fxErfUnit (fxErfSeries (fxMul x x) 220 0 x)
    fxVal (if n then -v else v) 0
/-- One over the square root of a positive magnitude, rounded down to more bits than FP32 keeps, the rest sticky. -/
def rsqrtFin (m : Nat) (e : Int) : FVal :=
  let odd : Nat := (e % 2).toNat
  let a := m * 2 ^ odd
  let k := Nat.log2 a / 2 + 30
  let r := isqrt (2 ^ (2 * k) / a)
  .fin false (2 * r + b2n (r * r * a != 2 ^ (2 * k))) (-((e - odd) / 2) - k - 1)

/-! ### The operations (Table 2-8): the special inputs are class A -/

/-- exp. -/
def exp32 (x : W32) : W32 :=
  match dec32 x with
  | .nan => canonNan
  | .inf n => if n then posZero else 0x7F800000#32
  | .fin n m e => if m = 0 then 0x3F800000#32 else ulpChoice 0 x (expVal n m e)
/-- log. -/
def log32 (x : W32) : W32 :=
  match dec32 x with
  | .nan => canonNan
  | .inf n => if n then canonNan else 0x7F800000#32
  | .fin n m e =>
    if m = 0 then 0xFF800000#32 else if n then canonNan
    else if x = 0x3F800000#32 then posZero else ulpChoice 1 x (logVal m e)
/-- rsqrt. -/
def rsqrt32 (x : W32) : W32 :=
  match dec32 x with
  | .nan => canonNan
  | .inf n => if n then canonNan else posZero
  | .fin n m e =>
    if m = 0 then (if n then 0xFF800000#32 else 0x7F800000#32) else if n then canonNan
    else ulpChoice 2 x (rsqrtFin m e)
/-- reciprocal. -/
def rcp32 (x : W32) : W32 :=
  match dec32 x with
  | .nan => canonNan
  | v => if v.isFinite && !v.isZero then ulpChoice 3 x ((FVal.fin false 1 0).div v)
         else rne32 ((FVal.fin false 1 0).div v)
/-- tanh. -/
def tanh32 (x : W32) : W32 :=
  match dec32 x with
  | .nan => canonNan
  | .inf n => if n then 0xBF800000#32 else 0x3F800000#32
  | .fin n m e => if m = 0 then x else ulpChoice 4 x (tanhVal n m e)
/-- erf. -/
def erf32 (x : W32) : W32 :=
  match dec32 x with
  | .nan => canonNan
  | .inf n => if n then 0xBF800000#32 else 0x3F800000#32
  | .fin n m e => if m = 0 then x else ulpChoice 5 x (erfVal n m e)

end Sys2Proof.Machine
end

