-- ==== Sys2Proof/Machine/Vector.lean ====
section
/-!
DEFINITION. The vector engine (chapter 04): loads, stores and the operations of Table 4-2.
-/
namespace Sys2Proof.Machine

/-! ### Timing (R77, R80) -/

/-- Latencies of Table 4-2, in table order. -/
def veLatency : List Nat := [6, 8, 26, 4, 4, 4, 6, 10, 12, 20, 12, 14, 36, 22, 36, 14, 4, 40, 12]
/-- Issue intervals of Table 4-2, in table order. -/
def veInterval : List Nat := [2, 2, 8, 2, 2, 2, 2, 2, 4, 4, 4, 4, 32, 2, 32, 2, 2, 8, 4]

/-- The latency of row `i` of Table 4-2 for a context. -/
def State.opLat (s : State) (c i : Nat) : Nat := s.fixedLat c (0x0201 + i) (veLatency.getD i 0)
/-- The issue interval of row `i` of Table 4-2 for a context. -/
def State.opIssue (s : State) (c i : Nat) : Nat := s.fixedLat c (0x0221 + i) (veInterval.getD i 0)

/-- The default of the record of a register's latest write. -/
def landDefault : Nat → RegLand := fun _ => ⟨0, 0⟩
/-- The cycle in which the latest write of a register lands. -/
def VecEngine.landed (v : VecEngine) (r : Nat) : Nat := (SMap.get landDefault v.land r).land
/-- The register number that a record names for a register of `VecEngine.land`: the number of a tile, scalar or mask
register among its kind. -/
def regNumber (r : Nat) : Nat := if r < 64 then r else if r < 96 then r - 64 else r - 96
/-- Reads of registers whose write has not landed (R80). -/
def readyDets (v : VecEngine) (t : Nat) (reads : List Nat) : List Det :=
  reads.flatMap fun r => detIf (decide (t < v.landed r)) 4 (regNumber r) kNotReady
/-- A write that lands with or before an earlier one of its register (R80). -/
def landDets (v : VecEngine) (at_ : Nat) (writes : List Nat) : List Det :=
  writes.flatMap fun r => detIf (decide (at_ ≤ v.landed r)) 6 (regNumber r) kVeDoubleBookings
/-- Two results of one operation that land on one register (R80). -/
def twiceDets : List Nat → List Det
  | [] => []
  | r :: l => detIf (l.contains r) 6 (regNumber r) kVeDoubleBookings ++ twiceDets l
/-- Record a write of registers. -/
def VecEngine.noteLand (v : VecEngine) (t at_ : Nat) (writes : List Nat) : VecEngine :=
  { v with land := writes.foldl (fun m r => SMap.set landDefault m r ⟨t, at_⟩) v.land }

/-- The vector engine of accord `a`. -/
def State.veAt (s : State) (a : Nat) : VecEngine := (s.accAt a).ve
/-- Change the vector engine of accord `a`. -/
def State.modVe (s : State) (a : Nat) (f : VecEngine → VecEngine) : State := s.modAcc a fun A => { A with ve := f A.ve }

/-- Mask register `k` in the numbering of `VecEngine.land`. -/
def maskReg (k : Fin 8) : Nat := 96 + k

/-- An operation of row `i` of Table 4-2 that reads and writes registers: its detections and effect, the pipe and the
record of its writes. -/
def veOp (h : Issue) (i : Nat) (reads writes : List Nat) (extra : State → IssueCtx → List Det)
    (eff : State → IssueCtx → State) (s : State) : Host.Outcome State Fault Refusal :=
  engineIssue h 0 (unitId 2 h.acc)
    (fun s x => extra s x ++ detIf (decide (x.t < (s.veAt h.acc).pipeFree)) 6 0
      ++ readyDets (s.veAt h.acc) x.t reads ++ landDets (s.veAt h.acc) (x.t + s.opLat x.ctx i) writes ++ twiceDets writes)
    (fun s x => ((eff s x).modVe h.acc fun v =>
        { v.noteLand x.t (x.t + s.opLat x.ctx i) writes with pipeFree := x.t + s.opIssue x.ctx i }).bump
        (kVeBusyEc h.acc) 1) s

/-- An operation whose result is one tile register computed from the engine's registers alone. -/
def veTile (h : Issue) (i : Nat) (dst : Fin 64) (srcs : List VSrc) (f : VecEngine → List W32) (s : State) :
    Host.Outcome State Fault Refusal :=
  veOp h i (srcs.map srcReg) [dst.val] (fun _ _ => [])
    (fun s _ => s.modVe h.acc fun v => v.setTile dst (f v)) s

/-- A lane-wise operation of one operand. -/
def lanes1 (f : W32 → W32) (a : VSrc) (v : VecEngine) : List W32 := (v.src a).map f
/-- A lane-wise operation of two operands. -/
def lanes2 (f : W32 → W32 → W32) (a b : VSrc) (v : VecEngine) : List W32 := List.zipWith f (v.src a) (v.src b)
/-- A lane-wise operation of three operands. -/
def lanes3 (f : W32 → W32 → W32 → W32) (a b c : VSrc) (v : VecEngine) : List W32 :=
  List.zipWith (fun p z => f p.1 p.2 z) ((v.src a).zip (v.src b)) (v.src c)

/-! ### FP32 arithmetic -/

/-- ADD (R77). -/
def execAdd (h : Issue) (dst : Fin 64) (a b : VSrc) (s : State) : Host.Outcome State Fault Refusal :=
  veTile h 0 dst [a, b] (lanes2 add32 a b) s
/-- SUB (R77). -/
def execSub (h : Issue) (dst : Fin 64) (a b : VSrc) (s : State) : Host.Outcome State Fault Refusal :=
  veTile h 0 dst [a, b] (lanes2 sub32 a b) s
/-- MUL (R77). -/
def execMul (h : Issue) (dst : Fin 64) (a b : VSrc) (s : State) : Host.Outcome State Fault Refusal :=
  veTile h 0 dst [a, b] (lanes2 mul32 a b) s
/-- FMA, one rounding (R77). -/
def execFma (h : Issue) (dst : Fin 64) (a b c : VSrc) (s : State) : Host.Outcome State Fault Refusal :=
  veTile h 1 dst [a, b, c] (lanes3 fma32 a b c) s
/-- DIV, correctly rounded (R79). -/
def execDiv (h : Issue) (dst : Fin 64) (a b : VSrc) (s : State) : Host.Outcome State Fault Refusal :=
  veTile h 2 dst [a, b] (lanes2 div32 a b) s
/-- SQRT, correctly rounded (R79). -/
def execSqrt (h : Issue) (dst : Fin 64) (a : VSrc) (s : State) : Host.Outcome State Fault Refusal :=
  veTile h 2 dst [a] (lanes1 sqrt32 a) s
/-- MIN (R47). -/
def execMin (h : Issue) (dst : Fin 64) (a b : VSrc) (s : State) : Host.Outcome State Fault Refusal :=
  veTile h 3 dst [a, b] (lanes2 min32 a b) s
/-- MAX (R47). -/
def execMax (h : Issue) (dst : Fin 64) (a b : VSrc) (s : State) : Host.Outcome State Fault Refusal :=
  veTile h 3 dst [a, b] (lanes2 max32 a b) s
/-- ABS (R77). -/
def execAbs (h : Issue) (dst : Fin 64) (a : VSrc) (s : State) : Host.Outcome State Fault Refusal :=
  veTile h 3 dst [a] (lanes1 abs32 a) s
/-- NEG (R77). -/
def execNeg (h : Issue) (dst : Fin 64) (a : VSrc) (s : State) : Host.Outcome State Fault Refusal :=
  veTile h 3 dst [a] (lanes1 neg32 a) s

/-! ### Compare and select -/

/-- A comparison of two lanes: FP32, or the two's complement integer type it names (log entry 24). -/
def cmpLane (cond : Cond) (ty : Option IntTy) (a b : W32) : Bool :=
  let (lt, eq) := match ty with
    | none => ((dec32 a).lt (dec32 b), (dec32 a).eqv (dec32 b))
    | some .int32 => (a.slt b, a == b)
    | some .int8 => ((a.setWidth 8).slt (b.setWidth 8), a.setWidth 8 == b.setWidth 8)
  match cond with
  | .eq => eq
  | .lt => lt
  | .le => lt || eq
/-- CMP writes a mask register (R77). -/
def execCmp (h : Issue) (k : Fin 8) (cond : Cond) (ty : Option IntTy) (a b : VSrc) (s : State) :
    Host.Outcome State Fault Refusal :=
  veOp h 4 [srcReg a, srcReg b] [maskReg k] (fun _ _ => [])
    (fun s _ => s.modVe h.acc fun v => v.setMask k (List.zipWith (cmpLane cond ty) (v.src a) (v.src b))) s
/-- SEL takes the first operand's lane where the mask bit is 1, else the second's (R77; log entry 24). -/
def execSel (h : Issue) (dst : Fin 64) (k : Fin 8) (a b : VSrc) (s : State) : Host.Outcome State Fault Refusal :=
  veOp h 4 [srcReg a, srcReg b, maskReg k] [dst.val] (fun _ _ => [])
    (fun s _ => s.modVe h.acc fun v =>
      v.setTile dst (List.zipWith (fun m p => if m then p.1 else p.2) (v.mask k) ((v.src a).zip (v.src b)))) s

/-! ### Integer operations -/

/-- An integer operation of the lane width: INT8 on the low 8 bits, the high bits of the result zero (R72, R400). -/
def intLane (ty : IntTy) (f32 : BitVec 32 → BitVec 32 → BitVec 32) (f8 : BitVec 8 → BitVec 8 → BitVec 8) (a b : W32) : W32 :=
  match ty with
  | .int32 => f32 a b
  | .int8 => (f8 (a.setWidth 8) (b.setWidth 8)).setWidth 32
/-- Shift left by the whole unsigned amount: at or above the width, zero (R400). -/
def shlBits {w : Nat} (x y : BitVec w) : BitVec w := if w ≤ y.toNat then 0#w else x <<< y.toNat
/-- Shift right with zeros: at or above the width, zero (R400). -/
def shrBits {w : Nat} (x y : BitVec w) : BitVec w := if w ≤ y.toNat then 0#w else x >>> y.toNat
/-- Shift right with copies of the sign bit: at or above the width, only copies (R400). -/
def sraBits {w : Nat} (x y : BitVec w) : BitVec w := x.sshiftRight (min y.toNat w)
/-- Integer ADD, wrapping (R77). -/
def execIntAdd (h : Issue) (ty : IntTy) (dst : Fin 64) (a b : VSrc) (s : State) : Host.Outcome State Fault Refusal :=
  veTile h 5 dst [a, b] (lanes2 (intLane ty (· + ·) (· + ·)) a b) s
/-- Integer SUB, wrapping (R77). -/
def execIntSub (h : Issue) (ty : IntTy) (dst : Fin 64) (a b : VSrc) (s : State) : Host.Outcome State Fault Refusal :=
  veTile h 5 dst [a, b] (lanes2 (intLane ty (· - ·) (· - ·)) a b) s
/-- Integer MUL, wrapping (R77). -/
def execIntMul (h : Issue) (ty : IntTy) (dst : Fin 64) (a b : VSrc) (s : State) : Host.Outcome State Fault Refusal :=
  veTile h 5 dst [a, b] (lanes2 (intLane ty (· * ·) (· * ·)) a b) s
/-- SHL (R400): the amount is the whole unsigned lane; at or above the width the result is zero. -/
def execShl (h : Issue) (ty : IntTy) (dst : Fin 64) (a b : VSrc) (s : State) : Host.Outcome State Fault Refusal :=
  veTile h 5 dst [a, b] (lanes2 (intLane ty shlBits shlBits) a b) s
/-- SHR (R400). -/
def execShr (h : Issue) (ty : IntTy) (dst : Fin 64) (a b : VSrc) (s : State) : Host.Outcome State Fault Refusal :=
  veTile h 5 dst [a, b] (lanes2 (intLane ty shrBits shrBits) a b) s
/-- SRA (R400): at or above the width the result is copies of the sign bit. -/
def execSra (h : Issue) (ty : IntTy) (dst : Fin 64) (a b : VSrc) (s : State) : Host.Outcome State Fault Refusal :=
  veTile h 5 dst [a, b] (lanes2 (intLane ty sraBits sraBits) a b) s
/-- AND (R77). -/
def execAnd (h : Issue) (ty : IntTy) (dst : Fin 64) (a b : VSrc) (s : State) : Host.Outcome State Fault Refusal :=
  veTile h 5 dst [a, b] (lanes2 (intLane ty (· &&& ·) (· &&& ·)) a b) s
/-- OR (R77). -/
def execOr (h : Issue) (ty : IntTy) (dst : Fin 64) (a b : VSrc) (s : State) : Host.Outcome State Fault Refusal :=
  veTile h 5 dst [a, b] (lanes2 (intLane ty (· ||| ·) (· ||| ·)) a b) s
/-- XOR (R77). -/
def execXor (h : Issue) (ty : IntTy) (dst : Fin 64) (a b : VSrc) (s : State) : Host.Outcome State Fault Refusal :=
  veTile h 5 dst [a, b] (lanes2 (intLane ty (· ^^^ ·) (· ^^^ ·)) a b) s

/-! ### Conversion -/

/-- The random words of a tile (R44, R79): each register row's coordinate from its tag or its logical index, the column
from the first logical column. -/
def State.randTile (s : State) (a c : Nat) (r : RandInfo) (domain : Nat) : List Nat :=
  (List.range 32).flatMap fun i =>
    let t := match r.tags with
      | some q => (s.accAt a).top.readLE (q.addr + 16 * i) 16
      | none => 0
    (List.range 32).map fun j => s.elemWord c domain r.tensorId t (r.row0 + i) (r.col0 + j)
/-- The tag table of a random operation lies in the top tier (R118) and is read with the marks it expects (R113, R114). -/
def State.randDets (s : State) (h : Issue) (c : Nat) (r : RandInfo) : List Det :=
  match r.tags with
  | some q => detUnless (inTop q.addr 512) 2 q.addr ++ s.readDets c h.acc h.stamped q.addr 512 q.rstamp q.tensor
  | none => []

/-- The value of a lane read in a format (R72). -/
def laneVal (f : Fmt) (x : W32) : FVal := decodeVal f (x.toNat % 2 ^ fmtWidth f)
/-- The random words of a conversion: drawn only in stochastic rounding. -/
def State.cvtWords (s : State) (a c : Nat) (cv : CvtParams) : List Nat :=
  if cv.rnd = .sr then s.randTile a c cv.rand 0 else List.replicate 1024 0

/-- Convert the 32 lanes of each row to an MX format: encodings and the block scale of each row (R38, R81). -/
def mxRows (cv : CvtParams) (vals : List FVal) (ws : List Nat) : List (Nat × List Nat) :=
  ((chunks 32 32 vals).zip (chunks 32 32 ws)).map fun q => convBlock cv.tgt cv.rnd cv.sat q.2 q.1
/-- Convert lanes to a non-MX format. The saturation mode concerns the pairs that narrow: an exact pair of Table 4-3 and the
identity keep an infinity (R36, R37). -/
def convLanes (cv : CvtParams) (vals : List FVal) (ws : List Nat) : List Nat :=
  (vals.zip ws).map fun q => convElem cv.tgt cv.rnd (cv.sat && !exactPair cv.src cv.tgt) q.2 q.1

/-- An illegal pair, layout or mode of a conversion (R25, R75, R81): E8M0, an MX block that does not lie along the reduction
dimension, or an integer source with a rounding mode other than RNE into a floating-point target. -/
def cvtIllegal (cv : CvtParams) : Bool :=
  cv.src == .e8m0 || cv.tgt == .e8m0 || (fmtMx cv.tgt && !cv.alongK)
    || (fmtInt cv.src && !fmtInt cv.tgt && cv.rnd != .rne)

/-- The row of Table 4-2 that a conversion runs at. -/
def cvtRow (cv : CvtParams) : Nat := if cv.rnd = .sr then 8 else if fmtMx cv.tgt then 7 else 6

/-- CVT (R81). -/
def execCvt (h : Issue) (dst dst2 : Fin 64) (a : VSrc) (cv : CvtParams) (s : State) : Host.Outcome State Fault Refusal :=
  veOp h (cvtRow cv) [srcReg a] (if fmtMx cv.tgt then [dst.val, dst2.val] else [dst.val])
    (atTop h.acc fun s x => detIf (cvtIllegal cv) 7 (regNumber (srcReg a))
      ++ if cv.rnd = .sr then s.randDets h x.ctx cv.rand else [])
    (atTop h.acc fun s x =>
      let ws := s.cvtWords h.acc x.ctx cv
      s.modVe h.acc fun v =>
        let vals := (v.src a).map (laneVal cv.src)
        if fmtMx cv.tgt then
          let rows := mxRows cv vals ws
          (v.setTile dst ((rows.flatMap Prod.snd).map (BitVec.ofNat 32))).setTile dst2
            (rows.flatMap fun r => BitVec.ofNat 32 r.1 :: List.replicate 31 0)
        else v.setTile dst ((convLanes cv vals ws).map (BitVec.ofNat 32))) s

/-! ### Class G operations -/

/-- EXP (R45). -/
def execExp (h : Issue) (dst : Fin 64) (a : VSrc) (s : State) : Host.Outcome State Fault Refusal :=
  veTile h 9 dst [a] (lanes1 exp32 a) s
/-- LOG (R45). -/
def execLog (h : Issue) (dst : Fin 64) (a : VSrc) (s : State) : Host.Outcome State Fault Refusal :=
  veTile h 9 dst [a] (lanes1 log32 a) s
/-- RSQRT (R45). -/
def execRsqrt (h : Issue) (dst : Fin 64) (a : VSrc) (s : State) : Host.Outcome State Fault Refusal :=
  veTile h 9 dst [a] (lanes1 rsqrt32 a) s
/-- RCP (R45). -/
def execRcp (h : Issue) (dst : Fin 64) (a : VSrc) (s : State) : Host.Outcome State Fault Refusal :=
  veTile h 9 dst [a] (lanes1 rcp32 a) s
/-- TANH (R45). -/
def execTanh (h : Issue) (dst : Fin 64) (a : VSrc) (s : State) : Host.Outcome State Fault Refusal :=
  veTile h 9 dst [a] (lanes1 tanh32 a) s
/-- ERF (R45). -/
def execErf (h : Issue) (dst : Fin 64) (a : VSrc) (s : State) : Host.Outcome State Fault Refusal :=
  veTile h 9 dst [a] (lanes1 erf32 a) s

/-! ### Random values -/

/-- RAND: the Philox words of the tile (R44). -/
def execRand (h : Issue) (dst : Fin 64) (r : RandInfo) (s : State) : Host.Outcome State Fault Refusal :=
  veOp h 10 [] [dst.val] (atTop h.acc fun s x => s.randDets h x.ctx r)
    (atTop h.acc fun s x =>
      let ws := s.randTile h.acc x.ctx r r.domain
      s.modVe h.acc fun v => v.setTile dst (ws.map (BitVec.ofNat 32))) s

/-- floor(p × 2³²) of a keep probability; 0 for a negative p or a NaN, everything for infinity (R79). -/
def keepBound (p : W32) : Nat :=
  match dec32 p with
  | .nan => 0
  | .inf n => if n then 0 else 2 ^ 32
  | .fin n m e => if n then 0 else if 0 ≤ e + 32 then m * 2 ^ (e + 32).toNat else m / 2 ^ (-(e + 32)).toNat

/-- DROPOUT: a mask bit per lane, 1 where the lane's word is below the bound (R79). -/
def execDropout (h : Issue) (k : Fin 8) (p : Fin 32) (r : RandInfo) (s : State) : Host.Outcome State Fault Refusal :=
  veOp h 11 [64 + p.val] [maskReg k] (atTop h.acc fun s x => s.randDets h x.ctx r)
    (atTop h.acc fun s x =>
      let ws := s.randTile h.acc x.ctx r r.domain
      s.modVe h.acc fun v => v.setMask k (ws.map fun w => decide (w < keepBound (v.scalar p)))) s

/-! ### Reductions (R78) -/

/-- The results of a row operation in the row-broadcast shape. -/
def rowResult (l : List W32) : List W32 := l.flatMap fun x => x :: List.replicate 31 0
/-- The results of a column operation in the column-broadcast shape. -/
def colResult (l : List W32) : List W32 := l ++ List.replicate (31 * 32) 0
/-- The rows of a tile. -/
def tileRows (t : List W32) : List (List W32) := chunks 32 32 t
/-- A list of rows read as columns. -/
def columnsOf (rows : List (List W32)) : List (List W32) := (List.range 32).map fun j => rows.map fun r => r.getD j 0
/-- A sequential sum in increasing order from a start value. -/
def seqSum (init : W32) (l : List W32) : W32 := l.foldl add32 init
/-- The maximum of a list under R47. -/
def maxOf (l : List W32) : W32 :=
  match l with
  | [] => posZero
  | x :: r => r.foldl max32 x

/-- ROWSUM SEQ: lanes 0 to 31 in order from the carry-in or +0.0. -/
def execRowsumSeq (h : Issue) (dst : Fin 64) (a : VSrc) (carry : Option VSrc) (s : State) :
    Host.Outcome State Fault Refusal :=
  veTile h 12 dst (a :: carry.toList) (fun v =>
    let cs := match carry with
      | some c => (tileRows (v.src c)).map fun r => r.headD 0
      | none => List.replicate 32 posZero
    rowResult (List.zipWith seqSum cs (tileRows (v.src a)))) s
/-- ROWSUM TREE: the canonical tree over lanes 0 to 31. -/
def execRowsumTree (h : Issue) (dst : Fin 64) (a : VSrc) (s : State) : Host.Outcome State Fault Refusal :=
  veTile h 13 dst [a] (fun v => rowResult ((tileRows (v.src a)).map canonicalTree)) s
/-- COLSUM SEQ: rows 0 to 31 in order from the carry-in row or +0.0. -/
def execColsumSeq (h : Issue) (dst : Fin 64) (a : VSrc) (carry : Option VSrc) (s : State) :
    Host.Outcome State Fault Refusal :=
  veTile h 14 dst (a :: carry.toList) (fun v =>
    let cs := match carry with
      | some c => (v.src c).take 32
      | none => List.replicate 32 posZero
    colResult (List.zipWith seqSum cs (columnsOf (tileRows (v.src a))))) s
/-- ROWMAX. -/
def execRowmax (h : Issue) (dst : Fin 64) (a : VSrc) (s : State) : Host.Outcome State Fault Refusal :=
  veTile h 15 dst [a] (fun v => rowResult ((tileRows (v.src a)).map maxOf)) s
/-- ROWAMAX: the maximum of the absolute values. -/
def execRowamax (h : Issue) (dst : Fin 64) (a : VSrc) (s : State) : Host.Outcome State Fault Refusal :=
  veTile h 15 dst [a] (fun v => rowResult ((tileRows (v.src a)).map fun r => maxOf (r.map abs32))) s
/-- COLMAX. -/
def execColmax (h : Issue) (dst : Fin 64) (a : VSrc) (s : State) : Host.Outcome State Fault Refusal :=
  veTile h 15 dst [a] (fun v => colResult ((columnsOf (tileRows (v.src a))).map maxOf)) s
/-- COLAMAX: the maximum of the absolute values. -/
def execColamax (h : Issue) (dst : Fin 64) (a : VSrc) (s : State) : Host.Outcome State Fault Refusal :=
  veTile h 15 dst [a] (fun v => colResult ((columnsOf (tileRows (v.src a))).map fun r => maxOf (r.map abs32))) s

/-! ### Bit copies, scatter-add, entropy -/

/-- A bit copy to a tile or scalar register. -/
def veCopy (h : Issue) (dst : VDst) (a : VSrc) (s : State) : Host.Outcome State Fault Refusal :=
  veOp h 16 [srcReg a] [dstReg dst] (fun _ _ => []) (fun s _ => s.modVe h.acc fun v => v.setDst dst (v.src a)) s
/-- MOV copies the bits of its operand. -/
def execMov (h : Issue) (dst : VDst) (a : VSrc) (s : State) : Host.Outcome State Fault Refusal := veCopy h dst a s
/-- BCAST copies the bits of its broadcast operand into every lane it serves. -/
def execBcast (h : Issue) (dst : VDst) (a : VSrc) (s : State) : Host.Outcome State Fault Refusal := veCopy h dst a s
/-- TRANSPOSE exchanges rows and lanes. -/
def execTranspose (h : Issue) (dst : Fin 64) (a : VSrc) (s : State) : Host.Outcome State Fault Refusal :=
  veTile h 16 dst [a] (fun v => (columnsOf (tileRows (v.src a))).flatten) s

/-- Insert a pair into a list that rises in the first component. -/
def insertByKey {α : Type} (k : Nat) (x : α) : List (Nat × α) → List (Nat × α)
  | [] => [(k, x)]
  | (i, y) :: r => if k ≤ i then (k, x) :: (i, y) :: r else (i, y) :: insertByKey k x r
/-- A list in an order that the free values from index `k` on choose: an unordered operation (R21; log entry 2). -/
def freeOrder {α : Type} (k : Nat) (l : List α) : List α :=
  ((l.zip (List.range l.length)).foldr (fun q acc => insertByKey (Config.freeNat (k + q.2)) q.1 acc) []).map Prod.snd

/-- SCATTER_ADD: each data lane is added to the FP32 word its index lane names, in no fixed order (class V). The sums land
at the operation's latency, with the stamps and tags of the words (R113, R114). -/
def execScatterAdd (h : Issue) (addr : Nat) (idx data : VSrc) (wstamp : Byte) (tensor : Nat) (s : State) :
    Host.Outcome State Fault Refusal :=
  veOp h 17 [srcReg idx, srcReg data] []
    (fun s _ => ((s.veAt h.acc).src idx).flatMap fun i =>
      detUnless (inSp (addr + 4 * i.toNat) 4) 2 (addr + 4 * i.toNat))
    (fun s x =>
      let v := s.veAt h.acc
      let l := freeOrder s.free ((v.src idx).zip (v.src data))
      let acts := l.flatMap fun q => LandAct.addWord (addr + 4 * q.1.toNat) q.2
        :: s.markActs x.ctx h.stamped (addr + 4 * q.1.toNat) 4 wstamp tensor
      (s.modAcc h.acc fun A => A.await (x.t + s.opLat x.ctx 17) 8 acts).skipFree 1024) s
/-- ENTROPY: free words in every lane (class V). -/
def execEntropy (h : Issue) (dst : Fin 64) (s : State) : Host.Outcome State Fault Refusal :=
  veOp h 18 [] [dst.val] (fun _ _ => [])
    (fun s _ => ((s.modVe h.acc fun v => v.setTile dst (freeWords s.free 1024)).skipFree 1024).bump kEntropyReads 1) s

/-! ### Loads and stores (R74 to R76) -/

/-- The byte ranges of 32 rows of a format. -/
def rowRanges (addr stride : Nat) (f : Fmt) : List (Nat × Nat) :=
  (List.range 32).map fun i => (addr + i * stride, rowBytes f 32)
/-- The numbers of the lines of 1,024 B that a range touches. -/
def linesOf (q : Nat × Nat) : List Nat :=
  if q.2 = 0 then [] else (List.range ((q.1 + q.2 - 1) / 1024 - q.1 / 1024 + 1)).map fun i => q.1 / 1024 + i
/-- The distinct lines that ranges touch, rising: a port requests them in this order, one line per ec (R74, R119). -/
def portLines (l : List (Nat × Nat)) : List Nat := unionRising [] (l.flatMap linesOf)
/-- The number of distinct lines that ranges touch: the port time in lines (R119). -/
def lineCount (l : List (Nat × Nat)) : Nat := (portLines l).length
/-- Every range lies where the vector engine reaches (R118). -/
def rangeDets (l : List (Nat × Nat)) : List Det := l.flatMap fun q => detUnless (inTop q.1 q.2) 2 q.1

/-- The scale of a load fits its source format (R25, R57): MX needs a plane, an integer needs none. -/
def loadScaleOk (f : Fmt) : VScale → Bool
  | .value v => !fmtMx f && decide (v ≤ 255) && (!fmtInt f || v == 0x7F)
  | .plane _ _ => fmtMx f || fmtFp8 f
/-- A source that widens to the type (R36, R74): every format to FP32, the integer formats to INT32. DESIGN CHOICE (log entry
179): E8M0 widens to FP32 as the power of two it encodes. -/
def widenOk (f : Fmt) : Widen → Bool
  | .fp32 => true
  | .int32 => fmtInt f
/-- The scale byte of register row `i`. -/
def Accord.loadScale (A : Accord) (sc : VScale) (i : Nat) : Nat :=
  match sc with
  | .value v => v
  | .plane a st => (A.top.read (a + i * st)).toNat
/-- The ranges a scale plane is read from or written to, one byte a row. -/
def planeRanges (a st : Nat) : List (Nat × Nat) := (List.range 32).map fun i => (a + i * st, 1)
/-- The ranges a load's scales are read from. -/
def scaleRanges : VScale → List (Nat × Nat)
  | .value _ => []
  | .plane a st => planeRanges a st

/-- The lanes that a load writes: raw elements, or elements widened with their scale (R36, R74). -/
def Accord.loadLanes (A : Accord) (addr stride : Nat) (f : Fmt) (widen : Option Widen) (sc : VScale) : List W32 :=
  (List.range 32).flatMap fun i =>
    (unpackRow f 32 (A.top.readN (addr + i * stride) (rowBytes f 32))).map fun x =>
      match widen with
      | some .int32 => BitVec.ofInt 32 (signedOf (fmtWidth f) x)
      | some .fp32 => rne32 ((decodeVal f x).scaleBy (A.loadScale sc i))
      | none => BitVec.ofNat 32 x

/-- The ranges a load reads: its rows and, where it widens, its scales. -/
def loadRanges (addr stride : Nat) (f : Fmt) (widen : Option Widen) (sc : VScale) : List (Nat × Nat) :=
  rowRanges addr stride f ++ if widen.isSome then scaleRanges sc else []
/-- The port time of rows in a context (VE_PORT of Table 5-5 for each line). -/
def State.portTime (s : State) (c : Nat) (rs : List (Nat × Nat)) : Nat := lineCount rs * s.fixedLat c 0x0240 1

/-- The detections of a load. -/
def loadDets (h : Issue) (dst : Fin 64) (addr stride : Nat) (f : Fmt) (widen : Option Widen) (sc : VScale) (rstamp : Byte)
    (tensor : Nat) (s : State) (x : IssueCtx) : List Det :=
  let rs := loadRanges addr stride f widen sc
  rangeDets rs
    ++ (match widen with
        | some w => detUnless (loadScaleOk f sc && widenOk f w) 7 dst
        | none => [])
    ++ detIf (decide (x.t < (s.veAt h.acc).loadFree)) 6 0
    ++ landDets (s.veAt h.acc) (x.t + s.portTime x.ctx (rowRanges addr stride f) + s.fixedLat x.ctx 0x0241 8) [dst.val]
    ++ rs.flatMap fun q => s.readDets x.ctx h.acc h.stamped q.1 q.2 rstamp tensor

/-- VE_LOAD (R74). -/
def execVeLoad (h : Issue) (dst : Fin 64) (addr stride : Nat) (fmt : Fmt) (widen : Option Widen) (scale : VScale)
    (rstamp : Byte) (tensor : Nat) (s : State) : Host.Outcome State Fault Refusal :=
  engineIssue h 0 (unitId 2 h.acc) (atTop h.acc (loadDets h dst addr stride fmt widen scale rstamp tensor))
    (atTop h.acc fun s x =>
      let t := (s.accAt h.acc).loadLanes addr stride fmt widen scale
      let port := s.portTime x.ctx (rowRanges addr stride fmt)
      s.modVe h.acc fun v =>
        { (v.setTile dst t).noteLand x.t (x.t + port + s.fixedLat x.ctx 0x0241 8) [dst.val] with loadFree := x.t + port }) s

/-- The value of a stored lane: an FP32 lane under the store's scale exponent, an E8M0 byte (R74); any other lane as it is. -/
def storeVal (cv : CvtParams) (sc : Nat) (x : W32) : FVal :=
  if cv.src = .fp32 then
    match scaleExp sc with
    | some k => (dec32 x).scale (-k)
    | none => .nan
  else laneVal cv.src x
/-- A store converts its lanes: the conversions of R81 run on the store path too. An MX target computes its block scales even
from lanes of the same format (R75). -/
def narrows (cv : CvtParams) : Bool := cv.src != cv.tgt || fmtMx cv.tgt
/-- The encoding of a lane that is stored as it is: its bits, a NaN the canonical one (R24). -/
def storeSame (f : Fmt) (x : W32) : Nat :=
  if !fmtInt f && (laneVal f x).isNan then (fspec f).nan.getD 0 else x.toNat

/-- The bytes of the 32 rows a store writes, and its MX block scales (R74, R75). -/
def storeRows (v : VecEngine) (src : Fin 64) (cv : CvtParams) (sc : Nat) (ws : List Nat) : List (List Byte) × List Nat :=
  let t := v.tile src
  if narrows cv then
    (if fmtMx cv.tgt then
      let rows := mxRows cv (t.map (storeVal cv sc)) ws
      (rows.map fun r => packRow cv.tgt r.2, rows.map Prod.fst)
     else (((chunks 32 32 (convLanes cv (t.map (storeVal cv sc)) ws)).map fun r => packRow cv.tgt r), []))
  else (((chunks 32 32 (t.map (storeSame cv.tgt))).map fun r => packRow cv.tgt r), [])

/-- The FP32 values of the stored lanes before narrowing. DESIGN CHOICE (log entry 177): lanes of another floating-point or
integer source count with their values widened to FP32. -/
def storeSource (v : VecEngine) (src : Fin 64) (cv : CvtParams) : List W32 :=
  if cv.src = .fp32 then v.tile src else (v.tile src).map fun x => rne32 (laneVal cv.src x)

/-- Bytes at `a` cut at the line borders of 1,024 B, at most `fuel` pieces. -/
def linePieces : Nat → Nat → List Byte → List (Nat × List Byte)
  | 0, _, _ => []
  | k + 1, a, d =>
    if d.isEmpty then []
    else (a, d.take (1024 - a % 1024)) :: linePieces k (a + (1024 - a % 1024)) (d.drop (1024 - a % 1024))
/-- The place of a line in the order in which a port requests lines. -/
def linePlace (lines : List Nat) (a : Nat) : Nat := (lines.takeWhile fun l => l != a / 1024).length

/-- The ranges a store writes: its rows, the scale plane of an MX target, its status record. -/
def storeRanges (addr stride : Nat) (cv : CvtParams) (plane : Nat × Nat) (status : Option Nat) : List (Nat × Nat) :=
  rowRanges addr stride cv.tgt ++ (if fmtMx cv.tgt then planeRanges plane.1 plane.2 else [])
    ++ status.toList.map fun a => (a, 16)

/-- The detections of a store. -/
def storeDets (h : Issue) (src : Fin 64) (addr stride : Nat) (cv : CvtParams) (sreg : Fin 32) (plane : Nat × Nat)
    (status : Option Nat) (s : State) (x : IssueCtx) : List Det :=
  rangeDets (storeRanges addr stride cv plane status)
    ++ detIf (cv.tgt == .e8m0 || (narrows cv && cvtIllegal cv)) 7 src
    ++ (if cv.rnd = .sr && narrows cv then s.randDets h x.ctx cv.rand else [])
    ++ (match status with
        | some a => detUnless (a % 16 == 0) 1 0
        | none => [])
    ++ detIf (decide (x.t < (s.veAt h.acc).storeFree)) 6 0
    ++ readyDets (s.veAt h.acc) x.t (src.val :: if narrows cv && cv.src == .fp32 then [64 + sreg.val] else [])

/-- The effect of a store: the data of the k-th line it requests lands in cycle s + k + 1 (R74), of a binary whose VE_PORT is more
than one ec with that many ec to a line (R103); the scale plane, the status
record, the stamps and the tags land with its last line. -/
def State.veStore (s : State) (h : Issue) (src : Fin 64) (addr stride : Nat) (cv : CvtParams) (sreg : Fin 32)
    (plane : Nat × Nat) (status : Option Nat) (tile : Nat) (wstamp : Byte) (x : IssueCtx) : State :=
  let v := s.veAt h.acc
  let sc := if narrows cv && cv.src == .fp32 then (v.scalar sreg).toNat % 256 else 0x7F
  let ws := if narrows cv then s.cvtWords h.acc x.ctx cv else []
  let (rows, scales) := storeRows v src cv sc ws
  let lines := portLines (rowRanges addr stride cv.tgt)
  let port := s.fixedLat x.ctx 0x0240 1
  let last := x.t + lines.length * port
  let data := (rows.zip (List.range 32)).flatMap fun q => linePieces (q.1.length + 1) (addr + q.2 * stride) q.1
  let rest := (scales.zip (List.range 32)).map (fun q => LandAct.bytes (plane.1 + q.2 * plane.2) [BitVec.ofNat 8 q.1])
    ++ (status.toList.map fun a =>
        LandAct.bytes a (leBytes 16 (StatusRec.of (storeSource v src cv) sc sc false tile).toNat))
    ++ (storeRanges addr stride cv plane status).flatMap fun q =>
        s.markActs x.ctx h.stamped q.1 q.2 wstamp cv.rand.tensorId
  let bad := if fmtInt cv.src then 0 else nonfiniteCount (storeSource v src cv)
  let s1 := s.modAcc h.acc fun A =>
    (data.foldl (fun B q => B.await (x.t + (linePlace lines q.1 + 1) * port) 8 [.bytes q.1 q.2]) A).await last 8 rest
  (s1.modVe h.acc fun v => { v with storeFree := x.t + s.portTime x.ctx (rowRanges addr stride cv.tgt) }).bump
    (kVeNonfiniteOut h.acc) bad

/-- VE_STORE (R74 to R76). -/
def execVeStore (h : Issue) (src : Fin 64) (addr stride : Nat) (cv : CvtParams) (sreg : Fin 32) (plane : Nat × Nat)
    (status : Option Nat) (tile : Nat) (wstamp : Byte) (s : State) : Host.Outcome State Fault Refusal :=
  engineIssue h 0 (unitId 2 h.acc) (atTop h.acc (storeDets h src addr stride cv sreg plane status))
    (atTop h.acc fun s x => s.veStore h src addr stride cv sreg plane status tile wstamp x) s

end Sys2Proof.Machine
end

