-- ==== Sys2Proof/Machine/Dispatch.lean ====
section
/-!
DEFINITION. One arm per command: a direct call of its meaning, or a rejection by name.
-/
namespace Sys2Proof.Machine

/-- The effect of a command on everything but the queue. -/
def exec (i : Instr) (s : State) : Host.Outcome State Fault Refusal :=
  match i with
  | .pass h e p => Sys2Proof.Machine.execPass h e p s
  | .epilogue h e p => Sys2Proof.Machine.execEpilogue h e p s
  | .veLoad h dst addr stride fmt widen scale rstamp tensor => Sys2Proof.Machine.execVeLoad h dst addr stride fmt widen scale rstamp tensor s
  | .veStore h src addr stride cv sreg plane status tile wstamp => Sys2Proof.Machine.execVeStore h src addr stride cv sreg plane status tile wstamp s
  | .add h dst a b => Sys2Proof.Machine.execAdd h dst a b s
  | .sub h dst a b => Sys2Proof.Machine.execSub h dst a b s
  | .mul h dst a b => Sys2Proof.Machine.execMul h dst a b s
  | .fma h dst a b c => Sys2Proof.Machine.execFma h dst a b c s
  | .div h dst a b => Sys2Proof.Machine.execDiv h dst a b s
  | .sqrt h dst a => Sys2Proof.Machine.execSqrt h dst a s
  | .min h dst a b => Sys2Proof.Machine.execMin h dst a b s
  | .max h dst a b => Sys2Proof.Machine.execMax h dst a b s
  | .abs h dst a => Sys2Proof.Machine.execAbs h dst a s
  | .neg h dst a => Sys2Proof.Machine.execNeg h dst a s
  | .cmp h k cond ty a b => Sys2Proof.Machine.execCmp h k cond ty a b s
  | .sel h dst k a b => Sys2Proof.Machine.execSel h dst k a b s
  | .intAdd h ty dst a b => Sys2Proof.Machine.execIntAdd h ty dst a b s
  | .intSub h ty dst a b => Sys2Proof.Machine.execIntSub h ty dst a b s
  | .intMul h ty dst a b => Sys2Proof.Machine.execIntMul h ty dst a b s
  | .shl h ty dst a b => Sys2Proof.Machine.execShl h ty dst a b s
  | .shr h ty dst a b => Sys2Proof.Machine.execShr h ty dst a b s
  | .sra h ty dst a b => Sys2Proof.Machine.execSra h ty dst a b s
  | .and h ty dst a b => Sys2Proof.Machine.execAnd h ty dst a b s
  | .or h ty dst a b => Sys2Proof.Machine.execOr h ty dst a b s
  | .xor h ty dst a b => Sys2Proof.Machine.execXor h ty dst a b s
  | .cvt h dst dst2 a cv => Sys2Proof.Machine.execCvt h dst dst2 a cv s
  | .exp h dst a => Sys2Proof.Machine.execExp h dst a s
  | .log h dst a => Sys2Proof.Machine.execLog h dst a s
  | .rsqrt h dst a => Sys2Proof.Machine.execRsqrt h dst a s
  | .rcp h dst a => Sys2Proof.Machine.execRcp h dst a s
  | .tanh h dst a => Sys2Proof.Machine.execTanh h dst a s
  | .erf h dst a => Sys2Proof.Machine.execErf h dst a s
  | .rand h dst r => Sys2Proof.Machine.execRand h dst r s
  | .dropout h k p r => Sys2Proof.Machine.execDropout h k p r s
  | .rowsumSeq h dst a carry => Sys2Proof.Machine.execRowsumSeq h dst a carry s
  | .rowsumTree h dst a => Sys2Proof.Machine.execRowsumTree h dst a s
  | .colsumSeq h dst a carry => Sys2Proof.Machine.execColsumSeq h dst a carry s
  | .rowmax h dst a => Sys2Proof.Machine.execRowmax h dst a s
  | .rowamax h dst a => Sys2Proof.Machine.execRowamax h dst a s
  | .colmax h dst a => Sys2Proof.Machine.execColmax h dst a s
  | .colamax h dst a => Sys2Proof.Machine.execColamax h dst a s
  | .mov h dst a => Sys2Proof.Machine.execMov h dst a s
  | .bcast h dst a => Sys2Proof.Machine.execBcast h dst a s
  | .transpose h dst a => Sys2Proof.Machine.execTranspose h dst a s
  | .scatterAdd h addr idx data wstamp tensor => Sys2Proof.Machine.execScatterAdd h addr idx data wstamp tensor s
  | .entropy h dst => Sys2Proof.Machine.execEntropy h dst s
  | .taskPush h d => Sys2Proof.Machine.execTaskPush h d s
  | .taskDispatch acc cyc => Sys2Proof.Machine.execTaskDispatch acc cyc s
  | .taskEnd acc core cyc acts => Sys2Proof.Machine.execTaskEnd acc core cyc acts s
  | .taskTrap acc core cyc acts addr cause => Sys2Proof.Machine.execTaskTrap acc core cyc acts addr cause s
  | .taskBudgetOverrun acc core cyc acts => Sys2Proof.Machine.execTaskBudgetOverrun acc core cyc acts s
  | .tokenPush h q value => Sys2Proof.Machine.execTokenPush h q value s
  | .tokenPop h q n => Sys2Proof.Machine.execTokenPop h q n s
  | .phaseEnd h vacc => Sys2Proof.Machine.execPhaseEnd h vacc s
  | .code acc core job obs => Sys2Proof.Machine.execCode acc core job obs s
  | .codeMx8 acc core job obs => Sys2Proof.Machine.execCodeMx8 acc core job obs s
  | .decode acc core job obs => Sys2Proof.Machine.execDecode acc core job obs s
  | .codecJobDone acc cyc => Sys2Proof.Machine.execCodecJobDone acc cyc s
  | .tolerantFreeze p cyc => Sys2Proof.Machine.execTolerantFreeze p cyc s
  | .freezeEnd p => Sys2Proof.Machine.execFreezeEnd p s
  | .lateOperandResume p waited up => Sys2Proof.Machine.execLateOperandResume p waited up s
  | .lateLimit p => Sys2Proof.Machine.execLateLimit p s
  | .arbiterGrant arb cyc reqs up => Sys2Proof.Machine.execArbiterGrant arb cyc reqs up s
  | .arbShadow a k w => Sys2Proof.Machine.execArbShadow a k w s
  | .chipArbShadow k w => Sys2Proof.Machine.execChipArbShadow k w s
  | .chipImageSwap => Sys2Proof.Machine.execChipImageSwap s
  | .arbFreeze arb => Sys2Proof.Machine.execArbFreeze arb s
  | .arbUnfreeze arb => Sys2Proof.Machine.execArbUnfreeze arb s
  | .accessRead acc e cyc idx ins obs => Sys2Proof.Machine.execAccessRead acc e cyc idx ins obs s
  | .accessWrite acc e cyc idx ins up => Sys2Proof.Machine.execAccessWrite acc e cyc idx ins up s
  | .accessSignal acc e cyc idx ins => Sys2Proof.Machine.execAccessSignal acc e cyc idx ins s
  | .accessWait acc e cyc idx ins up => Sys2Proof.Machine.execAccessWait acc e cyc idx ins up s
  | .accessPhaseEnd acc e cyc idx vacc => Sys2Proof.Machine.execAccessPhaseEnd acc e cyc idx vacc s
  | .readLanded acc e cyc => Sys2Proof.Machine.execReadLanded acc e cyc s
  | .writeVisible acc e cyc => Sys2Proof.Machine.execWriteVisible acc e cyc s
  | .move acc c cyc up obs => Sys2Proof.Machine.execMove acc c cyc up obs s
  | .loop acc c cyc up => Sys2Proof.Machine.execLoop acc c cyc up s
  | .dmaWait acc c cyc up => Sys2Proof.Machine.execDmaWait acc c cyc up s
  | .dmaSignal acc c cyc up => Sys2Proof.Machine.execDmaSignal acc c cyc up s
  | .dmaEnd acc c cyc up => Sys2Proof.Machine.execDmaEnd acc c cyc up s
  | .dmaWaitEnd acc c cyc up => Sys2Proof.Machine.execDmaWaitEnd acc c cyc up s
  | .dmaResume acc c cyc => Sys2Proof.Machine.execDmaResume acc c cyc s
  | .dmaDisable acc c cause => Sys2Proof.Machine.execDmaDisable acc c cause s
  | .dmaDrained acc c => Sys2Proof.Machine.execDmaDrained acc c s
  | .dmaEnable acc c => Sys2Proof.Machine.execDmaEnable acc c s
  | .qreset acc q => Sys2Proof.Machine.execQreset acc q s
  | .tierRead t addr who obs => Sys2Proof.Machine.execTierRead t addr who obs s
  | .tierWrite t addr data who obs => Sys2Proof.Machine.execTierWrite t addr data who obs s
  | .fillComplete t granule => Sys2Proof.Machine.execFillComplete t granule s
  | .bucketLeak t ch incr => Sys2Proof.Machine.execBucketLeak t ch incr s
  | .correctedWriteBack t cw => Sys2Proof.Machine.execCorrectedWriteBack t cw s
  | .scrubVisit t ch granted obs => Sys2Proof.Machine.execScrubVisit t ch granted obs s
  | .vmapDiscard value => Sys2Proof.Machine.execVmapDiscard value s
  | .memoryLoopback value => Sys2Proof.Machine.execMemoryLoopback value s
  | .memoryLoopbackDone errors => Sys2Proof.Machine.execMemoryLoopbackDone errors s
  | .monCfg e value => Sys2Proof.Machine.execMonCfg e value s
  | .partMask p mask => Sys2Proof.Machine.execPartMask p mask s
  | .tctData data => Sys2Proof.Machine.execTctData data s
  | .tctDataRead => Sys2Proof.Machine.execTctDataRead s
  | .ctxCfg c w => Sys2Proof.Machine.execCtxCfg c w s
  | .queueTailWrite q tail => Sys2Proof.Machine.execQueueTailWrite q tail s
  | .queueHeadWrite q head => Sys2Proof.Machine.execQueueHeadWrite q head s
  | .completionRelease q => Sys2Proof.Machine.execCompletionRelease q s
  | .preempt c => Sys2Proof.Machine.execPreempt c s
  | .saveComplete c ups => Sys2Proof.Machine.execSaveComplete c ups s
  | .resume c => Sys2Proof.Machine.execResume c s
  | .restoreComplete c => Sys2Proof.Machine.execRestoreComplete c s
  | .teardown c => Sys2Proof.Machine.execTeardown c s
  | .abortReq value => Sys2Proof.Machine.execAbortReq value s
  | .start c => Sys2Proof.Machine.execStart c s
  | .stop c setgen gen => Sys2Proof.Machine.execStop c setgen gen s
  | .drydown c => Sys2Proof.Machine.execDrydown c s
  | .snapshot c => Sys2Proof.Machine.execSnapshot c s
  | .testWindow c => Sys2Proof.Machine.execTestWindow c s
  | .switchWeights c => Sys2Proof.Machine.execSwitchWeights c s
  | .launchLate c a => Sys2Proof.Machine.execLaunchLate c a s
  | .selfLaunch c => Sys2Proof.Machine.execSelfLaunch c s
  | .launchEntry e value via => Sys2Proof.Machine.execLaunchEntry e value via s
  | .holdWrite value via => Sys2Proof.Machine.execHoldWrite value via s
  | .counterClear value => Sys2Proof.Machine.execCounterClear value s
  | .syncPulse offsetEc => Sys2Proof.Machine.execSyncPulse offsetEc s
  | .timeBeacon port stampEc master hops => Sys2Proof.Machine.execTimeBeacon port stampEc master hops s
  | .beaconSend => Sys2Proof.Machine.execBeaconSend s
  | .syncHoldover => Sys2Proof.Machine.execSyncHoldover s
  | .syncLost => Sys2Proof.Machine.execSyncLost s
  | .grandmasterFailover => Sys2Proof.Machine.execGrandmasterFailover s
  | .thermalReport pos value => Sys2Proof.Machine.execThermalReport pos value s
  | .sensorRead temps => Sys2Proof.Machine.execSensorRead temps s
  | .clockRestored => Sys2Proof.Machine.execClockRestored s
  | .frameReceive p f => Sys2Proof.Machine.execFrameReceive p f s
  | .negativeAck p lseq => Sys2Proof.Machine.execNegativeAck p lseq s
  | .write pkt fromBridge obs => Sys2Proof.Machine.execWrite pkt fromBridge obs s
  | .readReq pkt obs => Sys2Proof.Machine.execReadReq pkt obs s
  | .readRsp pkt => Sys2Proof.Machine.execReadRsp pkt s
  | .queuePush pkt => Sys2Proof.Machine.execQueuePush pkt s
  | .odRead pkt accepted => Sys2Proof.Machine.execOdRead pkt accepted s
  | .treeReduce pkt obs => Sys2Proof.Machine.execTreeReduce pkt obs s
  | .flowDigest pkt obs => Sys2Proof.Machine.execFlowDigest pkt obs s
  | .verdict pkt obs => Sys2Proof.Machine.execVerdict pkt obs s
  | .xchTimeout c row => Sys2Proof.Machine.execXchTimeout c row s
  | .commit c => Sys2Proof.Machine.execCommit c s
  | .closure c pkt obs => Sys2Proof.Machine.execClosure c pkt obs s
  | .closureEnd c pkt obs => Sys2Proof.Machine.execClosureEnd c pkt obs s
  | .cmpTimeout c => Sys2Proof.Machine.execCmpTimeout c s
  | .digestSeal c => Sys2Proof.Machine.execDigestSeal c s
  | .scheduledSlot p => Sys2Proof.Machine.execScheduledSlot p s
  | .slotShadow p w => Sys2Proof.Machine.execSlotShadow p w s
  | .slotImageSwap p => Sys2Proof.Machine.execSlotImageSwap p s
  | .flowData value obs => Sys2Proof.Machine.execFlowData value obs s
  | .flowFetch flow => Sys2Proof.Machine.execFlowFetch flow s
  | .linkTraining p ok flight => Sys2Proof.Machine.execLinkTraining p ok flight s
  | .portLoopback p value => Sys2Proof.Machine.execPortLoopback p value s
  | .portLoopbackDone p errors => Sys2Proof.Machine.execPortLoopbackDone p errors s
  | .hostTransmit r pkt host => Sys2Proof.Machine.execHostTransmit r pkt host s
  | .hostReceive r => Sys2Proof.Machine.execHostReceive r s
  | .rxRingTail r tail host => Sys2Proof.Machine.execRxRingTail r tail host s
  | .msixRaise v => Sys2Proof.Machine.execMsixRaise v s
  | .functionLevelReset => Sys2Proof.Machine.execFunctionLevelReset s
  | .xcheckRelease value => Sys2Proof.Machine.execXcheckRelease value s
  | .xcheckReport data => Sys2Proof.Machine.execXcheckReport data s
  | .auditReq data => Sys2Proof.Machine.execAuditReq data s
  | .auditDone => Sys2Proof.Machine.execAuditDone s
  | .checkpointCopyDone c => Sys2Proof.Machine.execCheckpointCopyDone c s
  | .blotterAppend => Sys2Proof.Machine.execBlotterAppend s
  | .recoveryWindowEnd sc => Sys2Proof.Machine.execRecoveryWindowEnd sc s
  | .recovery masks => Sys2Proof.Machine.execRecovery masks s
  | .fenceReq unit => Sys2Proof.Machine.execFenceReq unit s
  | .unfenceReq unit => Sys2Proof.Machine.execUnfenceReq unit s
  | .unfenceTestDone mask => Sys2Proof.Machine.execUnfenceTestDone mask s
  | .testReq mask => Sys2Proof.Machine.execTestReq mask s
  | .accordTestDue a => Sys2Proof.Machine.execAccordTestDue a s
  | .testForced a => Sys2Proof.Machine.execTestForced a s
  | .accordTestDone a mask => Sys2Proof.Machine.execAccordTestDone a mask s
  | .verify set => Sys2Proof.Machine.execVerify set s
  | .flaconLoad set layer => Sys2Proof.Machine.execFlaconLoad set layer s
  | .seal set => Sys2Proof.Machine.execSeal set s
  | .sealDone set => Sys2Proof.Machine.execSealDone set s
  | .decant set => Sys2Proof.Machine.execDecant set s
  | .decantCopyStart set => Sys2Proof.Machine.execDecantCopyStart set s
  | .layerCopyDone set obs => Sys2Proof.Machine.execLayerCopyDone set obs s
  | .gateLimit set => Sys2Proof.Machine.execGateLimit set s
  | .release set => Sys2Proof.Machine.execRelease set s
  | .epochPending c data => Sys2Proof.Machine.execEpochPending c data s
  | .keyslotWrite w => Sys2Proof.Machine.execKeyslotWrite w s
  | .attestReq nonce => Sys2Proof.Machine.execAttestReq nonce s
  | .attestDone => Sys2Proof.Machine.execAttestDone s
  | .fwNop r env => Sys2Proof.Machine.execFwNop r env s
  | .load r env bin fallback peers => Sys2Proof.Machine.execLoad r env bin fallback peers s
  | .unload r env => Sys2Proof.Machine.execUnload r env s
  | .fwStage r env flashOk => Sys2Proof.Machine.execFwStage r env flashOk s
  | .fwActivate r env recordBefore faultDuring => Sys2Proof.Machine.execFwActivate r env recordBefore faultDuring s
  | .restart r env => Sys2Proof.Machine.execRestart r env s
  | .taskFault task => Sys2Proof.Machine.execTaskFault task s
  | .kernelFault core => Sys2Proof.Machine.execKernelFault core s
  | .watchdogExpiry core => Sys2Proof.Machine.execWatchdogExpiry core s
  | .flashWindowOpen busFree startSeen => Sys2Proof.Machine.execFlashWindowOpen busFree startSeen s
  | .flashWindowClose => Sys2Proof.Machine.execFlashWindowClose s
  | .statusWriteDone readBackOk => Sys2Proof.Machine.execStatusWriteDone readBackOk s
  | .startUp env => Sys2Proof.Machine.execStartUp env s
  | .startLimit => Sys2Proof.Machine.execStartLimit s
  | .entryWrite a data accepted => Sys2Proof.Machine.execEntryWrite a data accepted s
  | .oobRead a len accepted => Sys2Proof.Machine.execOobRead a len accepted s
  | .busyTimeout a write => Sys2Proof.Machine.execBusyTimeout a write s
  | .configCommit value => Sys2Proof.Machine.execConfigCommit value s
  | .configSweep crc mirror => Sys2Proof.Machine.execConfigSweep crc mirror s
  | .errStatusClear area v => Sys2Proof.Machine.execErrStatusClear area v s
  | .eventIrqHoldoff => Sys2Proof.Machine.execEventIrqHoldoff s
  | .setEndpointId eid => Sys2Proof.Machine.execSetEndpointId eid s
  | .getEndpointId => Sys2Proof.Machine.execGetEndpointId s
  | .getMctpVersionSupport => Sys2Proof.Machine.execGetMctpVersionSupport s
  | .getMessageTypeSupport => Sys2Proof.Machine.execGetMessageTypeSupport s
  | .getVendorDefinedMsgSupport => Sys2Proof.Machine.execGetVendorDefinedMsgSupport s
  | .rstdaa => Sys2Proof.Machine.execRstdaa s
  | .entdaa addr => Sys2Proof.Machine.execEntdaa addr s
  | .setdasa addr => Sys2Proof.Machine.execSetdasa addr s
  | .setaasa => Sys2Proof.Machine.execSetaasa s
  | .enec events => Sys2Proof.Machine.execEnec events s
  | .disec events => Sys2Proof.Machine.execDisec events s
  | .rstact action => Sys2Proof.Machine.execRstact action s
  | .setmwl v => Sys2Proof.Machine.execSetmwl v s
  | .getmwl => Sys2Proof.Machine.execGetmwl s
  | .setmrl v => Sys2Proof.Machine.execSetmrl v s
  | .getmrl => Sys2Proof.Machine.execGetmrl s
  | .resetAssert pwrgoodFalls => Sys2Proof.Machine.execResetAssert pwrgoodFalls s
  | .strapLatch straps glitch testEn => Sys2Proof.Machine.execStrapLatch straps glitch testEn s
  | .phaseSwitch => Sys2Proof.Machine.execPhaseSwitch s
  | .phaseDrive => Sys2Proof.Machine.execPhaseDrive s
  | .syncOutPulse => Sys2Proof.Machine.execSyncOutPulse s
  | .heartbeat => Sys2Proof.Machine.execHeartbeat s
  | .dumpCycle badFrames => Sys2Proof.Machine.execDumpCycle badFrames s
  | .railRead mv => Sys2Proof.Machine.execRailRead mv s
  | .d2dLoopback value => Sys2Proof.Machine.execD2dLoopback value s
  | .d2dLoopbackDone errors => Sys2Proof.Machine.execD2dLoopbackDone errors s
  | .portDown p => Sys2Proof.Machine.execPortDown p s
  | .freeWireTime p => Sys2Proof.Machine.execFreeWireTime p s
  | .launchRepeat => Sys2Proof.Machine.execLaunchRepeat s
  | .d2dTraining ok => Sys2Proof.Machine.execD2dTraining ok s
  | .verifyDone set => Sys2Proof.Machine.execVerifyDone set s
  | .vmapDiscardDone => Sys2Proof.Machine.execVmapDiscardDone s
  | .dramTemperatureReport t unit hot => Sys2Proof.Machine.execDramTemperatureReport t unit hot s
  | .ceWindowExpiry kind unit => Sys2Proof.Machine.execCeWindowExpiry kind unit s
  | .fwMalformedCommand r env => Sys2Proof.Machine.execFwMalformedCommand r env s
  | .pcieLinkDown => Sys2Proof.Machine.execPcieLinkDown s
  | .perstN => Sys2Proof.Machine.execPerstN s
  | .getpid => Sys2Proof.Machine.execGetpid s
  | .getbcr => Sys2Proof.Machine.execGetbcr s
  | .getdcr => Sys2Proof.Machine.execGetdcr s
  | .getstatus => Sys2Proof.Machine.execGetstatus s
  | .getmxds => Sys2Proof.Machine.execGetmxds s

end Sys2Proof.Machine
end

