-- ==== Sys2Proof/Machine/Tick.lean ====
section
/-!
DEFINITION. One tick of TCLK, which passes when no command waits (log entry 1): G advances (R215), the running-batch
builds that are due complete (R201), and the launch table fires (R221). What fires becomes commands of the queue, which run
before the next tick.
-/
namespace Sys2Proof.Machine

/-! ### Firing (R221) -/

/-- The action codes in firing order (Table 10-3): STOP, DRYDOWN, SNAPSHOT, TEST_WINDOW, SWITCH_WEIGHTS, START. -/
def firingOrder : List Nat := [2, 4, 5, 6, 3, 1]
/-- An entry fires in this tick. -/
def State.due (s : State) (e : Nat) : Bool := armed (s.launch e) && decide (lCount (s.launch e) ≤ s.g)
/-- A context number as an operand. -/
def ctxFin (c : Nat) : Fin 256 := ⟨c % 256, Nat.mod_lt _ (by decide)⟩
/-- The command of a launch entry value: its action on its target. -/
def launchCmd (v : Nat) : Option Instr :=
  let c := ctxFin (lTarget v)
  match lAction v with
  | 1 => some (.start c)
  | 2 => some (.stop c (bit v 5) ⟨bits v 4 1 % 16, Nat.mod_lt _ (by decide)⟩)
  | 3 => some (.switchWeights c)
  | 4 => some (.drydown c)
  | 5 => some (.snapshot c)
  | 6 => some (.testWindow c)
  | _ => none
/-- An entry after its firing: a periodic one adds PERIOD; a one-shot one, or one whose sum reaches 2^64, clears ARMED. -/
def State.rearm (s : State) (e : Nat) : State :=
  let v := s.launch e
  let n := lCount v + lPeriod v + s.holdExtra e
  s.launchPut e (if lPeriod v = 0 ∨ 2 ^ 64 ≤ n then setBits v 0 0 0 else setBits v 127 64 n)
/-- The entries that fire, in firing order. -/
def State.firing (s : State) : List Nat :=
  firingOrder.flatMap fun a => (List.range 64).filter fun e => s.due e && lAction (s.launch e) == a

/-! ### Waiting actions and self-launch (R224, R225) -/

/-- The contexts whose waiting action can now take effect. -/
def State.waiting (s : State) : List Instr :=
  (s.ctx.filter fun e => s.waits e.1 4 && s.canDry e.1).map (fun e => .launchLate (ctxFin e.1) .drydown)
    ++ (s.ctx.filter fun e => s.waits e.1 1 && s.canStart e.1).map fun e => .launchLate (ctxFin e.1) .start
/-- A context launches itself in this tick. -/
def State.selfDue (s : State) (c : Nat) : Bool :=
  let x := s.ctxAt c
  x.st != .free && s.launchesItself c && s.canStart c && (!x.started || decide (x.dryAt + s.odGet kAdmitTime ≤ s.g))
/-- The contexts that launch themselves in this tick. -/
def State.selfLaunches (s : State) : List Instr :=
  (s.ctx.filter fun e => s.selfDue e.1).map fun e => .selfLaunch (ctxFin e.1)

/-! ### The tick -/

/-- Complete the running-batch builds whose ADMIT_TIME has passed (R201). -/
def State.buildsDue (s : State) : State :=
  s.ctx.foldl (fun (t : State) e =>
    let x := t.ctxAt e.1
    if x.buildPending && decide (x.dryAt + t.odGet kAdmitTime ≤ t.g) then t.build e.1 else t) s
/-- One tick while the units run: four cycles of ECLK, two while its clocks are halved (R7). -/
def State.liveTick (s : State) : State :=
  let s0 := s.advanceG
  let s1 := { s0 with time := { s0.time with ec := s0.time.ec + if s0.halved then 2 else 4 } }.windowLimit.buildsDue
  let fired := s1.firing
  let s2 := fired.foldl (fun (t : State) e => t.rearm e) s1
  { s2 with pending := fired.filterMap (fun e => launchCmd (s1.launch e)) ++ s1.waiting ++ s1.selfLaunches }
/-- One tick: in STRAP, before the clocks, nothing counts; in BOOT and DUMP only G does. -/
def State.tick (s : State) : State :=
  if s.live then s.liveTick
  else if s.odGet kPhase = 0 then s
  else { s with time := { s.time with g := s.time.g + 1 } }

end Sys2Proof.Machine
end

