-- ==== Sys2Proof/Safety.lean ====
section
/-!
DEFINITION. The terms in which claims are stated: a safe run, the canonical form of the memories, the conditions under which
an instruction executes, and what a command leaves alone.
-/
namespace Sys2Proof.Machine

/-! ### Runs and memories -/

/-- The off-chip memories are in their canonical form: addresses rise, and no listed byte is what an unlisted address
reads as. Two equal memories are then equal data. -/
def State.memOk (s : State) : Prop := Memory.wf s.heart = true ∧ Memory.wf s.base = true
/-- In every FILLING granule the cells of the code words that no write has reached hold zeros (R156). -/
def State.fillsOk (s : State) : Prop :=
  ∀ f ∈ s.fills, ∀ i < 65536, i / 64 ∉ f.mask → (if f.base then s.base else s.heart).read (f.granule * 65536 + i) = 0
/-- The invariant of the machine: its memories are in canonical form, FILLING granules hold zeros where nothing was written, the
blotter's staging queue and the list of remembered aborts hold at most 64 entries (R156, R212, R294). -/
def State.inv (s : State) : Prop := s.memOk ∧ s.fillsOk ∧ s.blot.staging.length ≤ 64 ∧ s.marks.length ≤ 64
/-- A step answers a next state. -/
def State.goesOn (s : State) : Prop := ∃ t, step s = .next t
/-- A safe run of `n` steps: each answers a next state. -/
def State.safeFor : Nat → State → Prop
  | 0, _ => True
  | n + 1, s => ∃ t, step s = .next t ∧ t.safeFor n

/-! ### The issue of a compute-stream instruction -/

/-- The memories that the instruction reads report no uncorrectable word; corrected errors do not stop it (R69). -/
def readsWell (h : Issue) : Prop := ∀ k a y, h.upset ≠ .uncorrectable k a y
/-- The instruction issues for context `c` of partition `p`: its accord exists and belongs to the partition, the context is
RUNNING inside a step on it, nothing is frozen or fenced (`State.issuer` says all of it). -/
def State.issuesFor (s : State) (h : Issue) (p c : Nat) : Prop :=
  s.issuer h.acc = some (p, c) ∧ readsWell h
/-- The same for an instruction whose reads report nothing. What a corrected error adds is stated once for all of them. -/
def State.issuesClean (s : State) (h : Issue) (p c : Nat) : Prop :=
  s.issuer h.acc = some (p, c) ∧ h.upset = .none
/-- Row `i` of Table 4-2 may issue: the pipe is free, every register read has landed, and every register written lands after
its earlier write (R77, R80). -/
def State.veFree (s : State) (h : Issue) (p c i : Nat) (reads writes : List Nat) : Prop :=
  (s.veAt h.acc).pipeFree ≤ s.schedAt p h.cyc ∧ (∀ r ∈ reads, (s.veAt h.acc).landed r ≤ s.schedAt p h.cyc)
    ∧ ∀ r ∈ writes, (s.veAt h.acc).landed r < s.schedAt p h.cyc + s.opLat c i

/-- A read of the ranges `l` finds the stamps and the ownership tags it names, where the context's mode checks them
(R113, R114). -/
def State.marksMatch (s : State) (h : Issue) (c : Nat) (l : List (Nat × Nat)) (st : Byte) (tensor : Nat) : Prop :=
  ∀ q ∈ l, s.readDets c h.acc h.stamped q.1 q.2 st tensor = []
/-- The tag table of a random operation, where it has one, lies in the top tier (R118) and holds the marks that its reading
expects (R113, R114). -/
def State.tagsRead (s : State) (h : Issue) (c : Nat) (r : RandInfo) : Prop :=
  ∀ q, r.tags = some q → inTop q.addr 512 = true ∧ s.marksMatch h c [(q.addr, 512)] q.rstamp q.tensor

/-! ### What a command leaves alone -/

/-- Every byte of the two off-chip tiers reads as before. -/
def SameTiers (s t : State) : Prop := t.heart = s.heart ∧ t.base = s.base
/-- Of the accords only accord `a` may differ; the tiers and the contexts do not. -/
def OnlyAccord (s t : State) (a : Nat) : Prop :=
  (∀ b, b % 16 ≠ a % 16 → t.accAt b = s.accAt b) ∧ SameTiers s t ∧ t.ctx = s.ctx
/-- Of accord `a` only the vector engine differs, and of that not the registers in `keep`. -/
def OnlyVe (s t : State) (a : Nat) : Prop :=
  OnlyAccord s t a ∧ t.accAt a = { s.accAt a with ve := t.veAt a }
/-- Tile register `dst` takes `v`; every other register, all of the top tier and of the tiers stay. -/
def TileWritten (s t : State) (a : Nat) (dst : Fin 64) (v : List W32) : Prop :=
  OnlyVe s t a ∧ (t.veAt a).tile dst = v ∧ (∀ r : Fin 64, r ≠ dst → (t.veAt a).tile r = (s.veAt a).tile r)
    ∧ (t.veAt a).scalars = (s.veAt a).scalars ∧ (t.veAt a).masks = (s.veAt a).masks
/-- Mask register `k` takes `v`; every other register, all of the top tier and of the tiers stay. -/
def MaskWritten (s t : State) (a : Nat) (k : Fin 8) (v : List Bool) : Prop :=
  OnlyVe s t a ∧ (t.veAt a).mask k = v ∧ (∀ r : Fin 8, r ≠ k → (t.veAt a).mask r = (s.veAt a).mask r)
    ∧ (t.veAt a).tiles = (s.veAt a).tiles ∧ (t.veAt a).scalars = (s.veAt a).scalars
/-- Address `q` lies outside every range of `l`. -/
def outside (l : List (Nat × Nat)) (q : Nat) : Prop := ∀ r ∈ l, q < r.1 ∨ r.1 + r.2 ≤ q
/-- Every byte of accord `a`'s top tier outside the ranges `l` reads as before; so does, where the context runs with
ownership tags, every byte outside the area that holds them. -/
def TopKept (s t : State) (c a : Nat) (l : List (Nat × Nat)) : Prop :=
  ∀ q, outside l q → (s.ownTags c = true → q < spSize - 32768 ∨ spSize ≤ q) →
    (t.accAt a).top.read q = (s.accAt a).top.read q
/-- A token of value `v` that a source of rank `r` pushed in cycle `t` has entered a queue: behind the tokens of earlier cycles and
behind those of its cycle whose source comes first, before the others (R132). -/
def Entered (old new : List Token) (v : W32) (t r : Nat) : Prop :=
  ∃ l m, old = l ++ m ∧ new = l ++ ⟨v, some t, r⟩ :: m ∧ (∀ k ∈ l, k.ahead t r = true)
    ∧ ∀ k, m.head? = some k → k.ahead t r = false
/-- No write waits to land on accord `a`'s top tier. -/
def State.topQuiet (s : State) (a : Nat) : Prop := (s.accAt a).landing = []
/-- The two ranges share no byte. -/
def apart (a n b m : Nat) : Prop := a + n ≤ b ∨ b + m ≤ a

/-! ### Phases, access engines and channels -/

/-- What the end of stream `code` of context `c` in partition `p` at schedule time `t0` leads to (R93): the stream is marked;
the last one begins the next phase in the cycle after, or, after the last phase, ends the step's phases, and a context that
launches itself takes its DRYDOWN at once (R224, R225). -/
def PhaseEndEffect (s t : State) (p c code t0 : Nat) : Prop :=
  let x := s.ctxAt c
  let g := s.guardAt p
  let others : Prop := ∀ q ∈ x.streams, q = code ∨ q ∈ g.ended
  SameTiers s t
    ∧ (¬ others → t.acc = s.acc ∧ t.ctx = s.ctx ∧ code ∈ (t.guardAt p).ended ∧ (∀ q ∈ g.ended, q ∈ (t.guardAt p).ended)
        ∧ (t.guardAt p).phase = g.phase ∧ (t.guardAt p).phaseStart = g.phaseStart)
    ∧ (others → g.phase + 1 < x.phases → x.preempt = false →
        (t.guardAt p).phase = g.phase + 1 ∧ (t.guardAt p).phaseStart = max g.now t0 + 1 ∧ (t.guardAt p).ended = [])
    ∧ (others → x.phases ≤ g.phase + 1 → t.acc = s.acc ∧ (t.ctxAt c).phasesDone = true
        ∧ (s.launchesItself c = true → (t.ctxAt c).dry = .flow ∧ (t.ctxAt c).testReq = true)
        ∧ (s.launchesItself c = false → x.launchWait.contains 4 = false → (t.ctxAt c).dry = x.dry))
/-- A stream of context `c` may end its phase here: it has one, its virtual accord runs on accord `a`, and phases remain. -/
def State.streamOpen (s : State) (p c a vacc code : Nat) : Prop :=
  (s.ctxAt c).part = p ∧ (s.ctxAt c).phasesDone = false ∧ s.hostOf c vacc = some a ∧ code ∈ (s.ctxAt c).streams

/-- An access-stream instruction of accord `a` issues for context `c` of partition `p`. -/
def State.accessIssues (s : State) (a : Fin 16) (p c : Nat) : Prop :=
  s.issuer a = some (p, c)
/-- Channel `k` of accord `a` runs for context `c`, and its program counter names an instruction of opcode `op`. -/
def State.chanAtOp (s : State) (a : Fin 16) (k : Fin 8) (p c op : Nat) : Prop :=
  s.issuer a = some (p, c) ∧ s.chanState a k = .running ∧ chanOp (s.chanInstr a k) = op
/-- No fence lies in a range of a tier. -/
def State.unfenced (s : State) (base : Bool) (a n : Nat) : Prop :=
  s.rangeFenced base a n = false ∧ (∀ g ∈ granules a n, s.sliceFenced base (g * 65536) = false) ∧ s.sliceFenced base a = false
/-- A range of a tier has no byte in the area that holds the base map and the heart map's image (R149). -/
def State.offMap (s : State) (base : Bool) (a n : Nat) : Prop := base = true ∨ a + n ≤ s.resBase ∨ s.resBase + mapArea ≤ a
/-- In a machine whose FILLING granules are as R156 leaves them (`State.fillsOk`), a range of a tier that lies off the maps holds
`bs`; every other byte of that tier reads as before, and so does, off the maps, every byte of the other tier. -/
def TierHolds (s t : State) (base : Bool) (a : Nat) (bs : List Byte) : Prop :=
  s.fillsOk → s.offMap base a bs.length →
    t.tierBytes base a bs.length = bs
      ∧ (∀ q, outside [(a, bs.length)] q → t.tierBytes base q 1 = s.tierBytes base q 1)
      ∧ ∀ q, s.offMap (!base) q 1 → t.tierBytes (!base) q 1 = s.tierBytes (!base) q 1
/-- The window range at `off` of context `c` may be read at physical address `a`. -/
def State.mayRead (s : State) (c tier off n a : Nat) : Prop :=
  s.window c (tier == 1) off n false = some a ∧ s.rangeFenced (tier == 1) a n = false
/-- The window range at `off` of context `c` takes the bytes `bs` at physical address `a`. -/
def State.mayWrite (s : State) (c tier off : Nat) (bs : List Byte) (a : Nat) : Prop :=
  s.window c (tier == 1) off bs.length true = some a ∧ s.unfenced (tier == 1) a bs.length ∧ s.narrowHit c (tier == 1) a bs = none
/-- A write to a tier range goes on: nothing of it is fenced, and it is no narrow write into a digest region of its context. -/
def State.writable (s : State) (base : Bool) (a : Nat) (data : List Byte) (who : Requester) : Prop :=
  s.unfenced base a data.length ∧ ∀ c, (s.userOf who).ctx = some c → s.narrowHit c base a data = none

/-! ### Dictionary accesses -/

/-- The write sequence of entry `key` is open on `path` with the bytes `old`, and not on the other path (R363). -/
def State.seqEnds (s : State) (key : Nat) (path : Path) (old : List Byte) : Prop :=
  s.seqOf key path = some ⟨key, path, old⟩ ∧ s.seqOf key (otherPath path) = none

/-! ### Digest exchanges -/

/-- A well-formed, unsuspect DIGEST_XCH packet of kind `kind` that asks for no answer lands whole at physical address `a` of the
receive region of context `c` (R242, R244, R248, R272). -/
def State.xchLands (s : State) (kind : Nat) (k : Packet) (c a : Nat) : Prop :=
  let e := s.flowEnt k.flow
  s.fencedBy k = false ∧ s.pktMalformed k = false ∧ k.opcode = 8 ∧ k.aux.toNat % 256 = kind ∧ k.suspect = false ∧ k.len ≠ 0 ∧ k.ackreq = false
    ∧ flowRecvEn e = true ∧ flowRecv e = c
    ∧ (flowEpchk e = true → (s.ctxAt c).inStep = true ∧ s.stepTag c = k.epoch ∧ (s.flowAt k.flow).expect = k.seq.toNat)
    ∧ k.addr + k.len ≤ flowSize e ∧ s.window c (flowBaseTier e) (flowBase e + k.addr) k.len true = some a
    ∧ s.unfenced (flowBaseTier e) a k.len ∧ s.narrowHit c (flowBaseTier e) a k.payload = none

/-! ### Firmware commands -/

/-- It is the turn of ring `r`, and the firmware SRAM reports nothing (R337, R341). -/
def State.fwReady (s : State) (r : Nat) (env : FwEnv) : Prop := env.sram = .none ∧ s.fwTurn r env.full = true
/-- A well-formed command of operation `op` waits at HEAD of ring `r`, whose turn it is (R341, R342). -/
def State.fwCommand (s : State) (r : Nat) (env : FwEnv) (op : Nat) : Prop :=
  s.fwReady r env ∧ fwWants op (s.fwHead r) (s.fwEntry r) = true
/-- The state that the service of ring `r` begins on: the next round goes on behind the ring, and the trace shows the command. -/
def State.fwServed (s : State) (r : Nat) : State := { s with fw := { s.fw with nextRing := (r + 1) % 8 } }.trace 0x0200
/-- The command at HEAD of ring `r` is answered with status `st`, which shows in its response ring where no fence keeps the write
out, and HEAD goes on to the next (R341, Table 15-5). -/
def FwAnswered (s t : State) (r st : Nat) : Prop :=
  let a := s.fwBase + 0x300000 + 16384 * r + 64 * (s.fw.respTail.getD r 0 % 256)
  t.fwHead r = (s.fwHead r + 1) % 2 ^ 32 ∧ (s.fillsOk → s.unfenced false a 64 → t.tierBytes false a 1 = leBytes 1 st)

end Sys2Proof.Machine
end

