-- ==== Sys2Proof/Certificates/Slice0/Obligations.lean ====
section
/-!
DEFINITION. The statements. Each docstring names the rules of spec/ that the statement rests on, and says where it rests on a
choice of the model (a log entry).
-/
open Sys2Proof Sys2Proof.Machine

/-! ### The step and the whole machine -/

/-- A step runs the command at the front of the queue on the state with the queue's rest. -/
def Obligations.StepRunsFrontCommand : Prop :=
  ∀ (s : State) (c : Instr) (rest : List Instr), s.pending = c :: rest → step s = exec c { s with pending := rest }

/-- A step on an empty queue is one tick: while the units run G advances by one, or by zero or two where a correction is made,
at most one in any 1,024 tk (R215); in STRAP, before the clocks run, nothing changes, and in any other phase only G
advances. That a tick passes then is the model's choice (log entry 1). -/
def Obligations.EmptyQueueTicks : Prop :=
  ∀ s : State, s.pending = [] →
    (s.live = true → ∃ t, step s = .next t ∧ s.g ≤ t.g ∧ t.g ≤ s.g + 2
      ∧ (t.g ≠ s.g + 1 → t.time.lastCorr = some s.g ∧ ∀ k, s.time.lastCorr = some k → k + 1024 ≤ s.g))
    ∧ (s.live = false → s.odGet kPhase = 0 → step s = .next s)
    ∧ (s.live = false → s.odGet kPhase ≠ 0 → ∃ t, step s = .next t ∧ t.g = s.g + 1 ∧ t.od = s.od ∧ t.acc = s.acc ∧ t.ctx = s.ctx
      ∧ SameTiers s t)

/-- The launch table fires in a tick: the commands of the armed entries whose COUNT has come head the queue, in the order
STOP, DRYDOWN, SNAPSHOT, TEST_WINDOW, SWITCH_WEIGHTS, START; a one-shot entry loses ARMED, a periodic one fires again after its
period and the holds made on it, and every other entry stays (R220, R221, R227). -/
def Obligations.LaunchTableFires : Prop :=
  ∀ s : State, s.pending = [] → s.live = true → ∃ t, step s = .next t
    ∧ (∃ w, t.pending = (firingOrder.flatMap fun a => (List.range 64).filter fun e =>
        armed (s.launch e) && decide (lCount (s.launch e) ≤ t.g) && lAction (s.launch e) == a).filterMap
          (fun e => launchCmd (s.launch e)) ++ w)
    ∧ ∀ e < 64, s.launch e < 2 ^ 128 →
        (armed (s.launch e) = false ∨ t.g < lCount (s.launch e) → t.launch e = s.launch e)
        ∧ (armed (s.launch e) = true → lCount (s.launch e) ≤ t.g → 1 ≤ lAction (s.launch e) → lAction (s.launch e) ≤ 6 →
            (lPeriod (s.launch e) = 0 → armed (t.launch e) = false ∧ lCount (t.launch e) = lCount (s.launch e))
            ∧ (lPeriod (s.launch e) ≠ 0 → lCount (s.launch e) + lPeriod (s.launch e) + s.holdExtra e < 2 ^ 64 →
                armed (t.launch e) = true
                ∧ lCount (t.launch e) = lCount (s.launch e) + lPeriod (s.launch e) + s.holdExtra e))

/-- No command touches the queue of waiting commands. -/
def Obligations.CommandsKeepQueue : Prop :=
  ∀ (c : Instr) (s t : State), exec c s = .next t → t.pending = s.pending

/-- Every command answers a next state, in every state: a detection, an error or a refused access is an effect on the state (a
stopped context, a record, a status), and no command stops the machine itself (R108, R121, R294, R361). -/
def Obligations.EveryCommandAnswers : Prop :=
  ∀ (c : Instr) (s : State), ∃ t, exec c s = .next t

/-! ### Vector engine: arithmetic -/

/-- FP32 arithmetic writes the lane-wise result into its destination and nothing else (R77, R79, R47).
Integer arithmetic and logic wrap modulo the lane width and write their destination and nothing else (R77).
The class G operations write the lane-wise result of their function and nothing else (R45, R77). A finite result is a
free choice among the FP32 values within one ulp (log entry 10); NaN, infinite and zero operands have the values of R45.
-/
def Obligations.VectorArithmetic : Prop :=
  (∀ (s : State) (h : Issue) (p x : Nat) (dst : Fin 64) (a b c : VSrc), s.issuesFor h p x →
      (s.veFree h p x 0 [srcReg a, srcReg b] [dst.val] →
        (∃ t, exec (.add h dst a b) s = .next t ∧ TileWritten s t h.acc dst (lanes2 add32 a b (s.veAt h.acc)))
        ∧ (∃ t, exec (.sub h dst a b) s = .next t ∧ TileWritten s t h.acc dst (lanes2 sub32 a b (s.veAt h.acc)))
        ∧ ∃ t, exec (.mul h dst a b) s = .next t ∧ TileWritten s t h.acc dst (lanes2 mul32 a b (s.veAt h.acc)))
      ∧ (s.veFree h p x 1 [srcReg a, srcReg b, srcReg c] [dst.val] →
        ∃ t, exec (.fma h dst a b c) s = .next t ∧ TileWritten s t h.acc dst (lanes3 fma32 a b c (s.veAt h.acc)))
      ∧ (s.veFree h p x 2 [srcReg a, srcReg b] [dst.val] →
        ∃ t, exec (.div h dst a b) s = .next t ∧ TileWritten s t h.acc dst (lanes2 div32 a b (s.veAt h.acc)))
      ∧ (s.veFree h p x 2 [srcReg a] [dst.val] →
        ∃ t, exec (.sqrt h dst a) s = .next t ∧ TileWritten s t h.acc dst (lanes1 sqrt32 a (s.veAt h.acc)))
      ∧ (s.veFree h p x 3 [srcReg a, srcReg b] [dst.val] →
        (∃ t, exec (.min h dst a b) s = .next t ∧ TileWritten s t h.acc dst (lanes2 min32 a b (s.veAt h.acc)))
        ∧ ∃ t, exec (.max h dst a b) s = .next t ∧ TileWritten s t h.acc dst (lanes2 max32 a b (s.veAt h.acc)))
      ∧ (s.veFree h p x 3 [srcReg a] [dst.val] →
        (∃ t, exec (.abs h dst a) s = .next t ∧ TileWritten s t h.acc dst (lanes1 abs32 a (s.veAt h.acc)))
        ∧ ∃ t, exec (.neg h dst a) s = .next t ∧ TileWritten s t h.acc dst (lanes1 neg32 a (s.veAt h.acc))))
  ∧ (∀ (s : State) (h : Issue) (p x : Nat) (ty : IntTy) (dst : Fin 64) (a b : VSrc), s.issuesFor h p x →
      s.veFree h p x 5 [srcReg a, srcReg b] [dst.val] →
      (∃ t, exec (.intAdd h ty dst a b) s = .next t
        ∧ TileWritten s t h.acc dst (lanes2 (intLane ty (· + ·) (· + ·)) a b (s.veAt h.acc)))
      ∧ (∃ t, exec (.intSub h ty dst a b) s = .next t
        ∧ TileWritten s t h.acc dst (lanes2 (intLane ty (· - ·) (· - ·)) a b (s.veAt h.acc)))
      ∧ (∃ t, exec (.intMul h ty dst a b) s = .next t
        ∧ TileWritten s t h.acc dst (lanes2 (intLane ty (· * ·) (· * ·)) a b (s.veAt h.acc)))
      ∧ (∃ t, exec (.and h ty dst a b) s = .next t
        ∧ TileWritten s t h.acc dst (lanes2 (intLane ty (· &&& ·) (· &&& ·)) a b (s.veAt h.acc)))
      ∧ (∃ t, exec (.or h ty dst a b) s = .next t
        ∧ TileWritten s t h.acc dst (lanes2 (intLane ty (· ||| ·) (· ||| ·)) a b (s.veAt h.acc)))
      ∧ ∃ t, exec (.xor h ty dst a b) s = .next t
        ∧ TileWritten s t h.acc dst (lanes2 (intLane ty (· ^^^ ·) (· ^^^ ·)) a b (s.veAt h.acc)))
  ∧ (∀ (s : State) (h : Issue) (p x : Nat) (dst : Fin 64) (a : VSrc), s.issuesFor h p x →
      s.veFree h p x 9 [srcReg a] [dst.val] →
      (∃ t, exec (.exp h dst a) s = .next t ∧ TileWritten s t h.acc dst (lanes1 exp32 a (s.veAt h.acc)))
      ∧ (∃ t, exec (.log h dst a) s = .next t ∧ TileWritten s t h.acc dst (lanes1 log32 a (s.veAt h.acc)))
      ∧ (∃ t, exec (.rsqrt h dst a) s = .next t ∧ TileWritten s t h.acc dst (lanes1 rsqrt32 a (s.veAt h.acc)))
      ∧ (∃ t, exec (.rcp h dst a) s = .next t ∧ TileWritten s t h.acc dst (lanes1 rcp32 a (s.veAt h.acc)))
      ∧ (∃ t, exec (.tanh h dst a) s = .next t ∧ TileWritten s t h.acc dst (lanes1 tanh32 a (s.veAt h.acc)))
      ∧ ∃ t, exec (.erf h dst a) s = .next t ∧ TileWritten s t h.acc dst (lanes1 erf32 a (s.veAt h.acc)))

/-- The shifts take the amount as the whole unsigned lane (the low 8 bits for INT8): SHL multiplies by its power of two modulo
the lane width, SHR divides, SRA divides the signed value towards minus infinity; an amount at or above the width gives zero, or
copies of the sign bit; an INT8 result has zero high bits (R400). -/
def Obligations.ShiftsByWholeAmount : Prop :=
  ∀ (s : State) (h : Issue) (p x : Nat) (dst : Fin 64) (a b : VSrc), s.issuesFor h p x →
    s.veFree h p x 5 [srcReg a, srcReg b] [dst.val] → ∀ ty : IntTy,
    (∃ t, exec (.shl h ty dst a b) s = .next t
      ∧ TileWritten s t h.acc dst (lanes2 (fun x n => match ty with
          | .int32 => BitVec.ofNat 32 (x.toNat * 2 ^ n.toNat)
          | .int8 => BitVec.ofNat 32 (x.toNat % 256 * 2 ^ (n.toNat % 256) % 256)) a b (s.veAt h.acc)))
    ∧ (∃ t, exec (.shr h ty dst a b) s = .next t
      ∧ TileWritten s t h.acc dst (lanes2 (fun x n => match ty with
          | .int32 => BitVec.ofNat 32 (x.toNat / 2 ^ n.toNat)
          | .int8 => BitVec.ofNat 32 (x.toNat % 256 / 2 ^ (n.toNat % 256))) a b (s.veAt h.acc)))
    ∧ ∃ t, exec (.sra h ty dst a b) s = .next t
      ∧ TileWritten s t h.acc dst (lanes2 (fun x n => match ty with
          | .int32 => BitVec.ofInt 32 (x.toInt / 2 ^ n.toNat)
          | .int8 => (BitVec.ofInt 8 ((x.setWidth 8).toInt / 2 ^ (n.toNat % 256))).setWidth 32) a b (s.veAt h.acc))

/-- The reductions write their 32 results in a broadcast shape and nothing else: sums in lane or row order from the carry-in or
+0.0, the canonical tree, maxima (R78, R30, R32, R47).
Comparison, selection and the bit copies (R77; the conditions and the polarity of a selection are the model's, log entry 24,
a scalar destination log entry 40).
-/
def Obligations.VectorReductionsAndCopies : Prop :=
  (∀ (s : State) (h : Issue) (p x : Nat) (dst : Fin 64) (a k : VSrc), s.issuesFor h p x →
      let v := s.veAt h.acc
      let rows := tileRows (v.src a)
      (s.veFree h p x 12 [srcReg a] [dst.val] →
        ∃ t, exec (.rowsumSeq h dst a none) s = .next t
          ∧ TileWritten s t h.acc dst (rowResult (List.zipWith seqSum (List.replicate 32 posZero) rows)))
      ∧ (s.veFree h p x 12 [srcReg a, srcReg k] [dst.val] →
        ∃ t, exec (.rowsumSeq h dst a (some k)) s = .next t
          ∧ TileWritten s t h.acc dst (rowResult (List.zipWith seqSum ((tileRows (v.src k)).map fun r => r.headD 0) rows)))
      ∧ (s.veFree h p x 13 [srcReg a] [dst.val] →
        ∃ t, exec (.rowsumTree h dst a) s = .next t ∧ TileWritten s t h.acc dst (rowResult (rows.map canonicalTree)))
      ∧ (s.veFree h p x 14 [srcReg a] [dst.val] →
        ∃ t, exec (.colsumSeq h dst a none) s = .next t
          ∧ TileWritten s t h.acc dst (colResult (List.zipWith seqSum (List.replicate 32 posZero) (columnsOf rows))))
      ∧ (s.veFree h p x 14 [srcReg a, srcReg k] [dst.val] →
        ∃ t, exec (.colsumSeq h dst a (some k)) s = .next t
          ∧ TileWritten s t h.acc dst (colResult (List.zipWith seqSum ((v.src k).take 32) (columnsOf rows))))
      ∧ (s.veFree h p x 15 [srcReg a] [dst.val] →
        (∃ t, exec (.rowmax h dst a) s = .next t ∧ TileWritten s t h.acc dst (rowResult (rows.map maxOf)))
        ∧ (∃ t, exec (.rowamax h dst a) s = .next t
          ∧ TileWritten s t h.acc dst (rowResult (rows.map fun r => maxOf (r.map abs32))))
        ∧ (∃ t, exec (.colmax h dst a) s = .next t ∧ TileWritten s t h.acc dst (colResult ((columnsOf rows).map maxOf)))
        ∧ ∃ t, exec (.colamax h dst a) s = .next t
          ∧ TileWritten s t h.acc dst (colResult ((columnsOf rows).map fun r => maxOf (r.map abs32)))))
  ∧ (∀ (s : State) (h : Issue) (p x : Nat) (dst : Fin 64) (k : Fin 8) (r : Fin 32) (cond : Cond) (ty : Option IntTy)
      (a b : VSrc), s.issuesFor h p x →
      let v := s.veAt h.acc
      (s.veFree h p x 4 [srcReg a, srcReg b] [maskReg k] →
        ∃ t, exec (.cmp h k cond ty a b) s = .next t
          ∧ MaskWritten s t h.acc k (List.zipWith (cmpLane cond ty) (v.src a) (v.src b)))
      ∧ (s.veFree h p x 4 [srcReg a, srcReg b, maskReg k] [dst.val] →
        ∃ t, exec (.sel h dst k a b) s = .next t
          ∧ TileWritten s t h.acc dst
            (List.zipWith (fun m q => if m then q.1 else q.2) (v.mask k) ((v.src a).zip (v.src b))))
      ∧ (s.veFree h p x 16 [srcReg a] [dst.val] →
        (∃ t, exec (.mov h (.tile dst) a) s = .next t ∧ TileWritten s t h.acc dst (v.src a))
        ∧ (∃ t, exec (.bcast h (.tile dst) a) s = .next t ∧ TileWritten s t h.acc dst (v.src a))
        ∧ ∃ t, exec (.transpose h dst a) s = .next t
          ∧ TileWritten s t h.acc dst (columnsOf (tileRows (v.src a))).flatten)
      ∧ (s.veFree h p x 16 [srcReg a] [64 + r.val] →
        (∃ t, exec (.mov h (.scalar r) a) s = .next t ∧ OnlyVe s t h.acc
          ∧ (t.veAt h.acc).scalar r = (v.src a).headD 0 ∧ (t.veAt h.acc).tiles = v.tiles ∧ (t.veAt h.acc).masks = v.masks
          ∧ ∀ q : Fin 32, q ≠ r → (t.veAt h.acc).scalar q = v.scalar q)
        ∧ ∃ t, exec (.bcast h (.scalar r) a) s = .next t ∧ OnlyVe s t h.acc
          ∧ (t.veAt h.acc).scalar r = (v.src a).headD 0 ∧ (t.veAt h.acc).tiles = v.tiles ∧ (t.veAt h.acc).masks = v.masks
          ∧ ∀ q : Fin 32, q ≠ r → (t.veAt h.acc).scalar q = v.scalar q))

/-- The random operations: RAND writes the tile's words, DROPOUT a mask of the words below the keep bound, CVT the converted
lanes and, for an MX target, the block scales; nothing else changes but that the writes due on the accord have landed first
(R44, R79, R81).
The class V operations: SCATTER_ADD adds every data lane to the word that its index lane names, in some order of the lanes, and
touches no other byte: the sums land at the operation's latency; ENTROPY fills its destination (R21, R77, R82). Order and words
are free (log entry 2): 1,024 free values are used each.
-/
def Obligations.VectorRandomAndUnordered : Prop :=
  (∀ (s : State) (h : Issue) (p x : Nat) (dst dst2 : Fin 64) (k : Fin 8) (g : Fin 32) (a : VSrc) (r : RandInfo) (cv : CvtParams),
      s.issuesClean h p x →
      let v := s.veAt h.acc
      let u := s.settle h.acc (s.schedAt p h.cyc)
      let vals := (v.src a).map (laneVal cv.src)
      let ws := u.cvtWords h.acc x cv
      (u.tagsRead h x r → s.veFree h p x 10 [] [dst.val] →
        ∃ t, exec (.rand h dst r) s = .next t
          ∧ TileWritten u t h.acc dst ((u.randTile h.acc x r r.domain).map (BitVec.ofNat 32)))
      ∧ (u.tagsRead h x r → s.veFree h p x 11 [64 + g.val] [maskReg k] →
        ∃ t, exec (.dropout h k g r) s = .next t
          ∧ MaskWritten u t h.acc k ((u.randTile h.acc x r r.domain).map fun w => decide (w < keepBound (v.scalar g))))
      ∧ (cvtIllegal cv = false → (cv.rnd = .sr → u.tagsRead h x cv.rand) → fmtMx cv.tgt = false →
        s.veFree h p x (cvtRow cv) [srcReg a] [dst.val] →
        ∃ t, exec (.cvt h dst dst2 a cv) s = .next t
          ∧ TileWritten u t h.acc dst ((convLanes cv vals ws).map (BitVec.ofNat 32)))
      ∧ (cvtIllegal cv = false → (cv.rnd = .sr → u.tagsRead h x cv.rand) → fmtMx cv.tgt = true → dst ≠ dst2 →
        s.veFree h p x (cvtRow cv) [srcReg a] [dst.val, dst2.val] →
        ∃ t, exec (.cvt h dst dst2 a cv) s = .next t ∧ OnlyVe u t h.acc
          ∧ (t.veAt h.acc).tile dst = ((mxRows cv vals ws).flatMap Prod.snd).map (BitVec.ofNat 32)
          ∧ (t.veAt h.acc).tile dst2 = ((mxRows cv vals ws).flatMap fun q => BitVec.ofNat 32 q.1 :: List.replicate 31 0)
          ∧ (∀ q : Fin 64, q ≠ dst → q ≠ dst2 → (t.veAt h.acc).tile q = v.tile q)
          ∧ (t.veAt h.acc).scalars = v.scalars ∧ (t.veAt h.acc).masks = v.masks))
  ∧ (∀ (s : State) (h : Issue) (p x addr tensor : Nat) (st : Byte) (dst : Fin 64) (idx data : VSrc), s.issuesFor h p x →
      let v := s.veAt h.acc
      (s.veFree h p x 17 [srcReg idx, srcReg data] [] → (∀ i ∈ v.src idx, inSp (addr + 4 * i.toNat) 4 = true) →
        ∃ t l, exec (.scatterAdd h addr idx data st tensor) s = .next t ∧ List.Perm l ((v.src idx).zip (v.src data))
          ∧ OnlyAccord s t h.acc ∧ t.free = s.free + 1024 ∧ (t.accAt h.acc).top = (s.accAt h.acc).top
          ∧ (t.veAt h.acc).tiles = v.tiles ∧ (t.veAt h.acc).scalars = v.scalars ∧ (t.veAt h.acc).masks = v.masks
          ∧ (s.topQuiet h.acc →
            let u := t.settle h.acc (s.schedAt p h.cyc + s.opLat x 17)
            (∀ q, outside ((v.src idx).map fun i => (addr + 4 * i.toNat, 4)) q →
                (s.ownTags x = true → q < spSize - 32768 ∨ spSize ≤ q) →
                (u.accAt h.acc).top.read q = (s.accAt h.acc).top.read q)
            ∧ (s.ownTags x = false →
              (u.accAt h.acc).top = l.foldl (fun m q => m.writeLE (addr + 4 * q.1.toNat) 4
                (add32 (BitVec.ofNat 32 (m.readLE (addr + 4 * q.1.toNat) 4)) q.2).toNat) (s.accAt h.acc).top)))
      ∧ (s.veFree h p x 18 [] [dst.val] →
        ∃ t, exec (.entropy h dst) s = .next t ∧ TileWritten s t h.acc dst (freeWords s.free 1024) ∧ t.free = s.free + 1024))

/-- A load widens or copies 32 rows of 32 elements into its register, as the top tier stands when the writes due on it have
landed. A store changes no byte when it issues; the lines of its 32 rows land one in each VE_PORT from then on, the block scales and
the status record with the last, and no other byte changes (R74 to R76, R103, R113, R118). -/
def Obligations.VectorLoadsAndStores : Prop :=
  ∀ (s : State) (h : Issue) (p x : Nat) (r : Fin 64) (addr stride : Nat), s.issuesClean h p x →
    let v := s.veAt h.acc
    let t0 := s.schedAt p h.cyc
    let u := s.settle h.acc t0
    (∀ (f : Fmt) (widen : Option Widen) (sc : VScale) (st : Byte) (tensor : Nat),
      let rs := loadRanges addr stride f widen sc
      let lands := t0 + s.portTime x (rowRanges addr stride f) + s.fixedLat x 0x0241 8
      (∀ q ∈ rs, inTop q.1 q.2 = true) → (∀ w, widen = some w → loadScaleOk f sc = true ∧ widenOk f w = true) →
      v.loadFree ≤ t0 → v.landed r < lands → u.marksMatch h x rs st tensor →
      ∃ t, exec (.veLoad h r addr stride f widen sc st tensor) s = .next t
        ∧ TileWritten u t h.acc r ((u.accAt h.acc).loadLanes addr stride f widen sc) ∧ (t.veAt h.acc).landed r = lands)
    ∧ ∀ (cv : CvtParams) (g : Fin 32) (plane : Nat × Nat) (status : Option Nat) (tile : Nat) (st : Byte),
      let rs := storeRanges addr stride cv plane status
      let sc := if narrows cv && cv.src == .fp32 then (v.scalar g).toNat % 256 else 0x7F
      let ws := if narrows cv then u.cvtWords h.acc x cv else []
      (∀ q ∈ rs, inTop q.1 q.2 = true) → cv.tgt ≠ .e8m0 → (narrows cv = true → cvtIllegal cv = false ∧
        (cv.rnd = .sr → u.tagsRead h x cv.rand)) → (∀ a, status = some a → a % 16 = 0) → v.storeFree ≤ t0 →
      v.landed r ≤ t0 → (narrows cv = true → cv.src = .fp32 → v.landed (64 + g.val) ≤ t0) →
      ∃ t, exec (.veStore h r addr stride cv g plane status tile st) s = .next t ∧ OnlyAccord s t h.acc
        ∧ (t.accAt h.acc).top = (u.accAt h.acc).top
        ∧ (t.veAt h.acc).tiles = v.tiles ∧ (t.veAt h.acc).scalars = v.scalars ∧ (t.veAt h.acc).masks = v.masks
        ∧ (u.topQuiet h.acc →
          let w := t.settle h.acc (t0 + lineCount (rowRanges addr stride cv.tgt) * s.fixedLat x 0x0240 1)
          w.topQuiet h.acc ∧ TopKept u w x h.acc rs
          ∧ (s.ownTags x = false → fmtMx cv.tgt = false → status = none → rowBytes cv.tgt 32 ≤ stride →
              ∀ q ∈ (storeRows v r cv sc ws).1.zip (List.range 32), q.1.length = rowBytes cv.tgt 32 →
                (w.accAt h.acc).top.readN (addr + q.2 * stride) (rowBytes cv.tgt 32) = q.1))

/-! ### Matrix engines -/

/-- A pass without a detection leaves in the accumulator store, for every row and column it covers, the sum of the products
of the active array rows in rising order, keeps every other element, every byte of the top tier and every other unit, and
carries the row tags of its rows (R26 to R28, R54 to R57, R64, R65).
A pass without a segment list covers rows 0 to M - 1 and columns 0 to NCOLS - 1, each element the sum of its products from
+0.0, or from the element it accumulates on (R26 to R28, R54).
An epilogue without a detection writes the fused values back into the accumulator store and leaves every other accumulator element
and unit as it was. Until it completes its rows, block scales and status records are open; when it completes its rows stand at
DST, the block scales of an MX format after them and one status record a scale tile, and no other byte has changed (R40 to R42,
R60 to R63, R66).
All of them read the top tier as it stands when the writes due on it have landed (log entry 172).
-/
def Obligations.MatrixPassesAndEpilogues : Prop :=
  (∀ (s : State) (h : Issue) (e : Fin 4) (p : PassParams) (q x : Nat), s.issuesClean h q x →
      let t0 := s.schedAt q h.cyc
      let u := s.settle h.acc t0
      let A := u.accAt h.acc
      let runs := passSegs A (s.meTiming x p) e p t0
      passDets h.acc e p u ⟨q, x, t0⟩ = [] →
      ∃ t, exec (.pass h e p) s = .next t ∧ OnlyAccord s t h.acc
        ∧ (∀ y ∈ passSums A e p runs, (t.accAt h.acc).accumAt e y.1 y.2.1 = y.2.2)
        ∧ (∀ (f : Fin 4) (row col : Nat), row < 2048 → col < 128 →
            (f ≠ e ∨ ∀ y ∈ passSums A e p runs, y.1 ≠ row ∨ y.2.1 ≠ col) →
            (t.accAt h.acc).accumAt f row col = A.accumAt f row col)
        ∧ (∀ i < p.m, SMap.get zeroNat (t.accAt h.acc).rowTags (tagKey e (p.accBase + i))
            = A.top.readLE (tileAddr e (p.tags + 16 * i)) 16)
        ∧ (t.accAt h.acc).top = A.top ∧ (t.accAt h.acc).ve = A.ve ∧ (t.accAt h.acc).tokq = A.tokq
        ∧ (t.accAt h.acc).stamps = A.stamps ∧ ∀ f : Fin 4, f ≠ e → (t.accAt h.acc).engAt f = A.engAt f)
  ∧ (∀ (s : State) (h : Issue) (e : Fin 4) (p : PassParams) (q x i j : Nat), s.issuesClean h q x →
      let t0 := s.schedAt q h.cyc
      let u := s.settle h.acc t0
      let A := u.accAt h.acc
      passDets h.acc e p u ⟨q, x, t0⟩ = [] → p.seglist = none → p.wtrans = false → i < p.m → j < p.ncols →
      ∃ t, exec (.pass h e p) s = .next t
        ∧ (t.accAt h.acc).accumAt e (p.accBase + i) j
          = (List.range p.kact).foldl (fun acc r => add32 acc (product
              p.fa ((A.tileRow e p.asrc p.fa i).getD r 0) (A.aScale e p.asmode p.ascale p.atileH i r)
              p.fw ((A.tileRow e p.waddr p.fw r).getD j 0) (A.wScale e p.wsmode p.wscale r j)))
            (if p.accumulate then A.accumAt e (p.accBase + i) j else posZero))
  ∧ (∀ (s : State) (h : Issue) (e : Fin 4) (p : EpiParams) (q x : Nat), s.issuesClean h q x →
      let t0 := s.schedAt q h.cyc
      let u := s.settle h.acc t0
      let A := u.accAt h.acc
      let tiles := u.epiTiles h.acc x e p
      let rows := tiles.flatMap TileOut.rows
      let n := rowBytes p.fout 128
      let out := [(p.dst, epiBytes p), (p.status, 16 * (p.m / p.tileH))]
      epiDets h.acc e h p u ⟨q, x, t0⟩ = [] →
      ∃ t, exec (.epilogue h e p) s = .next t ∧ OnlyAccord s t h.acc ∧ TopKept u t x h.acc out
        ∧ (u.topQuiet h.acc →
          let w := t.settle h.acc (t0 + 2 * p.m + s.epiOfs x 0x010B 26 2)
          w.topQuiet h.acc ∧ TopKept u w x h.acc out
          ∧ (s.ownTags x = false → apart p.dst (epiBytes p) p.status (16 * (p.m / p.tileH)) →
            (w.accAt h.acc).top.readN p.dst (p.m * n) = (rows.flatMap fun y => leBytes n (packNat (fmtWidth p.fout) y.1))
            ∧ ∀ k, k < p.m / p.tileH → ∃ y, tiles[k]? = some y
              ∧ (w.accAt h.acc).top.readN (p.status + 16 * k) 16 = leBytes 16 y.status.toNat))
        ∧ (p.op ≠ .none → ∀ i j, i < p.m → j < 128 →
            (t.accAt h.acc).accumAt e (p.srcBase + i) j = (A.epiRow e p i).getD j 0)
        ∧ (p.op = .none → (t.accAt h.acc).accum = A.accum)
        ∧ (∀ (f : Fin 4) (row col : Nat), row < 2048 → col < 128 → (f ≠ e ∨ row < p.srcBase ∨ p.srcBase + p.m ≤ row) →
            (t.accAt h.acc).accumAt f row col = A.accumAt f row col)
        ∧ (t.accAt h.acc).ve = A.ve ∧ (t.accAt h.acc).tokq = A.tokq ∧ (t.accAt h.acc).rowTags = A.rowTags
        ∧ ∀ f : Fin 4, f ≠ e → (t.accAt h.acc).engAt f = A.engAt f)

/-! ### Issue, upsets and detections, for every compute-stream instruction

Every compute-stream instruction is one call of `engineIssue` with its unit, its detections and its effect. -/

/-- Where an instruction does not execute: on an accord that the grade lacks, which is no unit of the device (R3), and on one that
no running step may use (phase, fence, freeze, drydown) it is not issued and changes nothing (R93, R110, R111, R303). -/
def Obligations.IssueGate : Prop :=
  ∀ (s : State) (h : Issue) (e unit : Nat) (dets : State → IssueCtx → List Det) (eff : State → IssueCtx → State),
    (s.issuer h.acc = none → engineIssue h e unit dets eff s = .next s)
    ∧ (s.hasAccord h.acc = false → s.issuer h.acc = none)
    ∧ (s.odGet kGrade = 1 → s.hasAccord h.acc = decide (h.acc.val < 12))
    ∧ (s.live = false ∨ s.accordFenced h.acc = true → s.issuer h.acc = none)
    ∧ ∀ p c, s.issuer h.acc = some (p, c) →
        s.formed p = true ∧ s.inPart p h.acc = true ∧ (s.ctxAt c).inStep = true ∧ s.frozen p = false
          ∧ ∃ q ∈ s.ctx, q.1 = c ∧ q.2.st = .running ∧ q.2.part = p

/-- The first detection of an instruction ends its context and the instruction has no effect on any data: the context is
STOPPED, a PROG record with the detection's code and value waits, and the teardown is queued (R108). -/
def Obligations.DetectionStopsContext : Prop :=
  ∀ (s : State) (h : Issue) (e unit p c : Nat) (dets : State → IssueCtx → List Det) (eff : State → IssueCtx → State)
    (d : Det) (r : List Det), s.issuesClean h p c → (s.ctxAt c).st ≠ .free →
    dets s ⟨p, c, s.schedAt p h.cyc⟩ = d :: r →
    ∃ t, engineIssue h e unit dets eff s = .next t ∧ t.acc = s.acc ∧ SameTiers s t ∧ (t.ctxAt c).st = .stopped
      ∧ (s.blot.staging.length < 64 → ∃ q, t.blot.staging = s.blot.staging ++ [q] ∧ q.seq = nextSeq s.blot.last
          ∧ q.cls = 3 ∧ q.action = 1 ∧ q.level = 1 ∧ q.ctx = c ∧ q.unit = unit ∧ q.instr = instrWord 1 h.idx
          ∧ q.syn.take 10 = progSyn d.code d.val ∧ (s.recQ = [] → t.recQ = [⟨q.seq, unit, .teardown c, s.g⟩]))

/-- Corrected errors do not stop an instruction: they are counted, and it runs as it would run without them (R69, R73, R121).
An uncorrectable read stops the context, no data changes, and a record of the class of the memory waits with the address
and the syndrome (R69, R73, R121, R158; Table 13-5).
-/
def Obligations.MemoryErrorsAtIssue : Prop :=
  (∀ (s : State) (h : Issue) (e : Fin 4) (unit n : Nat) (k : MemKind) (dets : State → IssueCtx → List Det)
      (eff : State → IssueCtx → State), h.upset = .corrected k n → s.issuer h.acc ≠ none →
      engineIssue h e unit dets eff s = engineIssue { h with upset := .none } e unit dets eff (s.corrected k h.acc e n)
        ∧ (s.odGet (ceEntries k h.acc e).1 ≤ counterMax (ceEntries k h.acc e).1 →
            (s.corrected k h.acc e n).odGet (ceEntries k h.acc e).1
              = min (s.odGet (ceEntries k h.acc e).1 + n) (counterMax (ceEntries k h.acc e).1))
        ∧ (s.corrected k h.acc e n).acc = s.acc ∧ SameTiers s (s.corrected k h.acc e n)
        ∧ (s.corrected k h.acc e n).ctx = s.ctx)
  ∧ (∀ (s : State) (h : Issue) (e unit p c addr : Nat) (syn : Byte) (k : MemKind) (dets : State → IssueCtx → List Det)
      (eff : State → IssueCtx → State), s.issuer h.acc = some (p, c) →
      h.upset = .uncorrectable k addr syn → (s.ctxAt c).st ≠ .free →
      ∃ t, engineIssue h e unit dets eff s = .next t ∧ t.acc = s.acc ∧ SameTiers s t ∧ (t.ctxAt c).st = .stopped
        ∧ (s.blot.staging.length < 64 → ∃ q l, t.blot.staging = s.blot.staging ++ q :: l ∧ q.seq = nextSeq s.blot.last
            ∧ q.cls = (uncorrectableLevel k).1 ∧ 2 ≤ q.level ∧ q.level ≤ 3
            ∧ q.syn.take 6 = leBytes 4 addr ++ [syn] ++ leBytes 1 (memCode k)))

/-! ### Preparer tasks, tokens, phase ends -/

/-- TASK_PUSH appends the task to a queue that holds fewer than 16; TASK_DISPATCH starts the oldest task on the lowest-numbered
free core, one in a cycle; TASK_END within the budget frees the core and pushes the completion token, and what the task stored
into the scratchpad, where the protection lets it, is there. Tasks are dispatched and run on between the steps of their context too
(R84 to R86, R88, R103).
A task that traps, or that has not ended BUDGET ec after its dispatch, leaves its core, and a program fault stops its
context: code 0xA with the trapping address, the out-of-bounds codes of an access fault, or 9 with the task's sequence
number (R84, R85, R89, Table 13-11).
-/
def Obligations.TasksOfTheCores : Prop :=
  (∀ (s : State) (h : Issue) (p c : Nat) (d : TaskDesc),
      (s.issuesClean h p c → s.taskOcc h.acc (s.schedAt p h.cyc) < 16 →
        ∃ t, exec (.taskPush h d) s = .next t ∧ OnlyAccord s t h.acc
          ∧ t.accAt h.acc = { s.accAt h.acc with tasks := (s.accAt h.acc).tasks ++ [(d, (s.schedAt p h.cyc : Int))] })
      ∧ (∀ (a : Fin 16) (cyc : Nat) (at_ : Int) (k : Fin 4) (l : List (TaskDesc × Int)),
          s.coreHost a d.tokq = some (p, c) → s.dispatchedAt a (s.schedAt p cyc) = false → (s.accAt a).tasks = (d, at_) :: l →
          s.taskOn a k = none → s.coreFenced a k = false →
          (∀ j : Fin 4, j < k → s.taskOn a j ≠ none ∨ s.coreFenced a j = true) →
          ∃ t, exec (.taskDispatch a cyc) s = .next t ∧ OnlyAccord s t a
            ∧ t.coreAt a k = Core.start d (s.schedAt p cyc) ((s.ctxAt d.ctx).heartSize, (s.ctxAt d.ctx).baseSize) ∧ (t.accAt a).tasks = l
            ∧ (∀ j : Fin 4, j ≠ k → t.coreAt a j = s.coreAt a j) ∧ (t.accAt a).top = (s.accAt a).top)
      ∧ ∀ (a : Fin 16) (k : Fin 4) (cyc : Nat) (r : Running),
          s.taskOn a k = some r → s.coreHost a r.task.tokq = some (p, c) → (s.schedAt p cyc : Int) ≤ r.at_ + r.task.budget →
          s.tokFull a r.task.tokq (s.schedAt p cyc) = false → r.task.out = none →
          let u := s.settle a (s.schedAt p cyc)
          (s.endsFrom a k (s.schedAt p cyc) r [] ≤ (s.schedAt p cyc : Int) → ∃ t, exec (.taskEnd a k cyc []) s = .next t ∧ t.taskOn a k = none
              ∧ Entered (s.tokq a r.task.tokq).items (t.tokq a r.task.tokq).items (BitVec.ofNat 32 r.task.taskSeq)
                  (s.schedAt p cyc) (11 + k)
              ∧ (∀ q : Fin 32, q ≠ r.task.tokq → t.tokq a q = s.tokq a q)
              ∧ (t.accAt a).top = (u.accAt a).top ∧ t.ctx = s.ctx ∧ SameTiers s t)
          ∧ ∀ (rs2 rs1 : Fin 32) (off : Int) (size : Fin 4) (short : Bool),
              let x := s.coreAt a k
              let act : CoreAct := ⟨.store rs2 rs1 off size, short, false, false, [], .none⟩
              let addr := wrapInt 64 ((x.getX rs1 : Int) + off)
              coreCode ≤ x.pc → x.pc < coreCode + 2 ^ 28 → coreSp ≤ addr → addr + accSize size ≤ coreSp + spSize →
              x.pmpOk false x.pc 2 2 = true → x.pmpOk x.dataMode addr (accSize size) 1 = true → s.ownTags r.task.ctx = false →
              s.endsFrom a k (s.schedAt p cyc) r [act] ≤ (s.schedAt p cyc : Int) →
              ∃ t, exec (.taskEnd a k cyc [act]) s = .next t
                ∧ t.taskOn a k = none ∧ t.ctx = s.ctx ∧ SameTiers s t
                ∧ (t.accAt a).top.readN (addr - coreSp) (accSize size) = leBytes (accSize size) (x.getX rs2)
                ∧ ∀ q, outside [(addr - coreSp, accSize size)] q → (t.accAt a).top.read q = (u.accAt a).top.read q)
  ∧ (∀ (s : State) (a : Fin 16) (k : Fin 4) (cyc p c : Nat) (r : Running), s.taskOn a k = some r →
      s.coreHost a r.task.tokq = some (p, c) → (s.ctxAt r.task.ctx).st ≠ .free →
      let u := s.settle a (s.schedAt p cyc)
      (∀ addr cause : Nat, ∃ t, exec (.taskTrap a k cyc [] addr cause) s = .next t ∧ t.taskOn a k = none
        ∧ (t.ctxAt r.task.ctx).st = .stopped ∧ SameTiers s t ∧ (t.accAt a).top = (u.accAt a).top
        ∧ (s.blot.staging.length < 64 → ∃ q, t.blot.staging = s.blot.staging ++ [q] ∧ q.cls = 3 ∧ q.ctx = r.task.ctx.val
            ∧ (cause ≠ 1 → cause ≠ 5 → cause ≠ 7 → q.syn.take 10 = progSyn 0xA addr)
            ∧ (cause = 1 ∨ cause = 5 ∨ cause = 7 → q.syn.take 10 = progSyn (coreOob addr).1 (coreOob addr).2)))
      ∧ (r.at_ + r.task.budget ≤ (s.schedAt p cyc : Int) → ∃ t, exec (.taskBudgetOverrun a k cyc []) s = .next t
        ∧ t.taskOn a k = none ∧ (t.ctxAt r.task.ctx).st = .stopped ∧ SameTiers s t ∧ (t.accAt a).top = (u.accAt a).top
        ∧ (s.blot.staging.length < 64 → ∃ q, t.blot.staging = s.blot.staging ++ [q] ∧ q.cls = 3 ∧ q.ctx = r.task.ctx.val
            ∧ q.syn.take 10 = progSyn 9 r.task.taskSeq)))

/-- Token queues keep their order: a push into a queue with room enters the token behind those of earlier cycles and of earlier
sources of its cycle, a pop of visible tokens removes the oldest, QRESET empties a queue of an idle accord; a pop of an absent
token freezes the partition, marks the step not time-exact, and the resume takes the tokens (R110, R111, R132). -/
def Obligations.TokensMoveInOrder : Prop :=
  ∀ (s : State) (h : Issue) (p c n : Nat) (q : Fin 32) (v : W32),
    let t0 := s.schedAt p h.cyc
    (s.issuesClean h p c → s.tokFull h.acc q t0 = false →
      ∃ t, exec (.tokenPush h q v) s = .next t ∧ OnlyAccord s t h.acc
        ∧ Entered (s.tokq h.acc q).items (t.tokq h.acc q).items v t0 0
        ∧ (∀ j : Fin 32, j ≠ q → t.tokq h.acc j = s.tokq h.acc j) ∧ (t.accAt h.acc).top = (s.accAt h.acc).top)
    ∧ (s.issuesClean h p c → s.tokReady c h.acc q t0 n = true →
      ∃ t, exec (.tokenPop h q n) s = .next t ∧ OnlyAccord s t h.acc
        ∧ (t.tokq h.acc q).items = (s.tokq h.acc q).items.drop n
        ∧ (∀ j : Fin 32, j ≠ q → t.tokq h.acc j = s.tokq h.acc j) ∧ (t.accAt h.acc).top = (s.accAt h.acc).top)
    ∧ (s.issuesClean h p c → s.tokReady c h.acc q t0 n = false →
      ∃ t, exec (.tokenPop h q n) s = .next t ∧ t.acc = s.acc ∧ (t.ctxAt c).notExact = true
        ∧ (t.guardAt p).lateFrozen = true ∧ t.issuer h.acc = none)
    ∧ (∀ a : Fin 16, s.hasAccord a = true → s.ctxOn a = none →
      ∃ t, exec (.qreset a q) s = .next t ∧ (t.tokq a q).items = [] ∧ OnlyAccord s t a
        ∧ ∀ j : Fin 32, j ≠ q → t.tokq a j = s.tokq a j)
    ∧ ∀ (g : Fin 16) (waited : Nat) (w : Nat × Nat × Nat), s.runningOn g = some c → (s.guardAt g).lateFrozen = true →
        (s.guardAt g).waiting = [w] → s.tokReady c w.1 w.2.1 ((s.guardAt g).now + waited) w.2.2 = true →
        ∃ t, exec (.lateOperandResume g waited .none) s = .next t ∧ (t.guardAt g).lateFrozen = false
          ∧ (t.guardAt g).waiting = [] ∧ t.ctx = s.ctx
          ∧ (t.tokq w.1 w.2.1).items.map Token.value = ((s.tokq w.1 w.2.1).items.drop w.2.2).map Token.value

/-- Freezes: TOLERANT_FREEZE freezes the partition for the largest summed excess of the completions that the schedule places there,
and writes one record a step, with the step's total; FREEZE_END ends it; a LATE_OPERAND freeze that has lasted LATE_LIMIT stops
the context, and one that has not goes on (R110, R112). -/
def Obligations.FreezesOfTheGuard : Prop :=
  ∀ (s : State) (p : Fin 16) (c cyc : Nat), s.runningOn p = some c →
    (s.live = true → (s.ctxAt c).inStep = true → s.tolerant c = true →
      s.lateExcess c (s.guardAt p).phase cyc ≠ 0 →
      ∃ t, exec (.tolerantFreeze p cyc) s = .next t ∧ (t.guardAt p).tolFrozen = true ∧ (t.guardAt p).tolWritten = true
        ∧ t.acc = s.acc ∧ SameTiers s t ∧ t.ctx = s.ctx
        ∧ ((s.guardAt p).lateFrozen = false → s.odGet (kCtxFreezeEc c) ≤ counterMax (kCtxFreezeEc c) →
            t.odGet (kCtxFreezeEc c)
              = min (s.odGet (kCtxFreezeEc c) + s.lateExcess c (s.guardAt p).phase cyc) (counterMax (kCtxFreezeEc c)))
        ∧ (s.blot.staging.length < 64 → (s.guardAt p).tolWritten = false → ∃ q, t.blot.staging = s.blot.staging ++ [q]
            ∧ q.cls = 3 ∧ q.action = 7 ∧ q.syn.take 10 = progSyn 0x13 (s.stepStretch c)))
    ∧ (∃ t, exec (.freezeEnd p) s = .next t ∧ t.guardAt p = { s.guardAt p with tolFrozen := false } ∧ t.acc = s.acc
        ∧ SameTiers s t ∧ t.ctx = s.ctx ∧ t.od = s.od)
    ∧ ((s.guardAt p).lateFrozen = true → (s.guardAt p).frozenAt + s.odGet kLateLimit ≤ s.g → (s.ctxAt c).st ≠ .free →
      ∃ t, exec (.lateLimit p) s = .next t ∧ (t.ctxAt c).st = .stopped ∧ t.acc = s.acc ∧ SameTiers s t
        ∧ (s.blot.staging.length < 64 → ∃ q, t.blot.staging = s.blot.staging ++ [q] ∧ q.cls = 2 ∧ q.ctx = c
            ∧ 1 ≤ q.level ∧ q.level ≤ 3))
    ∧ (s.g < (s.guardAt p).frozenAt + s.odGet kLateLimit → exec (.lateLimit p) s = .next s)

/-- The phase ends of compute and access streams (R93, R133, R224, R225). -/
def Obligations.PhaseEnds : Prop :=
  (∀ (s : State) (h : Issue) (p c vacc : Nat), s.issuesClean h p c → s.streamOpen p c h.acc vacc (computeCode vacc) →
    ∃ t, exec (.phaseEnd h vacc) s = .next t ∧ PhaseEndEffect s t p c (computeCode vacc) (s.schedAt p h.cyc))
  ∧ ∀ (s : State) (a : Fin 16) (e : Fin 2) (p c cyc idx vacc : Nat), s.accessIssues a p c →
      s.streamOpen p c a vacc (accessCode vacc e) → (s.accessAt a e).free ≤ s.schedAt p cyc →
      ∃ t, exec (.accessPhaseEnd a e cyc idx vacc) s = .next t
        ∧ PhaseEndEffect (s.settle a (s.schedAt p cyc)) t p c (accessCode vacc e) (s.schedAt p cyc)

/-! ### Access engines and DMA channels -/

/-- The issue of transfers: a READ captures its window bytes and is in flight for one request of 256 B a cycle; a WRITE stores
the top-tier bytes into its window at once and is in flight until visible (R133).
The ends of transfers and the tokens they release: the oldest READ in flight lands its bytes, the oldest WRITE leaves,
a SIGNAL pushes its token when nothing earlier is in flight, a WAIT pops N tokens (R133, Table 6-6). None of them ends before its
manifest lets it (R103).
All of them meet the top tier as it stands when the writes due on it have landed (log entry 172).
-/
def Obligations.AccessTransfers : Prop :=
  (∀ (s : State) (a : Fin 16) (e : Fin 2) (p c cyc idx pa : Nat) (i : AccessInstr), s.accessIssues a p c →
      let t0 := s.schedAt p cyc
      let u := s.settle a t0
      let n := accessLen i
      let base := i.tier == 1
      let E := s.accessAt a e
      (transferDets a e i false u ⟨p, c, t0⟩ = [] → s.window c base i.taddr n false = some pa → s.rangeFenced base pa n = false →
        ∃ t, exec (.accessRead a e cyc idx i []) s = .next t ∧ OnlyAccord s t a ∧ (t.accAt a).top = (u.accAt a).top
          ∧ t.accessAt a e = { free := t0 + (n + 255) / 256, flight := E.flight ++
              [.read idx i (s.tierBytes base pa n) (s.ownTags c) (s.landsFrom ⟨p, c, t0⟩ i)] })
      ∧ (transferDets a e i true u ⟨p, c, t0⟩ = [] → s.window c base i.taddr n true = some pa → s.unfenced base pa n →
          s.narrowHit c base pa ((u.accAt a).top.readN i.top n) = none →
        ∃ t, exec (.accessWrite a e cyc idx i .none) s = .next t
          ∧ TierHolds s t base pa ((u.accAt a).top.readN i.top n)
          ∧ (t.accAt a).top = (u.accAt a).top ∧ (∀ b, b % 16 ≠ a.val % 16 → t.accAt b = s.accAt b)
          ∧ t.accessAt a e = { free := t0 + (n + 255) / 256, flight := E.flight ++ [.write idx i (s.visibleFrom ⟨p, c, t0⟩ i)] }))
  ∧ (∀ (s : State) (a : Fin 16) (e : Fin 2) (p c cyc idx n w : Nat) (i j : AccessInstr) (data : List Byte),
      let t0 := s.schedAt p cyc
      let u := s.settle a t0
      let E := s.accessAt a e
      (s.accessIssues a p c → i.op = 3 → E.free ≤ t0 → E.flight = [] → s.tokFull a i.queue t0 = false →
        ∃ t, exec (.accessSignal a e cyc idx i) s = .next t ∧ OnlyAccord s t a ∧ (t.accessAt a e).flight = []
          ∧ (t.accAt a).top = (u.accAt a).top
          ∧ Entered (s.tokq a i.queue).items (t.tokq a i.queue).items i.value t0 (1 + e))
      ∧ (s.accessIssues a p c → i.op = 3 → E.free ≤ t0 → E.flight = [.write n j w] →
        ∃ t, exec (.accessSignal a e cyc idx i) s = .next t ∧ OnlyAccord s t a
          ∧ (t.accessAt a e).flight = [.write n j w, .signal idx i] ∧ (t.accAt a).tokq = (s.accAt a).tokq)
      ∧ (s.accessIssues a p c → i.op = 4 → E.free ≤ t0 → i.value.toNat % 64 ≠ 0 →
        s.tokReady c a i.queue t0 (i.value.toNat % 64) = true →
        ∃ t, exec (.accessWait a e cyc idx i .none) s = .next t ∧ OnlyAccord s t a ∧ (t.accAt a).top = (u.accAt a).top
          ∧ (t.tokq a i.queue).items = (s.tokq a i.queue).items.drop (i.value.toNat % 64))
      ∧ (s.live = true → s.partOf a = some p → s.ctxOn a = some c → w ≤ t0 →
        (∀ r, E.flight = .read n i data (s.ownTags c) w :: r → (∀ m k, r.head? ≠ some (.signal m k)) → i.tok = false →
          ∃ t, exec (.readLanded a e cyc) s = .next t ∧ OnlyAccord s t a ∧ (t.accessAt a e).flight = r
            ∧ TopKept u t c a [(i.top, data.length)]
            ∧ (s.ownTags c = false → (t.accAt a).top.readN i.top data.length = data))
        ∧ (E.flight = [.write n i w, .signal idx j] → i.tok = false → s.tokFull a j.queue t0 = false →
          ∃ t, exec (.writeVisible a e cyc) s = .next t ∧ OnlyAccord s t a ∧ (t.accessAt a e).flight = []
            ∧ (t.accAt a).top = (s.accAt a).top
            ∧ Entered (s.tokq a j.queue).items (t.tokq a j.queue).items j.value t0 (1 + e))
        ∧ (E.flight = [.write n i w] → i.tok = true → s.tokFull a i.queue t0 = false →
          ∃ t, exec (.writeVisible a e cyc) s = .next t ∧ OnlyAccord s t a ∧ (t.accessAt a e).flight = []
            ∧ (t.accAt a).top = (s.accAt a).top
            ∧ Entered (s.tokq a i.queue).items (t.tokq a i.queue).items i.value t0 (1 + e))))

/-- A MOVE that meets no detection copies its bytes between the top tier and the windows, and the channel goes on with the
next instruction; what it writes to the top tier has landed within the bound of R140; under its pause condition it is PACED
instead (R137, R139, Table 6-9). -/
def Obligations.DmaMoveCopies : Prop :=
  ∀ (s : State) (a : Fin 16) (k : Fin 8) (p c cyc src dst : Nat), s.chanAtOp a k p c 1 →
    let v := s.chanInstr a k
    let n := moveLen v
    let t0 := s.schedAt p cyc
    let u := s.settle a t0
    let bs := if moveSrcSpace v = 0 then (u.accAt a).top.readN src n else s.tierBytes (moveSrcSpace v == 2) src n
    (s.pauseCond a k t0 = true →
      ∃ t, exec (.move a k cyc .none []) s = .next t ∧ t.chanState a k = .paced ∧ t.chanPc a k = s.chanPc a k ∧ t.acc = u.acc
        ∧ SameTiers s t ∧ t.ctx = s.ctx)
    ∧ (s.pauseCond a k t0 = false → moveMalformed (s.chanAt a k) v = false →
      s.moveRange c (moveSrcSpace v) (moveSrc (s.chanAt a k) v) n false = .ok src →
      (moveSrcSpace v ≠ 0 → s.rangeFenced (moveSrcSpace v == 2) src n = false) →
      (moveSrcSpace v = 0 → u.marksMatch ⟨a, 0, 0, false, .none⟩ c [(src, n)] 0 (bits v 7 0)) → s.chanPc a k ≠ 255 →
      (moveDstSpace v = 0 → s.moveRange c 0 (moveDst (s.chanAt a k) v) n true = .ok dst →
        ∃ t, exec (.move a k cyc .none []) s = .next t ∧ t.chanState a k = .running ∧ t.chanPc a k = s.chanPc a k + 1
          ∧ OnlyAccord s t a ∧ (t.accAt a).top = (u.accAt a).top
          ∧ (u.topQuiet a →
            let w := t.settle a (max t0 (max (s.chanAt a k).moveFree (s.chanAt a k).firstAt) + (n + 255) / 256 + drainBound)
            w.topQuiet a ∧ TopKept u w c a [(dst, n)] ∧ (s.ownTags c = false → (w.accAt a).top.readN dst n = bs)))
      ∧ (moveDstSpace v = 1 ∨ moveDstSpace v = 2 → s.moveRange c (moveDstSpace v) (moveDst (s.chanAt a k) v) n true = .ok dst →
        s.unfenced (moveDstSpace v == 2) dst n → s.narrowHit c (moveDstSpace v == 2) dst bs = none →
        ∃ t, exec (.move a k cyc .none []) s = .next t ∧ t.chanState a k = .running ∧ t.chanPc a k = s.chanPc a k + 1
          ∧ TierHolds s t (moveDstSpace v == 2) dst bs ∧ (t.accAt a).top = (u.accAt a).top)
      ∧ (moveDstSpace v = 3 → s.fabMalformed c v = false → 0 < s.sendMax c (moveFlow v) →
        ∃ t l m, exec (.move a k cyc .none []) s = .next t ∧ t.chanState a k = .running ∧ t.chanPc a k = s.chanPc a k + 1
          ∧ SameTiers s t ∧ (t.accAt a).top = (u.accAt a).top ∧ t.outbox = s.outbox ++ l ++ m
          ∧ l.flatMap Packet.payload = bs
          ∧ ∀ q ∈ l, q.flow = moveFlow v ∧ (q.opcode = 1 ∨ q.opcode = 7) ∧ q.payload.length ≤ s.sendMax c (moveFlow v)
              ∧ q.cls = flowClass (s.flowEnt (moveFlow v)) ∧ q.dstChip = flowDst (s.flowEnt (moveFlow v))))

/-- The control instructions of a channel: LOOP jumps back while its index is below COUNT and else goes on with the index
zero; WAIT pops N tokens or waits; SIGNAL pushes a token and END ends the program, pushing a token where PUSH is set, each once
every write of the earlier MOVEs has landed, and waits until then (R138).
The states of a channel: a wait ends when its tokens can be popped or its writes have landed, an ARMED or PACED channel runs when
its run condition holds; DISABLE of an idle channel shows DISABLED, DISABLE of a channel whose context runs ends the context,
DRAINED follows, and clearing DISABLE shows IDLE (R138 to R142, Table 6-10).
-/
def Obligations.DmaControl : Prop :=
  (∀ (s : State) (a : Fin 16) (k : Fin 8) (p c cyc op : Nat), s.chanAtOp a k p c op →
      let v := s.chanInstr a k
      let t0 := s.schedAt p cyc
      let pc := s.chanPc a k
      let q := bits v 251 247
      let n := bits v 246 240
      let tokens := (s.tokq a q).items
      let sent := BitVec.ofNat 32 (bits v 239 208)
      (op = 2 → bits v 239 208 ≠ 0 → bits v 247 240 < pc →
        let i := (if bit v 251 then (s.chanAt a k).i1 else (s.chanAt a k).i0) + 1
        (i < bits v 239 208 → ∃ t, exec (.loop a k cyc .none) s = .next t ∧ t.chanPc a k = bits v 247 240
          ∧ (if bit v 251 then (t.chanAt a k).i1 else (t.chanAt a k).i0) = i ∧ t.chanState a k = .running ∧ OnlyAccord s t a)
        ∧ (bits v 239 208 ≤ i → pc ≠ 255 → ∃ t, exec (.loop a k cyc .none) s = .next t ∧ t.chanPc a k = pc + 1
          ∧ (if bit v 251 then (t.chanAt a k).i1 else (t.chanAt a k).i0) = 0 ∧ t.chanState a k = .running ∧ OnlyAccord s t a))
      ∧ (op = 3 → 1 ≤ n → n ≤ 64 →
        (s.tokReady c a q t0 n = true → pc ≠ 255 → ∃ t, exec (.dmaWait a k cyc .none) s = .next t ∧ t.chanPc a k = pc + 1
          ∧ (t.tokq a q).items = tokens.drop n ∧ t.chanState a k = .running ∧ OnlyAccord s t a)
        ∧ (s.tokReady c a q t0 n = false → ∃ t, exec (.dmaWait a k cyc .none) s = .next t ∧ t.chanPc a k = pc
          ∧ t.chanState a k = .waiting ∧ (t.tokq a q).items = tokens ∧ OnlyAccord s t a))
      ∧ (op = 4 → s.chanDrained a k t0 = true → s.tokFull a q t0 = false → pc ≠ 255 →
          ∃ t, exec (.dmaSignal a k cyc .none) s = .next t ∧ t.chanPc a k = pc + 1
          ∧ Entered tokens (t.tokq a q).items sent t0 (3 + k) ∧ t.chanState a k = .running
          ∧ (t.chanAt a k).sinceSignal = [] ∧ OnlyAccord s t a)
      ∧ (op = 4 → s.chanDrained a k t0 = false → ∃ t, exec (.dmaSignal a k cyc .none) s = .next t ∧ t.chanPc a k = pc
          ∧ t.chanState a k = .waiting ∧ (t.tokq a q).items = tokens ∧ OnlyAccord s t a)
      ∧ (op = 5 → s.chanDrained a k t0 = true → (bit v 246 = true → s.tokFull a q t0 = false) →
          ∃ t, exec (.dmaEnd a k cyc .none) s = .next t
          ∧ t.chanState a k = .done ∧ (t.chanAt a k).sinceSignal = [] ∧ OnlyAccord s t a
          ∧ (bit v 246 = true → Entered tokens (t.tokq a q).items sent t0 (3 + k))
          ∧ (bit v 246 = false → (t.tokq a q).items = tokens))
      ∧ (op = 5 → s.chanDrained a k t0 = false → ∃ t, exec (.dmaEnd a k cyc .none) s = .next t ∧ t.chanPc a k = pc
          ∧ t.chanState a k = .waiting ∧ (t.tokq a q).items = tokens ∧ OnlyAccord s t a))
  ∧ (∀ (s : State) (a : Fin 16) (k : Fin 8) (p c cyc : Nat) (cause : Option (Nat × Nat)),
      let v := s.chanInstr a k
      let t0 := s.schedAt p cyc
      let q := bits v 251 247
      let n := bits v 246 240
      (s.issuer a = some (p, c) → s.chanState a k = .waiting →
        (chanOp v = 3 → s.tokReady c a q t0 n = true → s.chanPc a k ≠ 255 →
          ∃ t, exec (.dmaWaitEnd a k cyc .none) s = .next t ∧ t.chanState a k = .running ∧ t.chanPc a k = s.chanPc a k + 1
            ∧ (t.tokq a q).items = (s.tokq a q).items.drop n ∧ OnlyAccord s t a)
        ∧ (chanOp v = 4 → s.chanDrained a k t0 = true → s.tokFull a q t0 = false → s.chanPc a k ≠ 255 →
          ∃ t, exec (.dmaWaitEnd a k cyc .none) s = .next t ∧ t.chanState a k = .running ∧ t.chanPc a k = s.chanPc a k + 1
            ∧ Entered (s.tokq a q).items (t.tokq a q).items (BitVec.ofNat 32 (bits v 239 208)) t0 (3 + k) ∧ OnlyAccord s t a)
        ∧ (chanOp v = 5 → s.chanDrained a k t0 = true → bit v 246 = false →
          ∃ t, exec (.dmaWaitEnd a k cyc .none) s = .next t ∧ t.chanState a k = .done ∧ (t.tokq a q).items = (s.tokq a q).items
            ∧ OnlyAccord s t a))
      ∧ (s.issuer a = some (p, c) → s.chanState a k = .armed ∨ s.chanState a k = .paced → s.runCond a k t0 = true →
        ∃ t, exec (.dmaResume a k cyc) s = .next t ∧ t.chanState a k = .running ∧ t.chanPc a k = s.chanPc a k
          ∧ (t.chanAt a k).firstAt = t0 + s.fixedLat c 0x0404 12 ∧ OnlyAccord s t a)
      ∧ (s.hasAccord a = true →
        (s.odBit (kDmaCtrl a k) 31 = false → s.chanState a k = .idle →
          (s.ctxOn a = none →
            ∃ t, exec (.dmaDisable a k cause) s = .next t ∧ t.chanState a k = .disabled ∧ t.odBit (kDmaCtrl a k) 31 = true
              ∧ t.odBit (kDmaCtrl a k) 30 = false ∧ OnlyAccord s t a ∧ (t.accAt a).top = (s.accAt a).top
              ∧ (t.accAt a).tokq = (s.accAt a).tokq)
          ∧ (s.ctxOn a = some c → (s.ctxAt c).st ≠ .free →
            ∃ t, exec (.dmaDisable a k cause) s = .next t ∧ t.chanState a k = .disabled ∧ (t.ctxAt c).st = .stopped
              ∧ (t.accAt a).top = (s.accAt a).top ∧ SameTiers s t
              ∧ (s.blot.staging.length < 64 → ∃ r, t.blot.staging = s.blot.staging ++ [r]
                  ∧ ((∀ w, cause = some w → w.1 ≠ 1 ∧ w.1 ≠ 2) ∨ s.openWindow (s.ctxAt c).part = none → r.action = 5)
                  ∧ r.syn.take 10 = progSyn 0x12 (8 * a.val + k.val))))
        ∧ (s.odBit (kDmaCtrl a k) 31 = true →
          (∃ t, exec (.dmaDrained a k) s = .next t ∧ t.odBit (kDmaCtrl a k) 30 = true ∧ t.chanState a k = s.chanState a k
            ∧ t.acc = s.acc ∧ SameTiers s t ∧ t.ctx = s.ctx)
          ∧ ∃ t, exec (.dmaEnable a k) s = .next t ∧ t.chanState a k = .idle ∧ t.odBit (kDmaCtrl a k) 31 = false
            ∧ t.odBit (kDmaCtrl a k) 30 = false ∧ t.chanAt a k = Channel.reset ∧ OnlyAccord s t a)))

/-! ### Activation codec -/

/-- What the codec writes for a tensor it reads back bit for bit, in each of the three formats (R177, Table 8-4).
CODE and CODE_MX8 read their tensor, append the coded blocks to the save pool, padded to 64 B, and write the handle; DECODE
reads the handle and its bytes and writes the tensor; the job's completion pushes its token (R177, R178). The padding bytes are
free (log entry 2).
-/
def Obligations.CodecRestoresAndJobs : Prop :=
  (∀ (f : Fmt) (n : Nat) (raw : List Byte), f = .bf16 ∨ f = .e4m3 ∨ f = .e5m2 → raw.length = n * rawBlock f →
      decodeTensor f n (codeTensor f false n raw).2 = some raw)
  ∧ (∀ (s : State) (a : Fin 16) (k : Fin 4) (j : CodecJob) (run : Running) (p c src dst ha : Nat),
      s.taskOn a k = some run → s.coreHost a run.task.tokq = some (p, c) →
      let n := jobBlocks j
      (∀ op, op = 1 ∨ op = 2 → jobOk op j = true → s.fillsOk →
        let raw := s.tierBytes (j.stier == 1) src (n * rawBlock (codecFmt j.fmt))
        let code := codeTensor (codecFmt j.fmt) (op == 2) n raw
        let head := (s.ctxAt c).poolHead
        let pad := (64 - code.2.length % 64) % 64
        let all := code.2 ++ freeBytes s.free pad
        let handle := leBytes 8 head ++ leBytes 4 code.2.length ++ leBytes 1 (if op = 2 then 1 else j.fmt) ++ leBytes 3 0
        s.mayRead c j.stier j.saddr (n * rawBlock (codecFmt j.fmt)) src → head + all.length ≤ (j.poolM1 + 1) * 65536 →
        s.mayWrite c j.dtier (j.daddr + head) all dst → s.mayWrite c 0 j.handle handle ha →
        s.offMap (j.dtier == 1) dst all.length → s.offMap false ha 16 →
        (j.dtier = 1 ∨ apart dst all.length ha 16) →
        ∃ t, exec (if op = 1 then .code a k j [] else .codeMx8 a k j []) s = .next t
          ∧ t.tierBytes (j.dtier == 1) dst code.2.length = code.2 ∧ t.tierBytes false ha 16 = handle
          ∧ (t.ctxAt c).poolHead = head + all.length ∧ t.codec = s.codec ++ [⟨a, op, j⟩] ∧ t.acc = s.acc)
      ∧ (jobOk 3 j = true →
        let h := s.tierBytes false ha 16
        let bs := s.tierBytes (j.stier == 1) src (field h 8 4)
        ∀ out, s.mayRead c 0 j.handle 16 ha → field h 12 1 < 3 → field h 13 3 = 0 →
        s.mayRead c j.stier (j.saddr + field h 0 8) (field h 8 4) src → decodeTensor (codecFmt (field h 12 1)) n bs = some out →
        s.mayWrite c j.dtier j.daddr out dst →
        ∃ t, exec (.decode a k j []) s = .next t ∧ TierHolds s t (j.dtier == 1) dst out ∧ t.codec = s.codec ++ [⟨a, 3, j⟩]
          ∧ t.acc = s.acc)
      ∧ ∀ (cyc : Nat) (r : CodecRun) (l : List CodecRun), s.codec = r :: l → r.acc = a.val →
          s.coreHost a r.job.tokq = some (p, c) → s.tokFull a r.job.tokq (s.schedAt p cyc) = false →
          ∃ t, exec (.codecJobDone a cyc) s = .next t ∧ t.codec = l ∧ OnlyAccord s t a
            ∧ Entered (s.tokq a r.job.tokq).items (t.tokq a r.job.tokq).items r.job.value (s.schedAt p cyc) 15)

/-! ### Memory tiers -/

/-- A write into a tier stores its bytes and no other, and makes every code word it covers read as written from then on (R150,
R155, R156).
A read of a code word changes no data. A clean one changes nothing; a corrected one is counted, its address kept and its
write-back queued; an uncorrectable one is counted and ends the context that reads (R150 to R153, R160, R164). A context that
names an address that does not exist ends as at an access outside its windows, and nobody else's access changes anything (R146,
R148; the model's choice, log entry 193).
-/
def Obligations.TierWritesAndReads : Prop :=
  (∀ (s : State) (t : Tier) (addr : Nat) (data : List Byte) (who : Requester),
      let b := tierBase t
      (s.rangeOk b addr data.length = true → s.live = true → s.writable b addr data who →
        ∃ u, exec (.tierWrite t addr data who []) s = .next u ∧ TierHolds s u b addr data
          ∧ (∀ w ∈ codeWords addr data.length, u.cwZero b (64 * w) = false) ∧ u.acc = s.acc)
      ∧ (data ≠ [] → s.rangeOk b addr data.length = false → s.live = true →
        ((∀ c i, who ≠ .context c i) → exec (.tierWrite t addr data who []) s = .next s)
        ∧ ∀ (c : Fin 256) (i : Nat), who = .context c i → (s.ctxAt c).st ≠ .free →
          ∃ u, exec (.tierWrite t addr data who []) s = .next u ∧ (u.ctxAt c).st = .stopped ∧ SameTiers s u
            ∧ (s.blot.staging.length < 64 → ∃ q, u.blot.staging = s.blot.staging ++ [q]
                ∧ q.syn.take 10 = progSyn 3 (windowVal b addr)))
      ∧ (s.memOk → ∀ u, exec (.tierWrite t addr data who []) s = .next u → u.memOk))
  ∧ (∀ (s : State) (t : Tier) (addr : Nat) (who : Requester) (obs : ReadObs), s.live = true →
      let b := tierBase t
      let ch := (s.place b addr).chan
      (s.addrOk b addr = false → (∀ c i, who ≠ .context c i) → exec (.tierRead t addr who obs) s = .next s)
      ∧ (∃ u, exec (.tierRead t addr who obs) s = .next u ∧ SameTiers s u ∧ u.acc = s.acc)
      ∧ (s.addrOk b addr = true → s.rangeFenced b addr 1 = false →
        ((∀ n, obs ≠ .mapCorrected n) → readKind b obs = .clean ∨ (readKind b obs ≠ .mapError ∧ s.cwZero b addr = true) →
          exec (.tierRead t addr who obs) s = .next s)
        ∧ (∀ n, obs = .mapCorrected n → ∃ u, exec (.tierRead t addr who obs) s = .next u ∧ u.od = s.od ∧ u.ctx = s.ctx
          ∧ SMap.get zeroNat u.ceWin mapCeKey = SMap.get zeroNat s.ceWin mapCeKey + n)
        ∧ (readKind b obs = .corrected → s.cwZero b addr = false → s.odGet (ceKey b ch) + 1 < counterMax (ceKey b ch) →
          ∃ u, exec (.tierRead t addr who obs) s = .next u ∧ u.odGet (ceKey b ch) = s.odGet (ceKey b ch) + 1
            ∧ u.odGet kLastCe = tierBit b + addr / 64 * 64 ∧ (b, addr / 64) ∈ u.wback ∧ u.ctx = s.ctx)
        ∧ (readKind b obs = .uncorrectable → s.cwZero b addr = false → s.odGet (uceKey b ch) + 1 < counterMax (uceKey b ch) →
          ∃ u, exec (.tierRead t addr who obs) s = .next u ∧ u.odGet (uceKey b ch) = s.odGet (uceKey b ch) + 1
            ∧ ∀ (c : Fin 256) (i : Nat), who = .context c i → (s.ctxAt c).st = .running → s.ctx.map Prod.fst = [c.val] →
                (u.ctxAt c).st = .stopped)))

/-- What happens in the tiers besides accesses: the end of a fill, a bucket's leak, a write-back, a scrubber visit, a granule
discard and a window's expiry (R121, R156, R157, R163 to R165).
The loop-backs of the memories and of the ports start busy where their conditions hold, are refused elsewhere,
and end with their error count (R166, R261).
-/
def Obligations.TierHousekeepingAndLoopBacks : Prop :=
  (∀ (s : State) (t : Tier) (g ch : Nat),
      let b := tierBase t
      (s.live = true →
        (∀ f, s.fillOf b g = some f → ∃ u, exec (.fillComplete t g) s = .next u ∧ u.validAt b g = true ∧ u.fills = s.fills.erase f
          ∧ SameTiers s u)
        ∧ (s.chanOk b ch = true →
          (∃ u, exec (.bucketLeak t ch none) s = .next u ∧ u.odGet (bucketKey b ch) = s.odGet (bucketKey b ch) - 1
            ∧ SameTiers s u ∧ u.wback = s.wback)
          ∧ (∀ obs, ∃ u, exec (.scrubVisit t ch true obs) s = .next u
            ∧ SMap.get zeroNat u.scrubL (scrubKey b ch)
              = (if SMap.get zeroNat s.scrubL (scrubKey b ch) + 1 < s.chanChunks b ch
                 then SMap.get zeroNat s.scrubL (scrubKey b ch) + 1 else 0)
            ∧ SameTiers s u))
        ∧ ∃ u, exec (.correctedWriteBack t g) s = .next u ∧ (b, g) ∉ u.wback ∧ (∀ e ∈ s.wback, e ≠ (b, g) → e ∈ u.wback)
          ∧ SameTiers s u)
      ∧ (∀ v : W64, s.jobs.discard = none → 1 ≤ bits v.toNat 26 0 → bits v.toNat 26 0 ≤ 2 ^ 26 → s.discardable (bit v.toNat 63) (bits v.toNat 57 32) (bits v.toNat 26 0) = true →
        s.meeting (bit v.toNat 63) (bits v.toNat 57 32 * 65536) (bits v.toNat 26 0 * 65536) = [] →
        ∃ u, exec (.vmapDiscard v) s = .next u ∧ u.jobs.discard = some v.toNat ∧ u.odGet kVmapDiscardStatus = 1
          ∧ SameTiers s u)
      ∧ (∀ v, s.jobs.discard = some v →
        ∃ u, exec .vmapDiscardDone s = .next u ∧ u.jobs.discard = none ∧ u.odGet kVmapDiscardStatus = 0
          ∧ ∀ q, (bits v 57 32 * 65536 ≤ q ∧ q < (bits v 57 32 + bits v 26 0) * 65536 →
                (if bit v 63 then u.base else u.heart).read q = 0)
              ∧ (q < bits v 57 32 * 65536 ∨ (bits v 57 32 + bits v 26 0) * 65536 ≤ q →
                (if bit v 63 then u.base else u.heart).read q = (if bit v 63 then s.base else s.heart).read q))
      ∧ (∀ hot : Bool, ch < 8 → s.odBit kHeartPositions ch = true →
        ∃ u, exec (.dramTemperatureReport .heart ch hot) s = .next u ∧ u.odBit kHeartHot ch = hot ∧ SameTiers s u)
      ∧ ∀ (k : MemKind) (i : Nat), ∃ u, exec (.ceWindowExpiry k i) s = .next u ∧ u.od = s.od ∧ u.acc = s.acc
        ∧ (k = .tileStore → SMap.get (fun _ => 0) u.ceWin (unitId 1 i) = 0)
        ∧ (k = .registers → SMap.get (fun _ => 0) u.ceWin (unitId 2 i) = 0)
        ∧ (k = .scratchpad → SMap.get (fun _ => 0) u.ceWin (unitId 6 i) = 0))
  ∧ (∀ (s : State) (v : W32) (p : Fin 16) (n : Nat), bit v.toNat 31 = true → n < 2 ^ 32 →
      (s.odBit kMemLoopbackCtrl 30 = false →
        (s.allFree = true → 1 ≤ v.toNat % 16 → v.toNat % 16 ≤ 4 →
          s.chanOk (decide (3 ≤ v.toNat % 16)) (bits v.toNat 23 16) = true →
          ∃ t, exec (.memoryLoopback v) s = .next t
            ∧ t.odGet kMemLoopbackCtrl = 2 ^ 30 + 2 ^ 16 * bits v.toNat 23 16 + v.toNat % 16)
        ∧ (s.allFree = false →
          ∃ t, exec (.memoryLoopback v) s = .next t
            ∧ t.odGet kMemLoopbackCtrl = 2 ^ 28 + 2 ^ 16 * bits v.toNat 23 16 + v.toNat % 16))
      ∧ (s.odBit kMemLoopbackCtrl 30 = true →
        ∃ t, exec (.memoryLoopbackDone n) s = .next t ∧ t.odBit kMemLoopbackCtrl 30 = false ∧ t.odGet kMemLoopbackErrors = min n 65536
          ∧ t.odBit kMemLoopbackCtrl 29 = decide (n = 0))
      ∧ (s.odBit (kFabricLoopbackCtrl p) 30 = false → s.odGet (kPortState p) ≤ 2 → s.portOwned p = false →
        1 ≤ v.toNat % 8 → v.toNat % 8 ≤ 4 →
        ∃ t, exec (.portLoopback p v) s = .next t ∧ t.odGet (kPortState p) = 3
          ∧ t.odGet (kFabricLoopbackCtrl p) = 2 ^ 30 + v.toNat % 8)
      ∧ (s.odBit (kFabricLoopbackCtrl p) 30 = true →
        ∃ t, exec (.portLoopbackDone p n) s = .next t ∧ t.odBit (kFabricLoopbackCtrl p) 30 = false
          ∧ t.odGet (kFabricLoopbackErrors p) = min n 1048576 ∧ t.odBit (kFabricLoopbackCtrl p) 29 = decide (n = 0)))

/-! ### Time base -/

/-- The synchronisation state: pulses within the bound lock an acquiring chip at the third, a pulse far from its count is only
counted while locked, a beacon is acquired on a chip without contexts and armed entries, missing pulses lead to HOLDOVER and then
to LOST with an ENV record, and a failover goes on from its own count (R215 to R219, R257).
A beacon is queued on virtual lane 7 of every enabled port that is up, at the counts that are multiples of 4,096, by a
chip that is no organ member (R257).
-/
def Obligations.SynchronisationAndBeacons : Prop :=
  (∀ s : State, s.live = true →
      (∀ est : Int, s.odGet kSyncRole = 0 → s.odGet kSyncState = 1 → est.natAbs ≤ 4 → s.odGet kSyncHops ≤ 6 →
        ∃ t, exec (.syncPulse est) s = .next t ∧ t.time.good = s.time.good + 1 ∧ t.g = s.g
          ∧ t.odGet kSyncState = if 3 ≤ s.time.good + 1 then 2 else 1)
      ∧ (∀ est : Int, s.odGet kSyncRole = 0 → s.odGet kSyncState = 2 → 64 < s.g % 2 ^ 20 → s.g % 2 ^ 20 < 2 ^ 20 - 64 →
        s.odGet kSyncSpurious + 1 < counterMax kSyncSpurious →
        ∃ t, exec (.syncPulse est) s = .next t ∧ t.odGet kSyncSpurious = s.odGet kSyncSpurious + 1
          ∧ t.odGet kSyncOffset = s.odGet kSyncOffset ∧ t.odGet kSyncState = 2 ∧ t.time = s.time)
      ∧ (∀ (p : Fin 16) (stamp master hops : Nat), s.odGet kSyncUpstream = p.val → s.odGet kSyncRole ≠ 2 →
        s.odGet kSyncState = 0 → s.mayAcquire = true →
        ∃ t, exec (.timeBeacon p stamp master hops) s = .next t ∧ t.g = (stamp + s.odGet (kLinkFlight p)) / 4 % 2 ^ 64
          ∧ t.odGet kSyncState = 1 ∧ t.odGet kSyncHops = min 255 (hops + 1) ∧ SameTiers s t)
      ∧ (s.odGet kSyncState = 2 → ∃ t, exec .syncHoldover s = .next t ∧ t.odGet kSyncState = 3 ∧ t.time = s.time ∧ t.ctx = s.ctx)
      ∧ (s.odGet kSyncState = 2 ∨ s.odGet kSyncState = 3 → s.loadedCtxs = [] →
        ∃ t, exec .syncLost s = .next t ∧ t.odGet kSyncState = 4 ∧ t.time = s.time
          ∧ (s.blot.staging.length < 64 → ∃ r, t.blot.staging = s.blot.staging ++ [r] ∧ r.cls = 5 ∧ r.seq = nextSeq s.blot.last))
      ∧ (s.odGet kSyncRole = 1 → s.odGet kMasterPriority ≠ 0 →
        ∃ t, exec .grandmasterFailover s = .next t ∧ t.odGet kSyncRole = 2 ∧ t.odGet kSyncState = 2 ∧ t.odGet kSyncHops = 0
          ∧ t.time = s.time))
  ∧ (∀ s : State, s.live = true → s.odGet kSyncRole ≠ 0 → s.g % 4096 = 0 →
      ∃ t, exec .beaconSend s = .next t ∧ t.time = s.time ∧ t.od = s.od ∧ SameTiers s t
        ∧ ∀ p : Fin 16,
            (bit (s.portAt p).cfg 8 = true → s.portUp p = true →
              ∃ q, (t.portAt p).waiting = (s.portAt p).waiting ++ [q] ∧ q.lane = 7 ∧ q.pkt.opcode = 9 ∧ q.pkt.len = 16
                ∧ q.pkt.payload = s.beaconPayload ∧ q.pkt.crc = BitVec.ofNat 32 (pktCrc q.pkt))
            ∧ (bit (s.portAt p).cfg 8 = false ∨ s.portUp p = false → t.portAt p = s.portAt p))

/-- Sensors and clocks: readings are shown; the critical temperature takes the device to DUMP with THERM_N asserted, the trip
temperature halves the clocks with THERM_N asserted, and the clocks return after 47,500,000 tk of cool readings; a report of a
position is kept by an organ master and forwarded by any other chip (R230, R231, R395, R396). -/
def Obligations.SensorsAndClocks : Prop :=
  ∀ s : State,
    (∀ l : List Int, l.length = 16 →
      ((∀ x ∈ l, x < 880) → (s.odBit kClockState 0 = true ∨ ∀ x ∈ l, x < (8 * s.odGet kTripTemp : Nat)) →
        ∃ t, exec (.sensorRead l) s = .next t
          ∧ (∀ i < 16, t.odGet (kSensorTemp i) = ((l.getD i 0) % (2 ^ 32 : Int)).toNat) ∧ t.pins = s.pins ∧ t.ctx = s.ctx)
      ∧ ((∃ x ∈ l, 880 ≤ x) → s.dumping = false →
        ∃ t, exec (.sensorRead l) s = .next t ∧ t.dumping = true ∧ t.pins.thermN = true ∧ t.live = false)
      ∧ ((∀ x ∈ l, x < 880) → s.odBit kClockState 0 = false → (∃ x ∈ l, (8 * s.odGet kTripTemp : Nat) ≤ x) → s.ctx = [] →
        ∃ t, exec (.sensorRead l) s = .next t ∧ t.odBit kClockState 0 = true ∧ t.pins.thermN = true
          ∧ (s.blot.staging.length < 64 → ∃ r, t.blot.staging = s.blot.staging ++ [r] ∧ r.cls = 5 ∧ r.action = 8)))
    ∧ (∀ k, s.time.coolSince = some k → s.odBit kClockState 0 = true → k + 47500000 ≤ s.g →
      ∃ t, exec .clockRestored s = .next t ∧ t.odBit kClockState 0 = false ∧ t.pins.thermN = false ∧ t.ctx = s.ctx)
    ∧ ∀ (pos : Fin 16) (v : W128),
        (s.odGet kSyncRole ≠ 0 → reportTemp v.toNat < (8 * s.odGet kHoldEnter : Nat) → pos.val ∉ s.time.hot →
          ∃ t, exec (.thermalReport pos v) s = .next t ∧ t.odGet (kThermReport pos) = 2 ^ 64 * bits v.toNat 127 64 + v.toNat % 2 ^ 12
            ∧ t.g = s.g)
        ∧ (s.odGet kSyncRole = 0 →
          ∃ t q, exec (.thermalReport pos v) s = .next t ∧ t.outbox = s.outbox ++ [q] ∧ q.opcode = 6 ∧ q.flow = 0
            ∧ q.addr = kThermReport pos ∧ q.payload = leBytes 16 v.toNat ∧ t.od = s.od)

/-! ### Fabric: ports, slots, links -/

/-- Training brings a port in fabric mode up with the configured credits, its flight, and SCHED_OK; a port that goes down
carries no scheduled traffic (R237, R238, R254).
Frames on the wire: a scheduled slot sends the oldest ready packet of its flow and else counts a miss; free wire time
sends what may start and else an idle frame; a frame that arrives in order is taken, acknowledged and its packet delivered or
switched; a negative acknowledgement resends from the named frame; the acknowledged frames leave the replay buffer (R239, R240,
R252, R253).
-/
def Obligations.LinksAndFrames : Prop :=
  (∀ (s : State) (p : Fin 16) (flight : Nat), flight < 65536 →
      (s.odBits (kPortCfg p) 31 30 = 1 → s.odGet (kPortState p) ≤ 2 → s.dumping = false →
        ∃ t, exec (.linkTraining p true flight) s = .next t ∧ t.odGet (kPortState p) = 2 ∧ t.odGet (kLinkFlight p) = flight
          ∧ (t.portAt p).cfg = s.odGet (kPortCfg p)
          ∧ (t.portAt p).txSeq = 0 ∧ (t.portAt p).rxSeq = 0 ∧ (t.portAt p).replay = []
          ∧ (∀ l < 8, (t.portAt p).credits.getD l 0 = bits (s.odGet (kVlCredits p)) (16 * l + 15) (16 * l))
          ∧ (t.odGet (kSchedOk p) = 1 ↔ s.laneRate p ≠ 25 ∧ flight + fecExcess (s.laneRate p) ≤ 40)
          ∧ ∀ q : Fin 16, q ≠ p → t.portAt q = s.portAt q)
      ∧ (s.odGet (kPortState p) = 1 ∨ s.odGet (kPortState p) = 2 ∨ s.odGet (kPortState p) = 3 →
        ∃ t, exec (.portDown p) s = .next t ∧ t.odGet (kPortState p) = 0 ∧ t.odGet (kSchedOk p) = 0 ∧ t.ports = s.ports))
  ∧ (∀ (s : State) (p : Fin 16), s.odGet (kPortState p) = 2 →
      (∀ q, s.outbox = [] → s.g % 16 = 0 → slotOwned (s.slotAt p (slotNo s.g)) = true →
        slotSrc (s.slotAt p (slotNo s.g)) = 16 →
        (s.portAt p).readySched (slotFlow (s.slotAt p (slotNo s.g))) = some q → q.pkt.opcode ≠ 9 →
        ∃ t f, exec (.scheduledSlot p) s = .next t ∧ (t.portAt p).wire = (s.portAt p).wire ++ [f] ∧ f.pkt = some q.pkt
          ∧ f.lseq = (s.portAt p).txSeq ∧ (t.portAt p).txSeq = ((s.portAt p).txSeq + 1) % 4096
          ∧ (t.portAt p).replay
            = (s.portAt p).replay ++ [⟨(s.portAt p).txSeq, q.pkt, (s.portAt p).owe, (s.portAt p).creditOut.head?⟩])
      ∧ (s.outbox = [] → s.g % 16 = 0 → slotOwned (s.slotAt p (slotNo s.g)) = true →
        slotSrc (s.slotAt p (slotNo s.g)) = 16 → (s.portAt p).readySched (slotFlow (s.slotAt p (slotNo s.g))) = none →
        s.odGet (kSchedMiss p) + 1 < counterMax (kSchedMiss p) →
        ∃ t, exec (.scheduledSlot p) s = .next t ∧ t.odGet (kSchedMiss p) = s.odGet (kSchedMiss p) + 1 ∧ t.ports = s.ports)
      ∧ (s.outbox = [] → (s.portAt p).busyUntil ≤ s.g → (s.portAt p).sched = [] →
        (∀ q, s.chooseOut p = some q → q.input = 16 → q.pkt.opcode ≠ 9 →
          ∃ t f, exec (.freeWireTime p) s = .next t ∧ (t.portAt p).wire = (s.portAt p).wire ++ [f] ∧ f.pkt = some q.pkt
            ∧ (t.portAt p).waiting = (s.portAt p).waiting.erase q
            ∧ (t.portAt p).credits
              = (s.portAt p).credits.set q.lane ((s.portAt p).credits.getD q.lane 0 - creditsOf q.pkt.payload.length))
        ∧ (s.chooseOut p = none →
          ∃ t f, exec (.freeWireTime p) s = .next t ∧ (t.portAt p).wire = (s.portAt p).wire ++ [f] ∧ f.pkt = none
            ∧ f.ack = (s.portAt p).owe ∧ (t.portAt p).txSeq = (s.portAt p).txSeq))
      ∧ (∀ (f : Frame) (k : Packet), f.bad = .none → f.ack = .none → f.credit = none → f.pkt = some k →
        f.lseq = (s.portAt p).rxSeq → k.crc = BitVec.ofNat 32 (pktCrc k) → k.mcast = false →
        k.dstChip = 0xFFFF ∨ k.dstChip = s.odGet kChipId → s.isBridge = false → k.cls ≠ 8 ∨ s.schedHeld p < 4 →
        ∃ t, exec (.frameReceive p f) s = .next t ∧ t.inbox = s.inbox ++ [takenPkt p f k]
          ∧ (t.portAt p).rxSeq = (f.lseq + 1) % 4096 ∧ (t.portAt p).owe = .ack f.lseq ∧ (t.portAt p).discarding = false)
      ∧ ∀ (n : Nat) (x : SentFrame), x ∈ (s.portAt p).replay → x.lseq = n → (s.portAt p).naks = 0 → 2 ≤ s.odGet (kReplayLimit p) →
          ∃ t, exec (.negativeAck p n) s = .next t
            ∧ (t.portAt p).wire = (s.portAt p).wire ++ (((s.portAt p).replay.dropWhile fun f => f.lseq != n).map fun f =>
                (⟨f.lseq, f.ack, f.credit, .none, 0, some f.pkt⟩ : Frame))
            ∧ (t.portAt p).replay = (s.portAt p).replay ∧ (t.portAt p).naks = 1 ∧ (t.portAt p).lastNak = n)

/-- Images in shadow and active: the last byte of a shadow image makes it ready and leaves the active one; at the swap count a
ready, well-formed image becomes active (a malformed one is dropped, log entry 180), and a swap without one is counted as missed
and changes nothing (R126, R127, R251, R363). Reserved bits of an image are not stored (R10).
One cycle of an arbiter without an active grant and not frozen: the slot's owner where it requests, else the highest
input that requests, else none, the slot being that of the schedule time or of the UCLK cycle count; FREEZE keeps new grants from
starting, and FROZEN follows once none is active (R122 to R125, R128, R231). Corrected errors of its slot-table memory are counted
and the cycle goes on (R121).
-/
def Obligations.ImagesAndArbiters : Prop :=
  (∀ (s : State),
      (∀ (path : Path) (old data : List Byte), data ≠ [] → data.length ≤ 256 → old ≠ [] →
        (∀ p : Fin 16, s.seqEnds (kSlotShadow p) path old → old.length + data.length = 16384 →
          ∃ t, exec (.slotShadow p ⟨path, old.length, data⟩) s = .next t ∧ t.odGet (kSlotShadow p) = cleanSlots (leNat (old ++ data))
            ∧ t.odBit (kSlotCtrl p) 29 = true ∧ t.odGet (kSlotActive p) = s.odGet (kSlotActive p) ∧ t.mgmt.answer.1 = 0)
        ∧ (∀ (a : Fin 16) (k : Fin 26), s.hasAccord a = true → s.seqEnds (kArbShadow a k) path old →
          old.length + data.length = imageBytes old →
          ∃ t, exec (.arbShadow a k ⟨path, old.length, data⟩) s = .next t ∧ t.odGet (kArbShadow a k) = cleanImage (leNat (old ++ data))
            ∧ t.odBit (kArbCtrl a k) 29 = true ∧ t.odGet (kArbActive a k) = s.odGet (kArbActive a k) ∧ t.mgmt.answer.1 = 0)
        ∧ ∀ k : Fin 82, s.hasChipArb k = true → s.seqEnds (kChipArbShadow k) path old →
          old.length + data.length = imageBytes old →
          ∃ t, exec (.chipArbShadow k ⟨path, old.length, data⟩) s = .next t ∧ t.odGet (kChipArbShadow k) = cleanImage (leNat (old ++ data))
            ∧ t.odBit (kChipArbCtrl k) 29 = true ∧ t.odGet (kChipArbActive k) = s.odGet (kChipArbActive k) ∧ t.mgmt.answer.1 = 0)
      ∧ (∀ p : Fin 16, s.odGet (kSlotSwapCount p) ≠ 0 → s.odGet (kSlotSwapCount p) ≤ s.g →
        (s.odBit (kSlotCtrl p) 29 = true →
          ∃ t, exec (.slotImageSwap p) s = .next t
            ∧ t.odGet (kSlotActive p)
              = (if slotsOk (s.odGet (kSlotShadow p)) = true then s.odGet (kSlotShadow p) else s.odGet (kSlotActive p))
            ∧ t.odBit (kSlotCtrl p) 29 = false ∧ t.odGet (kSlotSwapCount p) = 0)
        ∧ (s.odBit (kSlotCtrl p) 29 = false → s.odBits (kSlotCtrl p) 15 0 < 65535 →
          ∃ t, exec (.slotImageSwap p) s = .next t ∧ t.odGet (kSlotActive p) = s.odGet (kSlotActive p)
            ∧ t.odBits (kSlotCtrl p) 15 0 = s.odBits (kSlotCtrl p) 15 0 + 1 ∧ t.odGet (kSlotSwapCount p) = 0))
      ∧ (s.live = true → s.odGet kSwapCount ≠ 0 → s.odGet kSwapCount ≤ s.g →
        ∃ t, exec .chipImageSwap s = .next t ∧ t.odGet kSwapCount = 0
          ∧ ∀ k < 82, t.odGet (kChipArbActive k)
            = if s.hasChipArb k = true ∧ s.odBit (kChipArbCtrl k) 29 = true
                ∧ imageOk true (chipInput k) (s.odGet (kChipArbShadow k)) = true
              then s.odGet (kChipArbShadow k) else s.odGet (kChipArbActive k)))
  ∧ (∀ s : State,
      (∀ (k : Fin 82) (cyc : Nat) (reqs : List ArbReq), s.live = true → s.hasChipArb k = true →
        SMap.get grantDefault s.chipGrants k = none → s.odBit (kChipArbCtrl k) 31 = false →
        let own := slotOwner (s.odGet (kChipArbActive k)) (if s.halved = true then 2 * s.g else 2 * s.g + cyc % 2)
        let live := (reqs.map fun r => r.input.val).filter fun i => chipInput k i && !(decide (80 ≤ k.val) && i == 0)
        ∃ t, exec (.arbiterGrant (.chip k) cyc reqs .none) s = .next t ∧ t.acc = s.acc ∧ t.ctx = s.ctx ∧ SameTiers s t
          ∧ (∀ o, own = some o → o ∈ live → t.odBits (kChipArbCtrl k) 6 0 = 64 + o)
          ∧ ((∀ o, own = some o → o ∉ live) → ∀ i, live.max? = some i → t.odBits (kChipArbCtrl k) 6 0 = 64 + i)
          ∧ (live = [] → t.odBits (kChipArbCtrl k) 6 0 = 0))
      ∧ (∀ (a : Fin 16) (k : Fin 26) (p cyc : Nat) (reqs : List ArbReq), s.live = true → s.hasAccord a = true →
        s.partOf a = some p → (s.guardAt p).lateFrozen = false → (s.guardAt p).tolFrozen = false →
        SMap.get grantDefault (s.accAt a).grants k = none → s.odBit (kArbCtrl a k) 31 = false →
        let own := slotOwner (s.odGet (kArbActive a k)) (s.schedAt p cyc)
        let live := accReqs k reqs
        ∃ t, exec (.arbiterGrant (.accord a k) cyc reqs .none) s = .next t ∧ SameTiers s t
          ∧ (t.accAt a).top = (s.accAt a).top
          ∧ (∀ o, own = some o → o ∈ live → t.odBits (kArbCtrl a k) 6 0 = 64 + o)
          ∧ ((∀ o, own = some o → o ∉ live) → ∀ i, live.max? = some i → t.odBits (kArbCtrl a k) 6 0 = 64 + i)
          ∧ (live = [] → t.odBits (kArbCtrl a k) 6 0 = 0))
      ∧ (∀ (a : Fin 16) (k : Fin 26) (m : MemKind) (n cyc : Nat) (reqs : List ArbReq), s.live = true → s.hasAccord a = true →
        exec (.arbiterGrant (.accord a k) cyc reqs (.corrected m n)) s
          = exec (.arbiterGrant (.accord a k) cyc reqs .none) (s.corrected m a 0 n))
      ∧ ∀ (arb : ArbId) (key : Nat),
          (∃ a k, arb = .accord a k ∧ s.hasAccord a = true ∧ key = kArbCtrl a k)
            ∨ (∃ k, arb = .chip k ∧ s.hasChipArb k = true ∧ key = kChipArbCtrl k) →
          (∃ t, exec (.arbFreeze arb) s = .next t ∧ t.odBit key 31 = true ∧ t.odBit key 30 = !s.odBit key 6
            ∧ (∀ b, { t.accAt b with froze := [] } = { s.accAt b with froze := [] })
            ∧ t.ctx = s.ctx ∧ SameTiers s t)
          ∧ ∃ t, exec (.arbUnfreeze arb) s = .next t ∧ t.odBit key 31 = false ∧ t.odBit key 30 = false
            ∧ (∀ b, { t.accAt b with froze := [] } = { s.accAt b with froze := [] })
            ∧ t.ctx = s.ctx ∧ SameTiers s t)

/-! ### Packets -/

/-- Physical writes: on flow 0 a WRITE stores its payload where R324 and R340 allow it, is acknowledged when it asks for that,
and is turned away with status 2, changing no byte, in the reserved region outside the command rings and the staging area when
the host sent it (R245, R247, R324, R340). A packet with FENCE set is not executed while an earlier one of its flow from the same
source waits (R245). A WRITE or TREE_REDUCE on a flow stores its payload in the flow's receive region; one
whose step tag is not that of the step in progress is discarded without an answer; one beyond the region is discarded, and a
running context ends with a program fault (R244, R247, R248, R273). -/
def Obligations.PacketWrites : Prop :=
  (∀ (s : State) (k : Packet) (host : Bool), s.fencedBy k = true →
      ∃ t, exec (.write k host []) s = .next t ∧ SameTiers s t ∧ t.outbox = s.outbox ∧ t.ctx = s.ctx ∧ k ∈ t.inbox)
  ∧ (∀ (s : State) (k : Packet) (host : Bool), s.live = true → s.fencedBy k = false → s.pktMalformed k = false → k.opcode = 1 →
      k.len ≠ 0 → k.flow = 0 → k.suspect = false →
      (s.physOk k k.len = true → (host = true → s.hostMayWrite (pktBase k) k.addr k.len = true) →
        s.setWrite host (pktBase k) k.addr k.len = .outside → s.unfenced (pktBase k) k.addr k.len →
        ∃ t, exec (.write k host []) s = .next t ∧ TierHolds s t (pktBase k) k.addr k.payload
          ∧ (k.ackreq = true → ∃ q, t.outbox = s.outbox ++ [q] ∧ q.opcode = 3 ∧ q.aux = 0 ∧ q.dstChip = k.srcChip ∧ q.seq = k.seq)
          ∧ (k.ackreq = false → t.outbox = s.outbox))
      ∧ (s.physOk k k.len = true → host = true → s.hostMayWrite (pktBase k) k.addr k.len = false →
        ∃ t, exec (.write k host []) s = .next t ∧ SameTiers s t
          ∧ (k.ackreq = true → ∃ q, t.outbox = s.outbox ++ [q] ∧ q.opcode = 3 ∧ q.aux = 2 ∧ q.dstChip = k.srcChip)
          ∧ (k.ackreq = false → t.outbox = s.outbox))
      ∧ (s.physOk k k.len = true → (host = true → s.hostMayWrite (pktBase k) k.addr k.len = true) →
        s.setWrite host (pktBase k) k.addr k.len = .discard →
        ∃ t, exec (.write k host []) s = .next t ∧ SameTiers s t
          ∧ (k.ackreq = true → ∃ q, t.outbox = s.outbox ++ [q] ∧ q.opcode = 3 ∧ q.aux = 2)))
  ∧ (∀ (s : State) (k : Packet) (a : Nat), s.live = true → s.fencedBy k = false → s.pktMalformed k = false → k.len ≠ 0 →
      k.flow ≠ 0 → k.suspect = false →
      let e := s.flowEnt k.flow
      let c := flowRecv e
      let run := fun op => exec (if op = 1 then .write k false [] else .treeReduce k []) s
      flowRecvEn e = true → ∀ op, op = 1 ∨ op = 7 → k.opcode = op →
      (flowEpchk e = false → k.addr + k.len ≤ flowSize e →
        s.window c (flowBaseTier e) (flowBase e + k.addr) k.len true = some a → s.unfenced (flowBaseTier e) a k.len →
        s.narrowHit c (flowBaseTier e) a k.payload = none →
        ∃ t, run op = .next t ∧ TierHolds s t (flowBaseTier e) a k.payload ∧ t.acc = s.acc)
      ∧ (flowEpchk e = true → (s.ctxAt c).inStep = false ∨ s.stepTag c ≠ k.epoch →
        s.odGet kStaleDrop + 1 < counterMax kStaleDrop →
        ∃ t, run op = .next t ∧ SameTiers s t ∧ t.odGet kStaleDrop = s.odGet kStaleDrop + 1 ∧ t.outbox = s.outbox ∧ t.ctx = s.ctx)
      ∧ (flowEpchk e = false → flowSize e < k.addr + k.len → (s.ctxAt c).st = .running →
        ∃ t, run op = .next t ∧ SameTiers s t ∧ (t.ctxAt c).st = .stopped ∧ t.acc = s.acc))

/-- Reads and pushes: a READ_REQ is answered with the bytes asked for; an answer ends the repetition of its LAUNCH write; a
QUEUE_PUSH appends its entry at TAIL of a command queue with room and is refused on a full one (R196, R245, R255, R256). A
READ_REQ on a flow whose step tag is not that of the step in progress is discarded without an answer (R244).
The flow table and the repetition of LAUNCH writes (R243, R255).
-/
def Obligations.PacketReadsAndFlowTable : Prop :=
  (∀ (s : State) (k : Packet), s.live = true → s.fencedBy k = false → s.pktMalformed k = false → k.flow = 0 →
      (k.opcode = 2 → 1 ≤ reqBytes k → reqBytes k ≤ 4096 → s.physOk k (reqBytes k) = true →
        s.rangeFenced (pktBase k) k.addr (reqBytes k) = false →
        ∃ t q, exec (.readReq k []) s = .next t ∧ t.outbox = s.outbox ++ [q] ∧ q.opcode = 3 ∧ q.aux = 0
          ∧ q.payload = s.tierBytes (pktBase k) k.addr (reqBytes k) ∧ q.dstChip = k.srcChip ∧ SameTiers s t)
      ∧ (k.opcode = 3 → k.suspect = false →
        ∃ t, exec (.readRsp k) s = .next t ∧ SameTiers s t ∧ t.od = s.od
          ∧ ∀ e, e ∈ t.unacked ↔ e ∈ s.unacked ∧ ¬ (e.1.seq = k.seq ∧ e.1.dstChip = k.srcChip))
      ∧ (k.opcode = 4 → k.payload.length = 64 → k.ackreq = false → k.dstQueue < 16384 → s.qIsCompletion k.dstQueue = false →
        (dist32 (s.qTail k.dstQueue + 1) (s.qHead k.dstQueue) ≤ s.qDepth k.dstQueue →
          s.unfenced false (s.qAddr k.dstQueue (s.qTail k.dstQueue)) 64 →
          ∃ t, exec (.queuePush k) s = .next t ∧ t.qTail k.dstQueue = (s.qTail k.dstQueue + 1) % 2 ^ 32
            ∧ TierHolds s t false (s.qAddr k.dstQueue (s.qTail k.dstQueue)) k.payload
            ∧ t.qHead k.dstQueue = s.qHead k.dstQueue)
        ∧ (s.qDepth k.dstQueue < dist32 (s.qTail k.dstQueue + 1) (s.qHead k.dstQueue) →
          s.odGet kQueueOverflow + 1 < counterMax kQueueOverflow →
          ∃ t, exec (.queuePush k) s = .next t ∧ SameTiers s t ∧ t.qTail k.dstQueue = s.qTail k.dstQueue
            ∧ t.odGet kQueueOverflow = s.odGet kQueueOverflow + 1)))
  ∧ (∀ (s : State) (k : Packet), s.live = true → s.fencedBy k = false → s.pktMalformed k = false → k.opcode = 2 →
      1 ≤ reqBytes k → reqBytes k ≤ 4096 → k.flow ≠ 0 → flowRecvEn (s.flowEnt k.flow) = true → flowEpchk (s.flowEnt k.flow) = true →
      (s.ctxAt (flowRecv (s.flowEnt k.flow))).inStep = false ∨ s.stepTag (flowRecv (s.flowEnt k.flow)) ≠ k.epoch →
      s.odGet kStaleDrop + 1 < counterMax kStaleDrop →
      ∃ t, exec (.readReq k []) s = .next t ∧ SameTiers s t ∧ t.odGet kStaleDrop = s.odGet kStaleDrop + 1 ∧ t.outbox = s.outbox)
  ∧ (∀ (s : State) (v : W128),
      let f := s.odGet kFlowSelect
      (f = 0 ∨ 2 ^ 20 ≤ f → ∃ t, exec (.flowData v []) s = .next t ∧ t.odGet kFlowStatus = 2 ∧ SameTiers s t)
      ∧ (f ≠ 0 → f < 2 ^ 20 → flowPin (s.flowEnt f) = true →
        ∃ t, exec (.flowData v []) s = .next t ∧ t.odGet kFlowStatus = 1 ∧ SameTiers s t)
      ∧ (f ≠ 0 → f < 2 ^ 20 → flowPin (s.flowEnt f) = false → s.unfenced false (s.odGet kFlowBase + 16 * f) 16 →
        ∃ t, exec (.flowData v []) s = .next t ∧ t.odGet kFlowStatus = 0
          ∧ TierHolds s t false (s.odGet kFlowBase + 16 * f) (leBytes 16 (clearBit v.toNat 0)))
      ∧ (∀ n, n ≠ 0 → n < 2 ^ 20 → (∀ e ∈ s.flowCache, e.1 ≠ n) → s.odGet kFlowMisses + 1 < counterMax kFlowMisses →
        ∃ t, exec (.flowFetch n) s = .next t ∧ t.odGet kFlowMisses = s.odGet kFlowMisses + 1 ∧ SameTiers s t
          ∧ t.flows = s.flows)
      ∧ ∃ t, exec .launchRepeat s = .next t ∧ t.od = s.od ∧ SameTiers s t
          ∧ (∀ e ∈ s.unacked, s.g < e.2 + 2375 → s.g ≤ launchCount e.1 → e ∈ t.unacked)
          ∧ (∀ e ∈ s.unacked, e.2 + 2375 ≤ s.g → s.g ≤ launchCount e.1 → (e.1, s.g) ∈ t.unacked ∧ pktSeal e.1 ∈ t.outbox)
          ∧ ∀ e ∈ t.unacked, s.g ≤ launchCount e.1)

/-! ### Host bridge -/

/-- The transmit rings: the entry at HEAD of a ring in service is completed with its status and HEAD advances; an accepted
packet for this chip is delivered with the bridge's source, a packet of a scheduled class is not; a ring without an entry does
nothing, and neither does a ring of a function that is in D3hot, which takes no access of BAR0 (R258, R259, Table 11-11; log entry
12). The host's accesses to BAR0 precede it: a ring's BASE is written while ENABLE is clear and kept
while it is set, and a read gives the bytes of the map (R258, log entries 12 and 202). The receive rings: a held packet goes
into the next posted buffer and its entry is written; without a buffer it waits and the wait is counted; one of another step is
discarded and counted (R244); buffers are posted by TAIL (R259). -/
def Obligations.HostRings : Prop :=
  (∀ (s : State) (r : Fin 64) (k : Packet), s.isBridge = true → s.live = true → s.outbox = [] →
      ((s.txRing r).posted = false ∨ s.bridge.power ≠ 0 → exec (.hostTransmit r k []) s = .next s)
      ∧ (∀ host, exec (.hostTransmit r k host) s = exec (.hostTransmit r k []) (s.hostAccesses host))
      ∧ (∀ v : W64, s.bridge.power = 0 → let x := (s.hostAccesses [.barWrite (0x1000 + 64 * r) (leBytes 8 v.toNat)]).txRing r
          ((s.txRing r).on = false → x.base = v.toNat / 4096 * 4096) ∧ ((s.txRing r).on = true → x.base = (s.txRing r).base)
            ∧ x.head = (s.txRing r).head)
      ∧ (s.bridge.power = 0 → (s.hostAccesses [.barRead (0x1000 + 64 * r) 64]).bridge.readOut = (s.txRing r).bytes)
      ∧ (s.bridge.power ≠ 0 → ∀ off data, s.hostAccesses [.barWrite off data] = s)
      ∧ ((s.txRing r).posted = true → s.bridge.power = 0 →
      ∃ t, exec (.hostTransmit r k []) s = .next t ∧ (t.txRing r).head = ((s.txRing r).head + 1) % 2 ^ 32
        ∧ t.bridge.hostTx = ⟨r, (s.txRing r).head, (s.txRing r).entryAddr, s.txStatus r k, 32 + k.len⟩ :: s.bridge.hostTx
        ∧ (∀ q : Fin 64, q ≠ r → t.txRing q = s.txRing q) ∧ SameTiers s t ∧ t.ctx = s.ctx
        ∧ (k.cls = 8 → t.inbox = s.inbox)
        ∧ (s.txStatus r k = 0 → k.mcast = false → k.dstChip = s.odGet kChipId → s.hostRingOf (s.injected r k) = none →
            t.inbox = s.inbox ++ [s.injected r k] ∧ (s.injected r k).srcChip = s.odGet kChipId)))
  ∧ (∀ (s : State) (r : Fin 64), s.isBridge = true → s.live = true →
      (∀ h, s.bridge.held.find? (fun y => y.ring == r.val) = some h →
        (h.pkt.opcode = 3 ∨ (flowRecvEn (s.flowEnt h.pkt.flow) = true ∧ flowEpchk (s.flowEnt h.pkt.flow) = false)) →
        ((s.rxRing r).posted = true → s.bridge.power = 0 → h.pkt.suspect = false → h.pkt.ackreq = false →
          ∃ t, exec (.hostReceive r) s = .next t ∧ (t.rxRing r).head = ((s.rxRing r).head + 1) % 2 ^ 32
            ∧ t.bridge.hostRx = (⟨r, (s.rxRing r).head, (s.rxRing r).entryAddr, 0, 32 + h.pkt.len⟩, h.pkt) :: s.bridge.hostRx
            ∧ t.bridge.held = s.bridge.held.erase h ∧ SameTiers s t)
        ∧ ((s.rxRing r).posted = false ∨ s.bridge.power ≠ 0 → h.stalled = false → s.odGet kHostRxStalls + 1 < counterMax kHostRxStalls →
          ∃ t, exec (.hostReceive r) s = .next t ∧ t.odGet kHostRxStalls = s.odGet kHostRxStalls + 1
            ∧ t.bridge.hostRx = s.bridge.hostRx ∧ t.bridge.rx = s.bridge.rx ∧ { h with stalled := true } ∈ t.bridge.held))
      ∧ (∀ h, s.bridge.held.find? (fun y => y.ring == r.val) = some h → h.pkt.opcode ≠ 3 →
        let c := flowRecv (s.flowEnt h.pkt.flow)
        flowRecvEn (s.flowEnt h.pkt.flow) = true → flowEpchk (s.flowEnt h.pkt.flow) = true →
        (s.ctxAt c).inStep = false ∨ s.stepTag c ≠ h.pkt.epoch → s.odGet kStaleDrop + 1 < counterMax kStaleDrop →
        ∃ t, exec (.hostReceive r) s = .next t ∧ t.odGet kStaleDrop = s.odGet kStaleDrop + 1
          ∧ t.bridge.held = s.bridge.held.erase h ∧ t.bridge.hostRx = s.bridge.hostRx ∧ t.bridge.rx = s.bridge.rx ∧ t.outbox = s.outbox)
      ∧ (∀ v : W32, (∀ h ∈ s.bridge.held, h.ring = r.val → h.stalled = false) →
        ∃ t, exec (.rxRingTail r v []) s = .next t ∧ (t.rxRing r).tail = v.toNat ∧ (t.rxRing r).head = (s.rxRing r).head
          ∧ ((s.rxRing r).on = true → (t.rxRing r).base = (s.rxRing r).base)
          ∧ (∀ q : Fin 64, q ≠ r → t.rxRing q = s.rxRing q) ∧ t.bridge.tx = s.bridge.tx ∧ t.od = s.od))

/-- Vectors and resets of the endpoint: a vector that its table entry or the Function Mask masks, or that MSI-X Enable does not let
through, becomes pending, and another is signalled; a Function Level Reset
returns rings and counters to reset; a link that goes down shows in PCIE_LINK; PERST_N does both and resets the MSI-X table
(R258, R260, R262, R381; the layouts and their reset are the model's, log entries 9, 12 and 13). -/
def Obligations.BridgeVectorsAndResets : Prop :=
  ∀ s : State, s.isBridge = true →
    (∀ v : BitVec 16, v.toNat < 2048 →
      (s.bridge.msixOpen v.toNat = false →
        ∃ t, exec (.msixRaise v) s = .next t ∧ v.toNat ∈ t.bridge.msixPend ∧ t.bridge.signalled = s.bridge.signalled)
      ∧ (s.bridge.msixOpen v.toNat = true →
        ∃ t, exec (.msixRaise v) s = .next t ∧ t.bridge.signalled = v.toNat :: s.bridge.signalled
          ∧ t.bridge.msixPend = s.bridge.msixPend))
    ∧ (∃ t, exec .functionLevelReset s = .next t ∧ (∀ r, t.txRing r = ⟨0, 0, 0, 0, 0, 0⟩ ∧ t.rxRing r = ⟨0, 0, 0, 0, 0, 0⟩)
        ∧ t.odGet kHostTxPackets = 0 ∧ t.odGet kHostRxPackets = 0 ∧ t.bridge.msixTable = s.bridge.msixTable
        ∧ SameTiers s t ∧ t.ctx = s.ctx)
    ∧ (∃ t, exec .pcieLinkDown s = .next t ∧ t.odGet kPcieLink = 0 ∧ t.ctx = s.ctx ∧ SameTiers s t)
    ∧ ∃ t, exec .perstN s = .next t ∧ (∀ r, t.txRing r = ⟨0, 0, 0, 0, 0, 0⟩ ∧ t.rxRing r = ⟨0, 0, 0, 0, 0, 0⟩)
        ∧ t.odGet kPcieLink = 0 ∧ t.bridge.msixTable = [] ∧ t.bridge.power = 0 ∧ t.odGet kHostTxPackets = 0 ∧ t.ctx = s.ctx ∧ SameTiers s t

/-! ### Contexts, queues and the launch table -/

/-- Forming a partition: a mask of 1, 2, 4, 8 or 16 accords that exist, are not fenced and lie in no other formed partition
forms it; while a context holds the partition the write is refused (R192). CTX_CFG takes the fields that the host owns while the
context is FREE or LOADED and is refused otherwise; NMB, ROWS and SEGS stay (R363, R405). -/
def Obligations.PartitionsAndContextConfiguration : Prop :=
  ∀ s : State,
    (∀ (p : Fin 16) (m : BitVec 16),
      let l := (List.range 16).filter fun a => bit m.toNat a
      (l.length ∈ [1, 2, 4, 8, 16] →
        (∀ a ∈ l, s.hasAccord a = true ∧ s.accordFenced a = false
          ∧ ∀ q, q < 16 → q ≠ p.val → s.formed q = true → s.inPart q a = false) → s.holding p = [] →
        ∃ t, exec (.partMask p m) s = .next t ∧ t.odGet (kPartMask p) = m.toNat ∧ t.formed p = true ∧ t.accordsOf p = l
          ∧ t.acc = s.acc ∧ t.ctx = s.ctx ∧ SameTiers s t)
      ∧ (s.holding p ≠ [] → ∃ t, exec (.partMask p m) s = .next t ∧ t.od = s.od ∧ t.mgmt.answer = (7, [])))
    ∧ ∀ (c : Fin 256) (path : Path) (data : List Byte), data.length = 32 →
      s.seqOf (kCtxCfg c) (otherPath path) = none →
      let old := s.odGet (kCtxCfg c)
      let new := setBits (setBits (leNat data) 63 48 0) 39 0 old
      ((s.ctxAt c).st = .free ∨ (s.ctxAt c).st = .loaded →
        ∃ t, exec (.ctxCfg c ⟨path, 0, data⟩) s = .next t ∧ t.odGet (kCtxCfg c) = new ∧ t.mgmt.answer = (0, [])
          ∧ t.ctx = s.ctx ∧ t.acc = s.acc ∧ SameTiers s t)
      ∧ ((s.ctxAt c).st ≠ .free → (s.ctxAt c).st ≠ .loaded → new ≠ old →
        ∃ t, exec (.ctxCfg c ⟨path, 0, data⟩) s = .next t ∧ t.od = s.od ∧ t.mgmt.answer = (7, []))

/-- Pre-emption, save and restore (R206 to R209, Table 9-1): a request inside a step is held, and so is one to a context of
several chips; at a step boundary the context is SAVING and its partition's arbiters freeze; the save area then holds the header
and the live ranges, and the context is SAVED; RESUME waits for a free partition; the restored context runs on, at the saved
phase where it was saved inside a step; TEARDOWN stops the context and queues its recovery. A restore waits for a test in progress
on the partition (log entry 231), and a forced test that waits pre-empts the restored context (R308). -/
def Obligations.ContextsChangePlaces : Prop :=
  ∀ (s : State) (c : Fin 256), s.live = true →
    let x := s.ctxAt c
    let p := x.part
    (x.st = .running → (s.guardAt p).gateWait = false →
      (x.inStep = true → x.flag 0 = false → ∃ t, exec (.preempt c) s = .next t
        ∧ t.ctxAt c = { x with preempt := true, preemptFor := x.cmds.map fun m => (m.queue, m.seq) } ∧ t.acc = s.acc
        ∧ t.od = s.od ∧ SameTiers s t)
      ∧ (x.flag 0 = true → ∃ t, exec (.preempt c) s = .next t ∧ (t.ctxAt c).preempt = true ∧ (t.ctxAt c).st = .running
        ∧ (t.ctxAt c).inStep = x.inStep ∧ t.acc = s.acc ∧ t.base = s.base)
      ∧ (x.inStep = false → x.dry = .none → x.flag 0 = false → s.deadBetween c = false →
        ∃ t, exec (.preempt c) s = .next t ∧ (t.ctxAt c).st = .saving ∧ (t.ctxAt c).savePhase = 0xFFFFFFFF
          ∧ (∀ a ∈ s.accordsOf p, ∀ k, k < 26 → t.odBit (kArbCtrl a k) 31 = true)
          ∧ (∀ b : Fin 16, b.val ∉ s.accordsOf p → t.accAt b = s.accAt b) ∧ SameTiers s t))
    ∧ (x.st = .saving → s.readyOf p = [] → s.jobs.forced = [] →
      let area := 4096 + (s.accordsOf p).length * (accordImage + 32768)
      s.fillsOk → s.offMap false (s.saveBase c) area → s.unfenced false (s.saveBase c) area →
      ∃ t, exec (.saveComplete c []) s = .next t ∧ t.ctxAt c = { x with st := .saved } ∧ t.base = s.base
        ∧ (∀ b, { t.accAt b with froze := [] } = { s.accAt b with froze := [] })
        ∧ t.tierBytes false (s.saveBase c) 60 = s.saveHeader c
        ∧ ∀ a off n, s.accordsOf p = [a] → x.liveAt x.savePhase = [(off, n)] → x.savePtr = false → off + n ≤ accordImage →
            t.tierBytes false (s.saveBase c + 4096 + off) n = (s.accAt a).localBytes off n)
    ∧ (x.st = .saved → s.partFree p = true →
      ∃ t, exec (.resume c) s = .next t ∧ t.ctxAt c = { x with st := .restoring } ∧ t.od = s.od ∧ t.acc = s.acc
        ∧ SameTiers s t ∧ ∀ d, d ≠ c.val → t.ctxAt d = s.ctxAt d)
    ∧ (x.st = .restoring → s.testing p = true → exec (.restoreComplete c) s = .next s)
    ∧ (x.st = .restoring → s.testing p = false → s.forcing p = false →
      (x.inStep = false ∨ x.savePhase = 0xFFFFFFFF →
        ∃ t, exec (.restoreComplete c) s = .next t ∧ (t.ctxAt c).st = .running ∧ t.guardAt p = Guard.reset ∧ SameTiers s t
          ∧ (t.ctxAt c).poolHead = s.tierLE false (s.saveBase c + 24) 8 ∧ ∀ a ∈ s.accordsOf p, (t.accAt a).tokq = [])
      ∧ (x.inStep = true → x.savePhase ≠ 0xFFFFFFFF →
        ∃ t, exec (.restoreComplete c) s = .next t ∧ (t.guardAt p).phase = x.savePhase
          ∧ (t.guardAt p).phaseStart = x.saveTime + 1 ∧ (t.ctxAt c).inStep = true ∧ SameTiers s t))
    ∧ (x.st ≠ .free → x.st ≠ .stopped → s.recQ = [] →
      ∃ t, exec (.teardown c) s = .next t ∧ (t.ctxAt c).st = .stopped ∧ t.recQ = [⟨s.blot.last, unitId 12 0, .teardown c, s.g⟩]
        ∧ t.acc = s.acc ∧ SameTiers s t ∧ ∀ d, d ≠ c.val → t.ctxAt d = s.ctxAt d)
    ∧ (x.st = .free ∨ x.st = .stopped → exec (.teardown c) s = .next s)

/-- Queue indices and held completions: TAIL of a command queue advances unless the occupancy would exceed the depth, HEAD of a
completion queue advances, the wrong writer is refused; with space a held completion is written at TAIL (R196, R198).
The tenant context table and aborts: TCT_DATA writes the selected entry with its CHECK and is refused with status 1, the
entry unchanged, where it would change more than HELD of a bound tenant; a read returns the entry, with status 2 where CHECK does
not hold (R194). ABORT_REQ decides at once: ABORTED for an admitted or still waiting command, TOO_LATE after, BUSY when 64
requests are remembered (R212).
-/
def Obligations.QueuesAndTenantTable : Prop :=
  (∀ (s : State) (q : Fin 16384) (v : W32),
      (s.qIsCompletion q = false →
        (dist32 v.toNat (s.qHead q) ≤ s.qDepth q →
          ∃ t, exec (.queueTailWrite q v) s = .next t ∧ t.qTail q = v.toNat ∧ t.qHead q = s.qHead q ∧ SameTiers s t
            ∧ t.ctx = s.ctx ∧ ∀ r, r ≠ q.val → t.odGet (kQueueDesc r) = s.odGet (kQueueDesc r))
        ∧ (s.qDepth q < dist32 v.toNat (s.qHead q) → s.odGet kQueueOverflow + 1 < counterMax kQueueOverflow →
          ∃ t, exec (.queueTailWrite q v) s = .next t ∧ t.odGet (kQueueDesc q) = s.odGet (kQueueDesc q)
            ∧ t.odGet kQueueOverflow = s.odGet kQueueOverflow + 1 ∧ t.mgmt.answer = (7, []) ∧ SameTiers s t)
        ∧ ∃ t, exec (.queueHeadWrite q v) s = .next t ∧ t.od = s.od ∧ t.mgmt.answer = (7, []))
      ∧ (s.qIsCompletion q = true →
        (∃ t, exec (.queueHeadWrite q v) s = .next t ∧ t.qHead q = v.toNat ∧ t.qTail q = s.qTail q ∧ SameTiers s t ∧ t.ctx = s.ctx)
        ∧ ∃ t, exec (.queueTailWrite q v) s = .next t ∧ t.od = s.od ∧ t.mgmt.answer = (7, []))
      ∧ (s.live = true →
        (∀ bs, s.heldCompl = [(q.val, bs)] → s.cqRoom q = true → s.unfenced false (s.qAddr q (s.qTail q)) bs.length →
          ∃ t, exec (.completionRelease q) s = .next t ∧ t.heldCompl = [] ∧ t.qTail q = (s.qTail q + 1) % 2 ^ 32
            ∧ t.qHead q = s.qHead q ∧ TierHolds s t false (s.qAddr q (s.qTail q)) bs)
        ∧ (s.cqRoom q = false → exec (.completionRelease q) s = .next s)))
  ∧ (∀ s : State,
      (let e := s.odGet kTctSelect
      (∀ d : List Byte, d.length = 128 →
        (e < 2 ^ 20 → s.tctBound e = false ∨ changesMore (s.tctBytes e) (tctClean d) = false → s.unfenced true (s.tctAddr e) 128 →
          ∃ t, exec (.tctData d) s = .next t ∧ t.odGet kTctStatus = 0
            ∧ TierHolds s t true (s.tctAddr e) (tctClean d ++ leBytes 4 (crc32c (tctClean d)))
            ∧ (s.fillsOk → t.tctOk e = true) ∧ t.heart = s.heart ∧ t.ctx = s.ctx)
        ∧ (e < 2 ^ 20 → s.tctBound e = true → changesMore (s.tctBytes e) (tctClean d) = true →
          ∃ t, exec (.tctData d) s = .next t ∧ t.odGet kTctStatus = 1 ∧ SameTiers s t)
        ∧ (2 ^ 20 ≤ e → ∃ t, exec (.tctData d) s = .next t ∧ t.odGet kTctStatus = 3 ∧ SameTiers s t))
      ∧ (e < 2 ^ 20 → ∃ t, exec .tctDataRead s = .next t ∧ t.mgmt.answer = (0, s.tctBytes e) ∧ SameTiers s t
          ∧ t.odGet kTctStatus = if s.tctOk e then 0 else 2))
      ∧ (s.live = true → ∀ v : W64,
        let c := bits v.toNat 63 56
        let q := bits v.toNat 45 32
        let seq := bits v.toNat 31 0
        let mine := fun (m : OpenCmd) => m.queue == q && m.seq == seq
        let decided := fun (t : State) (st : Nat) => exec (.abortReq v) s = .next t
          ∧ t.odGet kAbortResult = seq * 2 ^ 32 + q * 2 ^ 16 + st ∧ t.odGet kAbortSeq = nextSeq (s.odGet kAbortSeq) ∧ SameTiers s t
        ((s.ctxAt c).cmds.any mine = true → ∃ t, decided t 2 ∧ t.marks = s.marks
          ∧ (t.ctxAt c).cmds = (s.ctxAt c).cmds.map fun m => if mine m then { m with aborted := true } else m)
        ∧ ((s.ctxAt c).cmds.any mine = false →
          (dist32 seq (s.qHead q) < 2 ^ 31 → s.marks.contains (c, q, seq) = true ∨ s.marks.length < 64 →
            ∃ t, decided t 2 ∧ (c, q, seq) ∈ t.marks ∧ t.ctx = s.ctx)
          ∧ (dist32 seq (s.qHead q) < 2 ^ 31 → s.marks.contains (c, q, seq) = false → 64 ≤ s.marks.length →
            ∃ t, decided t 3 ∧ t.marks = s.marks ∧ t.ctx = s.ctx)
          ∧ (2 ^ 31 ≤ dist32 seq (s.qHead q) → ∃ t, decided t 1 ∧ t.marks = s.marks ∧ t.ctx = s.ctx))))

/-- A START that can take effect begins the next step at phase 0 on the pointer it latches: directly, after waiting, or as the
context's own launch; one that cannot waits and is counted, and the step that it then begins is not time-exact; where an earlier one
still waits, that one takes effect and the new one waits (R223, R224, R225, R228).
The other launch actions: DRYDOWN ends a step whose last phase has ended and latches the TAILs of the command queues; STOP
discards the step in progress and sets the generation; SNAPSHOT asks for a checkpoint of the next commit; TEST_WINDOW opens from the
commit of a step in progress; SWITCH_WEIGHTS marks the pending pointer (R201, R223, R224, R226, R228, R307, R311).
-/
def Obligations.LaunchActions : Prop :=
  (∀ (s : State) (c : Fin 256), s.live = true →
      let x := s.ctxAt c
      let begun := fun (i : Instr) (left : List Nat) => ∃ t, exec i s = .next t ∧ t.stepOf c = s.stepOf c + 1
        ∧ (t.ctxAt c).inStep = true ∧ (t.ctxAt c).phasesDone = false ∧ (t.ctxAt c).latched = s.wouldLatch c
        ∧ (t.ctxAt c).launchWait = left
        ∧ (s.waits c 1 = true → (t.ctxAt c).notExact = true)
        ∧ ((t.ctxAt c).st = .running → (t.guardAt x.part).phase = 0 ∧ (t.guardAt x.part).phaseStart = 0)
      (s.canStart c = true → s.stepOf c + 1 < 2 ^ 48 → x.doRollback = [] →
        begun (.start c) (if s.waits c 1 = true then (x.launchWait ++ [1]).erase 1 else x.launchWait)
        ∧ (s.waits c 1 = true → begun (.launchLate c .start) (x.launchWait.erase 1))
        ∧ (s.launchesItself c = true → x.started = false ∨ x.dryAt + s.odGet kAdmitTime ≤ s.g →
            begun (.selfLaunch c) (x.launchWait.erase 1)))
      ∧ (s.canStart c = false → x.st ≠ .free → s.odGet kLaunchLate + 1 < counterMax kLaunchLate →
        (∃ t, exec (.start c) s = .next t ∧ t.stepOf c = s.stepOf c ∧ (t.ctxAt c).inStep = x.inStep ∧ 1 ∈ (t.ctxAt c).launchWait
          ∧ (t.ctxAt c).notExact = x.notExact ∧ t.odGet kLaunchLate = s.odGet kLaunchLate + 1 ∧ t.acc = s.acc ∧ SameTiers s t)
        ∧ exec (.selfLaunch c) s = .next s ∧ exec (.launchLate c .start) s = .next s))
  ∧ (∀ (s : State) (c : Fin 256), s.live = true → (s.ctxAt c).st ≠ .free →
      let x := s.ctxAt c
      let dried := fun (i : Instr) (left : List Nat) => ∃ t, exec i s = .next t ∧ (t.ctxAt c).dry = .flow ∧ (t.ctxAt c).dryAt = s.g
        ∧ (t.ctxAt c).tails = (s.cmdQueues c).map (fun q => (q, s.qTail q)) ∧ (t.ctxAt c).inStep = true
        ∧ (t.ctxAt c).launchWait = left ∧ (∀ k, k ≠ kLaunchLate → t.odGet k = s.odGet k) ∧ t.acc = s.acc ∧ SameTiers s t
      (x.st = .running → x.inStep = true → x.phasesDone = true → x.dry = .none →
        dried (.drydown c) (if s.waits c 4 = true then (x.launchWait ++ [4]).erase 4 else x.launchWait)
        ∧ (s.waits c 4 = true → dried (.launchLate c .drydown) (x.launchWait.erase 4)))
      ∧ (x.inStep = false ∨ x.phasesDone = false → ∃ t, exec (.drydown c) s = .next t ∧ 4 ∈ (t.ctxAt c).launchWait
          ∧ (t.ctxAt c).dry = x.dry ∧ t.acc = s.acc ∧ SameTiers s t)
      ∧ (x.st ≠ .stopped → x.revert = false → ∀ (setgen : Bool) (gen : Fin 16),
        ∃ t, exec (.stop c setgen gen) s = .next t ∧ (t.ctxAt c).inStep = false ∧ (t.ctxAt c).dry = .none
          ∧ (t.ctxAt c).gen = (if setgen then gen.val else (x.gen + 1) % 16) ∧ (t.ctxAt c).st = x.st
          ∧ t.stepOf c = (if x.inStep then s.stepOf c - 1 else s.stepOf c) ∧ SameTiers s t
          ∧ (x.st = .running → (t.guardAt x.part) = Guard.reset ∧ ∀ a ∈ s.accordsOf x.part, (t.accAt a).tokq = []))
      ∧ (s.odGet (kCkptState c) = 0 → ∃ t, exec (.snapshot c) s = .next t ∧ t.ctxAt c = { x with snapReq := true } ∧ t.od = s.od
          ∧ t.acc = s.acc ∧ SameTiers s t)
      ∧ (s.odGet (kCkptState c) ≠ 0 → s.ckptState c ≤ 1 → ∃ t, exec (.snapshot c) s = .next t ∧ t.ctx = s.ctx ∧ t.acc = s.acc)
      ∧ (x.inStep = true → ∃ t, exec (.testWindow c) s = .next t ∧ t.ctxAt c = { x with testReq := true } ∧ t.jobs = s.jobs
          ∧ t.od = s.od)
      ∧ (∀ n l, x.inStep = false → l = (s.jobs.due.map Prod.fst).filter (fun a => s.inPart x.part a) → s.nextStart c = some n →
          s.g + (s.odGet kTestTime + s.odGet kTestMargin + if x.liveAt 0xFFFFFFFF = [] then 0 else 2 * s.saveTk x.part) ≤ n →
          ∃ t, exec (.testWindow c) s = .next t ∧ t.jobs.tests = s.jobs.tests ++ l.map (fun a => (a, TestKind.scheduled, s.g))
            ∧ t.acc = s.acc ∧ (t.ctxAt c).inStep = false
            ∧ (x.liveAt 0xFFFFFFFF = [] → t.ctx = s.ctx ∧ SameTiers s t ∧ t.jobs.winSaved = s.jobs.winSaved)
            ∧ (x.liveAt 0xFFFFFFFF ≠ [] → l ≠ [] → c.val ∈ t.jobs.winSaved))
      ∧ ∃ t, exec (.switchWeights c) s = .next t ∧ t.odBit (kEpochStatus c) 31 = true
          ∧ t.odGet (kEpochActive c) = s.odGet (kEpochActive c) ∧ t.ctx = s.ctx ∧ t.acc = s.acc ∧ SameTiers s t)

/-- Writes of the launch table: an entry is written whole or not at all, and a write on its way by packet is acknowledged; a hold
write moves the armed entries of its group that fire after D by N times the period, and is refused without a DRYDOWN or too
late; COUNTER_CLEAR clears an event counter and nothing else (R222, R227, R234, R255). -/
def Obligations.LaunchTableWrites : Prop :=
  ∀ s : State,
    (∀ (e : Fin 64) (v : W128),
      let ok := 1 ≤ lAction v.toNat ∧ lAction v.toNat ≤ 6
        ∧ (armed (s.launch e) = true → s.g + s.odGet kLaunchGuard ≤ lCount (s.launch e))
        ∧ (armed v.toNat = true → s.g + s.odGet kLaunchGuard ≤ lCount v.toNat)
      let kept := fun t : State => (∀ j : Fin 64, j ≠ e → t.launch j = s.launch j) ∧ SameTiers s t ∧ t.ctx = s.ctx ∧ t.acc = s.acc
      (ok → ∃ t, exec (.launchEntry e v none) s = .next t ∧ t.launch e = v.toNat ∧ kept t)
      ∧ (¬ ok → s.odGet kLaunchRefused + 1 < counterMax kLaunchRefused →
        ∃ t, exec (.launchEntry e v none) s = .next t ∧ t.launch e = s.launch e
          ∧ t.odGet kLaunchRefused = s.odGet kLaunchRefused + 1 ∧ kept t)
      ∧ ∀ k : Packet, s.pktMalformed k = false → k.opcode = 10 → k.ackreq = true → k.aux.toNat % 16 = 1 →
        bits k.aux.toNat 13 8 = e.val → leNat (k.payload.take 16) = v.toNat →
        (ok → ∃ t q, exec (.launchEntry e v (some k)) s = .next t ∧ t.launch e = v.toNat ∧ kept t ∧ t.outbox = s.outbox ++ [q]
          ∧ q.opcode = 3 ∧ q.aux = 0 ∧ q.dstChip = k.srcChip)
        ∧ (¬ ok → ∃ t l q, exec (.launchEntry e v (some k)) s = .next t ∧ t.launch e = s.launch e ∧ kept t
          ∧ t.outbox = s.outbox ++ l ++ [q] ∧ q.opcode = 3 ∧ q.aux = 6 + 256 * 0x10 ∧ q.dstChip = k.srcChip))
    ∧ (∀ (v : W128) (e0 d : Nat),
      let at_ := bits v.toNat 127 64
      let g := bits v.toNat 5 0
      let n := bits v.toNat 15 8 * lPeriod (s.launch e0)
      let L := s.holdDrydowns g
      (s.g + s.odGet kLaunchGuard ≤ at_ → L.find? (fun e => s.firing_ at_ e == d) = some e0 →
        (∀ e ∈ L, d ≤ s.firing_ at_ e) →
        (∀ e ∈ s.groupEntries g, d ≤ lCount (s.launch e) → lCount (s.launch e) + lPeriod (s.launch e) + s.holdExtra e + n < 2 ^ 64) →
        s.odGet kHolds + 1 < counterMax kHolds →
        ∃ t, exec (.holdWrite v none) s = .next t ∧ t.odGet kHoldStatus = 0 ∧ t.odGet kHolds = s.odGet kHolds + 1
          ∧ (∀ e ∈ s.groupEntries g, d < lCount (s.launch e) →
              lCount (t.launch e) = lCount (s.launch e) + n ∧ t.launch e % 2 ^ 64 = s.launch e % 2 ^ 64)
          ∧ (∀ e ∈ s.groupEntries g, lCount (s.launch e) = d → lPeriod (s.launch e) ≠ 0 →
              t.holdExtra e = s.holdExtra e + n ∧ t.launch e = s.launch e)
          ∧ (∀ e, e < 64 → e ∉ s.groupEntries g → t.launch e = s.launch e) ∧ SameTiers s t ∧ t.ctx = s.ctx)
      ∧ (at_ < s.g + s.odGet kLaunchGuard ∨ L = [] →
        ∃ t, exec (.holdWrite v none) s = .next t ∧ t.odGet kHoldStatus = (if at_ < s.g + s.odGet kLaunchGuard then 1 else 2)
          ∧ ∀ e, e < 64 → t.launch e = s.launch e))
    ∧ ∀ v : W32,
      let k := bits v.toNat 31 16 * 256 + bits v.toNat 15 8
      (s.isCounter (bits v.toNat 31 16) (bits v.toNat 15 8) = true →
        ∃ t, exec (.counterClear v) s = .next t ∧ t.odGet k = 0 ∧ (∀ j, j ≠ k → t.odGet j = s.odGet j) ∧ t.ctx = s.ctx)
      ∧ (s.isCounter (bits v.toNat 31 16) (bits v.toNat 15 8) = false →
        s.odGet kLaunchRefused + 1 < counterMax kLaunchRefused →
        ∃ t, exec (.counterClear v) s = .next t ∧ t.odGet kLaunchRefused = s.odGet kLaunchRefused + 1 ∧ t.ctx = s.ctx)

/-! ### Sillage, checkpoints and audits -/

/-- The drydown of a single-chip step: DIGEST_SEAL, 24 tk after DRYDOWN took effect, of covered regions passes the step, a
region that its writes did not cover ends the context with detection 0xF; COMMIT ends a passed step, records it and confirms it;
a missing or different digest discards it once the latest count of its row has passed, and the next START takes its number again
(R268, R270, R276 to R279; Table 12-5). -/
def Obligations.DrydownsSealAndCommit : Prop :=
  ∀ (s : State) (c : Fin 256), s.live = true →
    let x := s.ctxAt c
    let n := s.stepOf c
    let discarded := fun t : State => (t.ctxAt c).inStep = false ∧ (t.ctxAt c).dry = .none ∧ (t.ctxAt c).gen = (x.gen + 1) % 16
      ∧ (t.ctxAt c).regions = [] ∧ (x.inStep = true → t.stepOf c = n - 1)
    (x.dry = .flow → x.sealed_ = false → x.flag 0 = false → x.dryAt + 24 ≤ s.g →
      ((∀ r ∈ s.closing c, r.blocks = r.size / 16) → s.recvFlows c = [] →
        ∃ t, exec (.digestSeal c) s = .next t ∧ (t.ctxAt c).sealed_ = true ∧ (t.ctxAt c).dry = .commit ∧ t.acc = s.acc
          ∧ SameTiers s t ∧ t.stepOf c = n)
      ∧ ∀ r, (s.closing c).find? (fun q => q.blocks != q.size / 16) = some r → x.st ≠ .free →
        ∃ t, exec (.digestSeal c) s = .next t ∧ (t.ctxAt c).st = .stopped
          ∧ (s.blot.staging.length < 64 → ∃ q, t.blot.staging = s.blot.staging ++ [q] ∧ q.cls = 3 ∧ q.ctx = c.val
              ∧ q.syn.take 10 = progSyn 0xF r.entry))
    ∧ (x.st = .running → x.dry = .commit → n < 2 ^ 48 →
      ∃ t, exec (.commit c) s = .next t ∧ (t.ctxAt c).inStep = false ∧ (t.ctxAt c).dry = .none ∧ t.stepOf c = n
        ∧ t.odBits (kDryState c) 63 0 = n ∧ (t.ctxAt c).regions = []
        ∧ (x.flag 0 = false → (t.ctxAt c).runConfirmed = max x.runConfirmed n))
    ∧ (x.dry = .flow → x.sealed_ = true → x.flag 0 = false → s.xchLatest c .flow ≤ s.g → (∃ f ∈ s.recvFlows c, s.flowMatches c f = false) →
      ∃ t, exec (.xchTimeout c .flow) s = .next t ∧ discarded t ∧ SameTiers s t)
    ∧ (x.dry = .verdict → s.xchLatest c .verdict ≤ s.g → ∃ t, exec (.xchTimeout c .verdict) s = .next t ∧ discarded t ∧ SameTiers s t)
    ∧ (x.dry ≠ .verdict → exec (.xchTimeout c .verdict) s = .next s)
    ∧ (x.dry ≠ .flow → exec (.xchTimeout c .flow) s = .next s)
    ∧ (s.g < x.dryAt + 24 → exec (.digestSeal c) s = .next s)
    ∧ ∀ row, s.g < s.xchLatest c row → exec (.xchTimeout c row) s = .next s

/-- The exchanges of a drydown: a FLOW digest and a VERDICT are kept until the step's drydown asks for them; when the last
VERDICT of the step arrives, the step commits if all pass and is discarded if none passes (R271, R272, R277). Comparisons of
replicas: a CLOSURE entry for a key that has not closed here waits for it; CLOSURE_END of the last live replica ends the
comparison; a replica missing at CMP_TIMEOUT is noted, and dropped the second time in a row (R283, R285). -/
def Obligations.ExchangesAndReplicas : Prop :=
  (∀ (s : State) (k : Packet) (c a : Nat), s.live = true →
      let x := s.ctxAt c
      let v := verdictIn k
      (s.xchLands 1 k c a → x.dry ≠ .flow ∨ x.sealed_ = false →
        ∃ t, exec (.flowDigest k []) s = .next t ∧ TierHolds s t (flowBaseTier (s.flowEnt k.flow)) a k.payload
          ∧ (t.ctxAt c).flowGot = x.flowGot ++ [(k.flow ^^^ 0x80000, leNat (k.payload.take 28))] ∧ t.acc = s.acc)
      ∧ (s.xchLands 2 k c a → s.stepOf c ≤ v.step →
        (x.dry ≠ .verdict → ∃ t, exec (.verdict k []) s = .next t ∧ (t.ctxAt c).verdicts = x.verdicts ++ [v] ∧ (t.ctxAt c).dry = x.dry
          ∧ t.acc = s.acc)
        ∧ (x.dry = .verdict → v.vchip < x.vchips → v.step = s.stepOf c →
          (∀ i, i < x.vchips → i ≠ v.vchip → (x.verdictOf (s.stepOf c) i).isSome = true) →
          ((∀ w ∈ x.verdicts ++ [v], w.pass = true) →
            ∃ t, exec (.verdict k []) s = .next t ∧ (t.ctxAt c).dry = .commit ∧ t.stepOf c = s.stepOf c)
          ∧ ((∀ w ∈ x.verdicts ++ [v], w.pass = false) → x.inStep = true →
            ∃ t, exec (.verdict k []) s = .next t ∧ (t.ctxAt c).dry = .none ∧ (t.ctxAt c).inStep = false
              ∧ t.stepOf c = s.stepOf c - 1))))
  ∧ (∀ (s : State) (k : Packet) (c : Fin 256) (a : Nat), s.live = true →
      let x := s.ctxAt c
      let r := closureReplica k
      let e : ClosureIn := ⟨r, beNat ((k.payload.drop 12).take 16), field k.payload 28 4,
        ((x.ends.find? fun q => q.1 == r).map Prod.snd).getD 0 + 1⟩
      let ends := x.ends.filter (fun q => q.1 != r) ++ [(r, field k.payload 0 4)]
      (s.xchLands 3 k c a → x.expelled = false → s.ofDiscarded c k.payload = false → x.closures = [] → x.cmds = [] →
        ∃ t, exec (.closure c k []) s = .next t ∧ (t.ctxAt c).closures = [⟨field k.payload 0 3, field k.payload 3 1, field k.payload 4 8,
          none, 0, false, [e], e.cmp⟩] ∧ t.acc = s.acc)
      ∧ (s.xchLands 4 k c a → x.closures = [] →
        ∃ t, exec (.closureEnd c k []) s = .next t ∧ (t.ctxAt c).ends = ends ∧ t.acc = s.acc
          ∧ ((∀ i ∈ x.liveList, i = s.repIndex c ∨ ∃ q ∈ ends, q.1 = i ∧ x.cmpNo ≤ q.2) → (t.ctxAt c).cmpOpen = false))
      ∧ (x.cmpOpen = true → x.cmpAt + s.odGet kCmpTimeout ≤ s.g → x.closures = [] → x.cmds = [] →
        ∀ q, x.liveList.filter (fun i => i != s.repIndex c && !x.ends.any fun e => e.1 == i && decide (x.cmpNo ≤ e.2)) = [q] →
          ((∀ e ∈ x.silent, e.1 ≠ q) → ∃ t, exec (.cmpTimeout c) s = .next t ∧ (t.ctxAt c).silent = [(q, 1)]
            ∧ (t.ctxAt c).liveMask = x.liveMask ∧ (t.ctxAt c).cmpOpen = false)
          ∧ ((∃ e ∈ x.silent, e.1 = q) → ∃ t, exec (.cmpTimeout c) s = .next t ∧ (t.ctxAt c).liveMask = clearBit x.liveMask q
            ∧ bit (t.ctxAt c).liveMask q = false ∧ (t.ctxAt c).silent = [] ∧ (t.ctxAt c).cmpOpen = false))
      ∧ (x.cmpOpen = false → exec (.cmpTimeout c) s = .next s))

/-- Cross-checks, audits and checkpoints: a release frees the kept image of its entry in every context; a report is recorded
with its tenant, version and digest; the audit engine hashes the window range it was given and refuses one outside the windows; a copied checkpoint
becomes valid once no key of it waits (R289, R290, R292, R311). -/
def Obligations.ChecksAuditsAndCheckpoints : Prop :=
  ∀ s : State,
    (∀ v : W32, ∃ t, exec (.xcheckRelease v) s = .next t ∧ t.od = s.od ∧ t.acc = s.acc ∧ SameTiers s t
      ∧ ∀ c, t.ctxAt c = { s.ctxAt c with keep := (s.ctxAt c).keep.filter fun k => k.1 != v.toNat % 2 ^ 20 })
    ∧ (∀ d : List Byte, d.length = 32 → s.blot.staging.length < 64 →
      ∃ t q, exec (.xcheckReport d) s = .next t ∧ (∃ l, t.blot.staging = s.blot.staging ++ q :: l) ∧ q.cls = 4 ∧ q.action = 0x0E
        ∧ q.syn = d.take 24)
    ∧ (∀ d : List Byte, d.length ≠ 32 → ∃ t, exec (.xcheckReport d) s = .next t ∧ t.mgmt.answer = (3, []) ∧ t.blot = s.blot)
    ∧ (∀ (d : List Byte) (a : Nat), d.length = 32 → s.jobs.audit = none → (s.ctxAt (field d 0 1)).st ≠ .free → field d 1 1 ≤ 1 →
      let w := s.window (field d 0 1) (field d 1 1 == 1) (field d 8 8) (field d 16 8) false
      (w = some a → ∃ t, exec (.auditReq d) s = .next t ∧ t.odGet kAuditStatus = 1 ∧ t.jobs.audit = some d ∧ SameTiers s t)
      ∧ (w = none → ∃ t, exec (.auditReq d) s = .next t ∧ t.odGet kAuditStatus = 2 ∧ t.jobs = s.jobs ∧ SameTiers s t))
    ∧ (∀ (d : List Byte) (a : Nat), s.jobs.audit = some d →
      s.window (field d 0 1) (field d 1 1 == 1) (field d 8 8) (field d 16 8) false = some a →
      ∃ t, exec .auditDone s = .next t ∧ t.odGet kAuditStatus = 0 ∧ t.jobs.audit = none ∧ SameTiers s t
        ∧ t.odGet kAuditResult = leNat (sha3 (s.tierBytes (field d 1 1 == 1) a (field d 16 8))))
    ∧ ∀ c : Fin 256, s.live = true → s.ckptState c = 0 → s.odGet (kCkptState c) ≠ 0 →
      let l := (s.ctxAt c).ckpt.filter fun q => q.2.1 != 0
      let v := if l = [] then 2 else 1
      s.unfenced true (s.odBits (kCkptCfg c) 63 0 + 2) 1 →
      ∃ t, exec (.checkpointCopyDone c) s = .next t ∧ t.ckptState c = v ∧ t.ctxAt c = { s.ctxAt c with ckpt := l }
        ∧ (∀ d, d ≠ c.val → t.ctxAt d = s.ctxAt d)
        ∧ TierHolds s t true (s.odBits (kCkptCfg c) 63 0 + 2) (leBytes 1 v)

/-! ### Recovery, fencing and tests -/

/-- The blotter writer puts the oldest staged record into the ring at its SEQ; windows end when their count has come (R294, R296).
The recovery queue runs oldest first: a teardown leaves its context without commands, tenants and step; a partition reset clears
every store and register of the partition's accords; a chip going offline frees every context and dissolves every partition; a
restarted task is ready, or runs (R299 to R302, R338).
-/
def Obligations.BlotterAndRecoveries : Prop :=
  (∀ s : State,
      (∀ r l, s.blot.staging = r :: l → s.unfenced false (s.fwBase + 64 * ((r.seq - 1) % 16384)) r.bytes.length → ∃ t, exec .blotterAppend s = .next t ∧ t.blot = { s.blot with staging := l }
        ∧ t.odGet kBlotterHead = r.seq ∧ TierHolds s t false (s.fwBase + 64 * ((r.seq - 1) % 16384)) r.bytes)
      ∧ (s.blot.staging = [] → exec .blotterAppend s = .next s)
      ∧ (∀ p : Fin 16, (s.openWindow p = none → ∃ t, exec (.recoveryWindowEnd (.partition p)) s = .next t ∧ t.openWindow p = none
            ∧ (∀ q, q ≠ p.val → t.openWindow q = s.openWindow q) ∧ t.od = s.od ∧ t.ctx = s.ctx)
          ∧ (s.openWindow p ≠ none → exec (.recoveryWindowEnd (.partition p)) s = .next s))
      ∧ ∃ t, exec (.recoveryWindowEnd .fw) s = .next t ∧ t.od = s.od ∧ t.ctx = s.ctx
          ∧ ∀ e, e ∈ t.fw.taskFaults ↔ e ∈ s.fw.taskFaults ∧ s.g < e.2 + s.odGet kWindowFw)
  ∧ (∀ (s : State) (r : Recovery) (l : List Recovery) (masks : List Nat), s.live = true → s.recQ = r :: l →
      ∃ t, exec (.recovery masks) s = .next t
        ∧ (∀ c, r.kind = .teardown c → (s.ctxAt c).st ≠ .free → t.recQ = l ∧ (t.ctxAt c).st = .stopped ∧ (t.ctxAt c).cmds = []
            ∧ (t.ctxAt c).slots = [] ∧ (t.ctxAt c).inStep = false ∧ (t.ctxAt c).launchWait = [])
        ∧ (∀ p m, p < 16 → r.kind = .partReset p m → s.readyOf p = [] → ∀ a ∈ s.accordsOf p, t.accAt a = Accord.reset)
        ∧ (r.kind = .offline → (∀ c, (t.ctxAt c).st = .free) ∧ ∀ p, p < 16 → t.formed p = false)
        ∧ (∀ k, k < 64 → r.kind = .taskRestart k → (t.odBits (kTaskState k) 15 8 = 1 ∨ t.odBits (kTaskState k) 15 8 = 2)
            ∧ t.ctx = s.ctx ∧ t.acc = s.acc))

/-- Fencing requests: a unit is fenced at once and kept by a status write, and the request shows busy until then; a fenced unit
out of use is tested, a passed test lifts the fence and a failed one keeps it; every other request is answered with its code
(R304, R305, Table 13-8). -/
def Obligations.FencesSetAndLift : Prop :=
  ∀ s : State, s.live = true →
    (∀ u : BitVec 16, s.odGet kFenceStatus ≠ 1 →
      (s.fenceable u.toNat = true → s.isFenced u.toNat = false →
        ∃ t, exec (.fenceReq u) s = .next t ∧ t.unitFences = s.unitFences ++ [u.toNat] ∧ t.odGet kFenceStatus = 1
          ∧ t.jobs.fencing = some u.toNat ∧ .fence u.toNat ∈ t.fw.jobs ∧ SameTiers s t)
      ∧ (s.fenceable u.toNat = true → s.isFenced u.toNat = true → s.unitInUse u.toNat = false →
        ∃ t, exec (.unfenceReq u) s = .next t ∧ t.unitFences = s.unitFences ∧ t.odGet kFenceStatus = 1
          ∧ t.jobs.unfence = some u.toNat ∧ SameTiers s t)
      ∧ ∃ t w, exec (.fenceReq u) s = .next t ∧ exec (.unfenceReq u) s = .next w
        ∧ (s.fenceable u.toNat = false → t.odGet kFenceStatus = 3 ∧ w.odGet kFenceStatus = 3 ∧ t.unitFences = s.unitFences)
        ∧ (s.fenceable u.toNat = true → s.isFenced u.toNat = true → t.odGet kFenceStatus = 5 ∧ t.unitFences = s.unitFences)
        ∧ (s.fenceable u.toNat = true → s.isFenced u.toNat = false → w.odGet kFenceStatus = 5)
        ∧ (s.fenceable u.toNat = true → s.isFenced u.toNat = true → s.unitInUse u.toNat = true → w.odGet kFenceStatus = 2))
    ∧ ∀ u, s.jobs.unfence = some u →
      (∃ t, exec (.unfenceTestDone 0) s = .next t ∧ t.unitFences = s.unitFences.erase u ∧ t.odGet kFenceStatus = 0
        ∧ t.jobs.unfence = none ∧ .unfence u ∈ t.fw.jobs)
      ∧ ∀ m, m ≠ 0 → ∃ t, exec (.unfenceTestDone m) s = .next t ∧ t.odGet kFenceStatus = 4 ∧ t.jobs.unfence = none
        ∧ (∀ q ∈ s.unitFences, q ∈ t.unitFences)
        ∧ ∀ a, unitAccord u = some a → ∀ q ∈ maskUnits a (failMask m), q ∈ t.unitFences

/-- In-field tests: an accord that is asked for or falls due is tested at once outside a partition and waits while a context
holds its partition; a test is forced after its grace and recorded; after TEST_TIME the result shows in the accord's entries and
a failing unit is fenced (R306 to R309). -/
def Obligations.AccordTestsRun : Prop :=
  ∀ (s : State) (a : Fin 16), s.live = true → s.hasAccord a = true →
    let due := fun i : Instr => ∃ t, exec i s = .next t
      ∧ (s.partOf a = none → (a.val, TestKind.scheduled, s.g) ∈ t.jobs.tests)
      ∧ (∀ p, s.partOf a = some p → (∀ q, q < 16 → s.inPart q a = true → q = p) →
          (s.runningOn p = none → (a.val, TestKind.scheduled, s.g) ∈ t.jobs.tests)
          ∧ (s.runningOn p ≠ none → (s.guardAt p).window = false →
              (∃ e ∈ t.jobs.due, e.1 = a.val) ∧ ∀ e ∈ t.jobs.tests, e.1 ≠ a.val))
    (s.accordFenced a = false → (∀ e ∈ s.jobs.tests, e.1 ≠ a.val) →
      (∀ m : BitVec 16, bit m.toNat a = true → due (.testReq m))
      ∧ (s.odGet (kTestLast a) + s.odGet kTestInterval ≤ s.g → due (.accordTestDue a)))
    ∧ (s.g < s.odGet (kTestLast a) + s.odGet kTestInterval → exec (.accordTestDue a) s = .next s)
    ∧ (∀ e p, s.jobs.due.find? (fun q => q.1 == a.val) = some e → s.partOf a = some p → e.2 + s.odGet kTestGrace ≤ s.g →
      s.jobs.forced.contains a.val = false → s.odGet kTestsForced + 1 < counterMax kTestsForced → s.blot.staging.length < 64 →
      ∃ t q, exec (.testForced a) s = .next t ∧ t.odGet kTestsForced = s.odGet kTestsForced + 1
        ∧ (∃ l, t.blot.staging = s.blot.staging ++ q :: l) ∧ q.cls = 7 ∧ q.action = 0x12)
    ∧ (∀ m : Nat, (∀ e ∈ s.jobs.tests, e.1 = a.val → s.g < e.2.2 + s.odGet kTestTime) → exec (.accordTestDone a m) s = .next s)
    ∧ (∀ m : Nat, (s.partOf a).any s.savingOn = true → exec (.accordTestDone a m) s = .next s)
    ∧ ∀ m : Nat, (∃ e ∈ s.jobs.tests, e.1 = a.val ∧ e.2.2 + s.odGet kTestTime ≤ s.g) → (s.partOf a).any s.savingOn = false →
      s.blot.staging.length < 64 →
      ∃ t q, exec (.accordTestDone a m) s = .next t ∧ (∃ l, t.blot.staging = s.blot.staging ++ q :: l) ∧ q.unit = unitId 6 a
        ∧ t.odGet (kTestResult a) = failMask m
        ∧ (failMask m = 0 → q.cls = 7 ∧ q.action = 0x10 ∧ t.odGet (kTestLast a) = s.g)
        ∧ (failMask m ≠ 0 → q.cls = 4 ∧ q.action = 0x11 ∧ ∀ u ∈ maskUnits a (failMask m), u ∈ t.unitFences)

/-! ### Flacons, keys and attestation -/

/-- Verification, loading and sealing of a flacon: VERIFY takes the manifest of a set that may take one, and its end binds a
manifest that is consistent, newer than the running one and carries both signatures; LOAD arms layers; SEAL passes or fails
them, and the last one that passes makes the set ACTIVE or STAGED; RELEASE empties a set that nothing names. A command while
another runs, or in a state that does not take it, changes no set (R314, R317, R322, R324, R325, R368; Tables 14-1 and 14-6). -/
def Obligations.FlaconsVerifyLoadSeal : Prop :=
  ∀ (s : State) (n : Fin 16), s.live = true →
    let st := s.wsState n
    let ends := fun (i : Instr) (code : Nat) (q : State → Prop) =>
      ∃ t, exec i s = .next t ∧ t.odGet kFlaconStatus = code ∧ SameTiers s t ∧ q t
    let refused := fun (i : Instr) (code : Nat) => ends i code fun t => t.wsState n = st ∧ t.wsAt n = s.wsAt n ∧ t.mgmt.answer = (7, [])
    (s.flaconBusy = true → ∀ i ∈ [Instr.verify n, .flaconLoad n 0, .seal n, .decant n, .release n],
      ∃ t, exec i s = .next t ∧ t.od = s.od ∧ t.wsets = s.wsets ∧ t.mgmt.answer = (6, []))
    ∧ (s.flaconBusy = false →
      (st = 0 ∨ st = 2 ∨ st = 6 → s.wsCfg n 1 ≠ 0 → ends (.verify n) 1 fun t => t.wsState n = st
        ∧ (t.wsAt n).verifying = some (s.tierBytes false (s.wsCfg n 3) (128 + 96 * min 4096 (s.tierLE false (s.wsCfg n 3 + 12) 4))))
      ∧ (st ≠ 0 ∧ st ≠ 2 ∧ st ≠ 6 → refused (.verify n) 9)
      ∧ (∀ k, s.takesLayers n = true → k < manLayers (s.wsManifest n) → k ≠ 0xFFF →
          ends (.flaconLoad n k) 0 fun t => t.layerSt n k = 1 ∧ ⟨k, 0, 0⟩ ∈ (t.wsAt n).folds ∧ t.wsState n = st)
      ∧ (s.takesLayers n = true → ends (.flaconLoad n 0xFFF) 0 fun t => t.wsState n = st
          ∧ ∀ k < manLayers (s.wsManifest n), t.layerSt n k = 1 ∧ ⟨k, 0, 0⟩ ∈ (t.wsAt n).folds)
      ∧ (s.takesLayers n = true → ends (.seal n) 1 fun t => (t.wsAt n).sealing = true ∧ t.wsState n = st)
      ∧ (s.takesLayers n = false → refused (.flaconLoad n 0) 9 ∧ refused (.seal n) 9)
      ∧ (st = 1 ∨ st = 6 ∨ (st = 2 ∧ s.namesSet n = false) → ends (.release n) 0 fun t => t.wsState n = 0 ∧ t.wsAt n = WeightSet.reset)
      ∧ (st = 3 → ends (.release n) 0 fun t => t.wsState n = 2 ∧ t.wsVersion n = s.wsVersion n ∧ (t.wsAt n).active = (s.wsAt n).active)
      ∧ (st = 0 ∨ st = 4 ∨ st = 5 ∨ (st = 2 ∧ s.namesSet n = true) → refused (.release n) 9))
    ∧ (∀ m, (s.wsAt n).verifying = some m →
      let a := s.wsCfg n 3 + field m 56 8
      let k := s.keySlot (field m 8 1)
      let sig := sigsOk k m (s.tierBytes false a 384) (s.tierBytes false (a + 384) 16224)
      let sound := field m 0 4 = 0x31464C46 ∧ field m 4 2 = 1 ∧ manOk m (s.wsCfg n 1) = true ∧ slotEmpty k = false
      (sound → sig = (true, true) → st ≠ 2 → ends (.verifyDone n) 0x300 fun t => t.wsState n = 1 ∧ (t.wsAt n).active = m)
      ∧ (sound → sig = (true, true) → st = 2 → s.wsVersion n < manVersion m →
          ends (.verifyDone n) 0x300 fun t => t.wsState n = 3 ∧ (t.wsAt n).staged = m ∧ t.wsStaged n = manVersion m
            ∧ t.wsVersion n = s.wsVersion n)
      ∧ (sound → st = 2 → manVersion m ≤ s.wsVersion n → ends (.verifyDone n) 5 fun t => t.wsState n = st)
      ∧ (sound → st ≠ 2 → sig ≠ (true, true) → s.odGet kSigFailures + 1 < counterMax kSigFailures →
          ∃ t, exec (.verifyDone n) s = .next t ∧ t.odGet kFlaconStatus % 256 = 6 ∧ t.wsState n = st
            ∧ t.odGet kSigFailures = s.odGet kSigFailures + 1)
      ∧ (field m 0 4 ≠ 0x31464C46 → ends (.verifyDone n) 2 fun t => t.wsState n = st))
    ∧ ((s.wsAt n).sealing = true → (∀ i < manLayers (s.wsManifest n), s.layerSt n i = 1) →
      let m := s.wsManifest n
      ((∀ i < manLayers m, s.layerPasses n i = true) → manEpoch m = beNat ((m.drop 40).take 16) →
        (st = 1 → ends (.sealDone n) 0 fun t => t.wsState n = 2 ∧ t.wsVersion n = manVersion m)
        ∧ (st = 3 → ends (.sealDone n) 0 fun t => t.wsState n = 4 ∧ t.wsVersion n = s.wsVersion n))
      ∧ ∀ i < manLayers m, s.layerPasses n i = false → st ≠ 6 ∨ i ∈ (s.wsAt n).damaged → ends (.sealDone n) 7 fun t => t.wsState n = st ∧ t.layerSt n i = 3)

/-- Decants (R316, R329, R332): an accepted DECANT closes every layer's gate; the copies begin once no context drains the
old epoch; a layer whose copy has the manifest's digest opens its gate, the last one makes the set ACTIVE at the new
version; a copy that differs is made once more, and the second time, or when a gate is closed too long, the set is FAILED. A
pending pointer is taken where R316 allows it. -/
def Obligations.DecantsSwitchEpochs : Prop :=
  ∀ (s : State) (n : Fin 16), s.live = true →
    let st := s.wsState n
    let w := s.wsAt n
    (s.flaconBusy = false →
      (st = 4 ∨ (st = 6 ∧ w.stagedIntact = true) → s.allMarked n = true →
        ∃ t, exec (.decant n) s = .next t ∧ t.odGet kFlaconStatus = 0 ∧ t.wsState n = 5 ∧ (t.wsAt n).active = w.staged
          ∧ (t.wsAt n).copying = false ∧ ∀ i < manLayers w.staged, t.layerSt n i = 4)
      ∧ (s.allMarked n = false ∨ (st ≠ 4 ∧ st ≠ 6) →
        ∃ t, exec (.decant n) s = .next t ∧ t.odGet kFlaconStatus = 11 ∧ t.wsets = s.wsets ∧ t.wsState n = st
          ∧ t.mgmt.answer = (7, [])))
    ∧ (st = 5 → w.copying = false → s.drainsOld n = [] →
      ∃ t, exec (.decantCopyStart n) s = .next t ∧ (t.wsAt n).copying = true ∧ (t.wsAt n).copyNext = 0 ∧ (t.wsAt n).copyBegan = s.g
        ∧ t.od = s.od ∧ SameTiers s t)
    ∧ (st ≠ 5 ∨ s.drainsOld n ≠ [] → exec (.decantCopyStart n) s = .next s)
    ∧ (st = 5 → w.copying = true →
      let m := w.staged
      let i := w.copyNext
      let l := manLayer m i
      let base := bit (s.wsCfg n 2) 63
      let bs := s.tierBytes base (bits (s.wsCfg n 2) 41 0 + l.off) l.size
      let src := bits (s.wsCfg n 2) 41 0 + l.off
      let same := closeFold (manKey m) l.tile (l.size / l.tile) (foldAt (manKey m) l.tile 0 (blocks bs) 0) = l.sil
      (s.rangeFenced base src 1 = false → s.rangeFenced base src l.size = false → s.unfenced false (s.wsCfg n 0 + l.off) l.size →
        (same → i + 1 < manLayers m → ∃ t, exec (.layerCopyDone n .clean) s = .next t ∧ t.layerSt n i = 5 ∧ t.wsState n = 5
        ∧ (t.wsAt n).copyNext = i + 1)
      ∧ (same → i + 1 = manLayers m → ∃ t, exec (.layerCopyDone n .clean) s = .next t ∧ t.layerSt n i = 5 ∧ t.wsState n = 2
        ∧ t.wsVersion n = manVersion m ∧ (t.wsAt n).staged = [] ∧ (t.wsAt n).copying = false)
      ∧ (¬ same → w.copyRetry = false → ∃ t, exec (.layerCopyDone n .clean) s = .next t ∧ t.wsState n = 5
        ∧ (t.wsAt n).copyNext = i ∧ (t.wsAt n).copyRetry = true ∧ TierHolds s t false (s.wsCfg n 0 + l.off) bs)
      ∧ (¬ same → w.copyRetry = true → ∃ t, exec (.layerCopyDone n .clean) s = .next t ∧ t.wsState n = 6
        ∧ (t.wsAt n).copying = false))
      ∧ (w.copyBegan + s.odGet kGateLimit ≤ s.g → ∃ t, exec (.gateLimit n) s = .next t ∧ t.wsState n = 6 ∧ (t.wsAt n).copying = false)
      ∧ (s.g < w.copyBegan + s.odGet kGateLimit → exec (.gateLimit n) s = .next s))
    ∧ ∀ (c : Fin 256) (d : List Byte), d.length = 32 →
      let r := s.pendingRefusal c (epochPtr (leNat d))
      (r = 0 → ∃ t, exec (.epochPending c d) s = .next t ∧ t.pendingPtr c = epochPtr (leNat d) ∧ t.odBits (kEpochStatus c) 23 16 = 0
        ∧ t.activePtr c = s.activePtr c ∧ SameTiers s t)
      ∧ (r ≠ 0 → ∃ t, exec (.epochPending c d) s = .next t ∧ t.pendingPtr c = s.pendingPtr c ∧ t.odBits (kEpochStatus c) 23 16 = r
        ∧ t.activePtr c = s.activePtr c ∧ t.mgmt.answer = (7, []))

/-- Key slots and attestation: the write that completes a KEYSLOT_WRITE takes the slot with its counter where the message is
signed by slot 0's keys or is the first of all, and is refused with its code otherwise, the slots and the counter as before; a
report is signed over the device's state with the nonce of its request, one request at a time (R321, R334, R397). -/
def Obligations.KeysAndAttestation : Prop :=
  ∀ s : State,
    (∀ (path : Path) (old data : List Byte), s.seqEnds kKeyslotWrite path old → data ≠ [] → data.length ≤ 256 →
      old.length + data.length = 17072 → old ≠ [] → s.odGet kKeyslotStatus ≠ 1 →
      let d := old ++ data
      let i := field d 0 1
      let slot := (d.drop 16).take 448
      let k0 := s.keySlot 0
      let first := i = 0 ∧ slotEmpty k0 = true ∧ s.sec.banks = []
      let sig := sigsOk k0 (d.take 464) ((d.drop 464).take 384) ((d.drop 848).take 16224)
      let refused := fun code => ∃ t, exec (.keyslotWrite ⟨path, old.length, data⟩) s = .next t ∧ t.odGet kKeyslotStatus = code
        ∧ t.odGet kKeyslots = s.odGet kKeyslots ∧ t.sec = s.sec ∧ t.mgmt.answer = (7, [])
      i < 8 → allZero ((d.drop 1).take 7) = true → allZero (slot.drop 436) = true →
      (field slot 384 4 = 65537 → s.sec.counter < field d 8 8 → first ∨ (slotEmpty k0 = false ∧ sig = (true, true)) →
        i ≠ 0 ∨ s.sec.banks.length < 4 →
        ∃ t, exec (.keyslotWrite ⟨path, old.length, data⟩) s = .next t ∧ t.keySlot i = slot
          ∧ (∀ j, j < 8 → j ≠ i → t.keySlot j = s.keySlot j) ∧ t.sec.counter = field d 8 8 ∧ t.odGet kKeyslotStatus = 1
          ∧ (i ≠ 0 → t.sec.banks = s.sec.banks) ∧ (first → t.sec.banks = [beNat (sha3 slot)]) ∧ SameTiers s t)
      ∧ (field slot 384 4 ≠ 65537 → refused 5)
      ∧ (field slot 384 4 = 65537 → slotEmpty k0 = false → field d 8 8 ≤ s.sec.counter → refused 3)
      ∧ (field slot 384 4 = 65537 → slotEmpty k0 = false → s.sec.counter < field d 8 8 → sig ≠ (true, true) → refused 2))
    ∧ (∀ d : List Byte, d.length = 32 →
      (s.sec.nonce = none → s.sec.locked = false → ∃ t, exec (.attestReq d) s = .next t ∧ t.sec = { s.sec with nonce := some d }
        ∧ t.odGet kAttestStatus = 1 ∧ SameTiers s t)
      ∧ (s.sec.nonce = none → s.sec.locked = true → ∃ t, exec (.attestReq d) s = .next t ∧ t.sec = s.sec
        ∧ t.odGet kAttestStatus = 2 ∧ t.mgmt.answer = (7, []))
      ∧ (s.sec.nonce ≠ none → ∃ t, exec (.attestReq d) s = .next t ∧ t.od = s.od ∧ t.sec = s.sec ∧ t.mgmt.answer = (6, [])))
    ∧ (∀ d, s.sec.nonce = some d → ∃ t, exec .attestDone s = .next t ∧ t.sec.nonce = none ∧ t.odGet kAttestStatus = 0
      ∧ t.sec.reportSeq = nextSeq s.sec.reportSeq ∧ SameTiers s t
      ∧ let r := s.attestReport (nextSeq s.sec.reportSeq) d
        leBytes r.length (t.odGet kAttestResult) = r)
    ∧ (s.sec.nonce = none → exec .attestDone s = .next s)

/-! ### Firmware -/

/-- The commands of a ring whose turn it is: NOP (which shows the corrected errors of the SRAM, log entry 210) and a malformed entry
are answered; LOAD refuses a context that is not FREE, a binary that fails a check, and otherwise gives the context its program, its
partition and its windows with step 0; UNLOAD frees a context in the states that allow it (R92, R117, R341, R342; Tables 5-12, 15-5,
15-6). -/
def Obligations.ProgramsLoadAndUnload : Prop :=
  ∀ (s : State) (r : Fin 8) (env : FwEnv), s.live = true →
    let u := s.fwServed r
    let a := loadArgs (s.fwEntry r)
    let answered := fun (i : Instr) (st : Nat) (q : State → Prop) => ∃ t, exec i s = .next t ∧ FwAnswered s t r st ∧ q t
    (s.fwCommand r env 0 → answered (.fwNop r env) 0 fun t => t.ctx = s.ctx ∧ t.acc = s.acc)
    ∧ (s.fwCommand r { env with sram := .none } 0 → ∀ k n, s.odGet kSramCeCount + n < counterMax kSramCeCount →
        answered (.fwNop r { env with sram := .corrected k n }) 0 fun t => t.odGet kSramCeCount = s.odGet kSramCeCount + n)
    ∧ (s.fwReady r env → fwEntryOk (s.fwHead r) (s.fwEntry r) = false →
        answered (.fwMalformedCommand r env) 3 fun t => t.ctx = s.ctx ∧ t.acc = s.acc)
    ∧ (s.fwCommand r env 1 → ∀ (i : BinImage) (fb : Option BinImage) (peers : List Nat),
      let b := readBinary (u.imageIn a.image) i
      let k := foldOf b peers (u.accordsOf a.part).length
      ((s.ctxAt a.ctx).st ≠ .free ∨ s.formed a.part = false → answered (.load r env i fb peers) 2 fun t => t.ctx = s.ctx)
      ∧ ((s.ctxAt a.ctx).st = .free → s.formed a.part = true → u.staticRefusal a k b ≠ none →
          answered (.load r env i fb peers) 4 fun t => t.ctx = s.ctx)
      ∧ ((s.ctxAt a.ctx).st = .free → s.formed a.part = true → u.staticRefusal a k b = none → a.withFallback = false →
        ∀ (v : Variant) (x y : Nat) (u1 u2 : State), variantFor b k = some v → u.unlistedRefusal a b v none = false →
          u.openWindowAt false (needOf Variant.heartWin v none) = (some x, u1) →
          u1.openWindowAt true (needOf Variant.baseWin v none) = (some y, u2) →
          u2.crossOk (u2.accordsOf a.part) v ⟨x, needOf Variant.heartWin v none, y, needOf Variant.baseWin v none⟩ = true →
          v.slots.all (u2.slotClaimOk (u2.accordsOf a.part) v.fold) = true → (loadRequests a b).length ≤ u2.unarmed.length →
          answered (.load r env i fb peers) 0 fun t => (t.ctxAt a.ctx).st = .loaded ∧ (t.ctxAt a.ctx).part = a.part
            ∧ (t.ctxAt a.ctx).prog = some b ∧ (t.ctxAt a.ctx).heartBase = x ∧ (t.ctxAt a.ctx).baseBase = y ∧ t.stepOf a.ctx = 0
            ∧ ∀ d, d ≠ a.ctx → t.ctxAt d = s.ctxAt d))
    ∧ (s.fwCommand r env 2 →
      ((s.ctxAt a.ctx).st.unloads = true → answered (.unload r env) 0 fun t => (t.ctxAt a.ctx).st = .free)
      ∧ ((s.ctxAt a.ctx).st.unloads = false → answered (.unload r env) 2 fun t => t.ctx = s.ctx))

/-- The update of the firmware and RESTART, each a command of a ring whose turn it is. FW_STAGE, which reads its flash back in a flash
window, answers OK with the image in the other SRAM slot and in the inactive flash slot where the image is accepted, and SIG_FAILED
with nothing changed where it is not: whether the signatures of an image hold rests on Pormen's root keys, which the manual does
not give (log entry 6). FW_ACTIVATE makes a staged image the running one where its schema is known and nothing faults, and is
turned away or reverts otherwise. A cold RESTART resets the chip; a warm one keeps the heart map and the memory for the start that
follows, and is turned away where it may not begin (R341, R347, R348, R351, R354 to R357; Tables 15-5 and 15-6). -/
def Obligations.ImagesUpdateAndRestart : Prop :=
  ∀ (s : State) (r : Fin 8) (env : FwEnv), s.live = true →
    let u := s.fwServed r
    let e := s.fwEntry r
    let h := u.fwGet 0x400000 128
    let good := u.stagedGood (field e 8 8)
    let kept := fun t : State => t.fw.flash = s.fw.flash ∧ t.fw.sram = s.fw.sram ∧ t.odGet kFwSlots = s.odGet kFwSlots
    (s.fwCommand r env 3 →
      (s.pins.window.isSome = true → ∃ t, exec (.fwStage r env true) s = .next t ∧ t.ctx = s.ctx ∧ t.runSlot = s.runSlot
        ∧ (good = true → FwAnswered s t r 0 ∧ t.odBit kFwSlots 2 = true ∧ t.odGet kUpdateStatus = 0
          ∧ t.fw.sram.readN (sramSlot (1 - u.runSlot)) (128 + imgBody h) = u.fwGet 0x400000 (128 + imgBody h)
          ∧ t.fw.flash.readN (imageAt (1 - u.activeSlot)) (imgSize h) = u.fwGet 0x400000 (imgSize h))
        ∧ (good = false → FwAnswered s t r 5 ∧ kept t))
      ∧ (s.pins.window.isSome = true → ∃ t, exec (.fwStage r env false) s = .next t ∧ t.ctx = s.ctx ∧ t.fw.flash = s.fw.flash
        ∧ (good = true → FwAnswered s t r 8 ∧ t.odBit kFwSlots 2 = false) ∧ (good = false → FwAnswered s t r 5 ∧ kept t))
      ∧ (imgHeaderOk h = false ∨ field e 8 8 < imgSize h ∨ 0x200000 < field e 8 8 → ∀ ok, ∃ t, exec (.fwStage r env ok) s = .next t
        ∧ FwAnswered s t r 5 ∧ kept t))
    ∧ (s.fwCommand r env 4 →
      let new := u.slotHeader (1 - u.runSlot)
      let known := bit (field new 12 4) (field (u.slotHeader u.runSlot) 6 2 / 256)
      (u.mayActivate = true → known = true → ∃ t, exec (.fwActivate r env false none) s = .next t ∧ FwAnswered s t r 0
        ∧ t.runSlot = 1 - s.runSlot ∧ t.odBit kFwSlots 2 = false ∧ t.odGet kFwVersion = field new 8 4 ∧ t.odGet kUpdateStatus = 3
        ∧ t.ctx = s.ctx)
      ∧ (u.mayActivate = true → known = false → ∀ f, ∃ t, exec (.fwActivate r env false f) s = .next t ∧ FwAnswered s t r 6
        ∧ t.odGet kFwSlots = s.odGet kFwSlots ∧ t.odGet kUpdateStatus = 4 ∧ t.ctx = s.ctx)
      ∧ (u.mayActivate = true → ∀ f, ∃ t, exec (.fwActivate r env true f) s = .next t ∧ FwAnswered s t r 7
        ∧ t.odGet kFwSlots = s.odGet kFwSlots ∧ t.odGet kUpdateStatus = 5)
      ∧ (u.mayActivate = false → ∀ b f, ∃ t, exec (.fwActivate r env b f) s = .next t ∧ FwAnswered s t r 2
        ∧ t.odGet kFwSlots = s.odGet kFwSlots))
    ∧ (s.fwCommand r env 5 →
      let warm := bit (field e 16 8) 0
      let back := fun (t : State) => t.odGet kPhase = 0 ∧ t.ctx = [] ∧ t.g = 0 ∧ t.pending = s.pending ∧ t.fw.flash = s.fw.flash
        ∧ t.pins.strapped = false ∧ t.heart = u.heart
      (warm = false → ∃ t, exec (.restart r env) s = .next t ∧ back t ∧ t.fw.persist.warmIntent = false)
      ∧ (warm = true → u.mayRestartWarm = true → ∃ t, exec (.restart r env) s = .next t ∧ back t ∧ t.fw.persist.warmIntent = true
        ∧ t.fw.mapImage = u.heartMap ∧ t.fw.selfRefresh = true)
      ∧ (warm = true → u.mayRestartWarm = false → ∃ t, exec (.restart r env) s = .next t ∧ FwAnswered s t r 2 ∧ t.ctx = s.ctx))

/-- Faults of the firmware (R298, R303, R337, R338): the first task fault restarts the task, with its record and its place in the
recovery queue; a second one within its window, a kernel fault, a watchdog and an uncorrectable read of the SRAM are FATAL: every context stops and the device enters
DUMP. -/
def Obligations.FirmwareFaults : Prop :=
  ∀ s : State, s.live = true → s.dumping = false →
    let fatal := fun i : Instr => ∃ t, exec i s = .next t ∧ t.dumping = true ∧ t.pins.faultN = true ∧ t.live = false
      ∧ ∀ c, (s.ctxAt c).st ≠ .free → (t.ctxAt c).st = .stopped
    (∀ k : Fin 64, s.taskFatal = false → s.blot.staging.length < 64 →
      ∃ t q, exec (.taskFault k) s = .next t ∧ t.odBits (kTaskState k) 15 8 = 3 ∧ t.blot.staging = s.blot.staging ++ [q]
        ∧ q.cls = 6 ∧ q.action = 0x0F ∧ t.recQ = [⟨q.seq, unitId 11 (s.odBits (kTaskState k) 31 24), .taskRestart k, s.g⟩]
        ∧ (k.val, s.g) ∈ t.fw.taskFaults ∧ t.ctx = s.ctx ∧ t.acc = s.acc)
    ∧ (∀ k : Fin 64, s.taskFatal = true → fatal (.taskFault k))
    ∧ (∀ c : Fin 6, fatal (.kernelFault c) ∧ fatal (.watchdogExpiry c)
      ∧ ∃ t, exec (.watchdogExpiry c) s = .next t ∧ t.fw.missed = true)
    ∧ (∀ (r : Fin 8) (k : MemKind) (a : Nat) (y : Byte) (full : List (Fin 8)), fatal (.fwNop r ⟨.uncorrectable k a y, full⟩))

/-- Status writes and flash windows (R305, R346, R347, R387, R389): a status write, which needs a flash window, leaves in flash the record
with the next SEQ where it reads back right, and its request is then reported done; one that does not stays at the head of its queue; a window opens only
where R389 allows it and closes by the change back to RUN. -/
def Obligations.StatusWritesAndWindows : Prop :=
  ∀ s : State,
    (s.live = true → s.pins.window.isSome = true → ∀ j rest, s.fw.jobs = j :: rest →
      (∃ t, exec (.statusWriteDone true) s = .next t ∧ t.fw.jobs = rest ∧ t.fw.recSeq = nextSeq s.fw.recSeq ∧ t.ctx = s.ctx
        ∧ (∀ i, i < 2 → s.copyNow = some (1 - i) → t.copyBytes (1 - i) = s.copyBytes (1 - i))
        ∧ (∀ u, j = .fence u → s.jobs.fencing = some u → t.odGet kFenceStatus = 0 ∧ t.jobs.fencing = none
            ∧ ∃ i < 2, t.copyBytes i = s.statusRecord (nextSeq s.fw.recSeq)))
      ∧ ∃ t, exec (.statusWriteDone false) s = .next t ∧ t.fw.jobs = s.fw.jobs ∧ t.fw.recSeq = s.fw.recSeq ∧ t.ctx = s.ctx
        ∧ t.odGet kFenceStatus = s.odGet kFenceStatus)
    ∧ (s.fw.jobs = [] ∨ s.pins.window = none → ∀ ok, exec (.statusWriteDone ok) s = .next s)
    ∧ (∀ n b, (s.windowAllowed n b = true → s.odGet kFlashWindows + 1 < counterMax kFlashWindows →
          ∃ t, exec (.flashWindowOpen n b) s = .next t ∧ t.pins.window = some s.g ∧ t.pins.change = some (1, false)
            ∧ t.pins.driven = false ∧ t.odGet kFlashWindows = s.odGet kFlashWindows + 1 ∧ t.live = true ∧ t.ctx = s.ctx)
        ∧ (s.windowAllowed n b = false → exec (.flashWindowOpen n b) s = .next s))
    ∧ (∀ k, s.pins.window = some k → s.pins.change = none → ∃ t, exec .flashWindowClose s = .next t ∧ t.pins.window = none
        ∧ t.pins.change = some (2, false) ∧ t.live = true ∧ t.ctx = s.ctx ∧ SameTiers s t)
    ∧ (s.pins.window = none ∨ s.pins.change ≠ none → exec .flashWindowClose s = .next s)

/-! ### Start, reset and phases -/

/-- Reset and straps (R384, R387, R393, R397, R398): RESET_N brings the straps phase with nothing loaded, the flash and what was
set at production kept, and the memories too unless PWRGOOD falls; the latched straps show in their entries and begin the change
to BOOT, straps that name no start begin DUMP; a change of phase takes effect and is then driven; a bridge that does not train
begins DUMP. -/
def Obligations.ResetsStrapsAndPhases : Prop :=
  ∀ s : State,
    (∀ b, ∃ t, exec (.resetAssert b) s = .next t ∧ t.odGet kPhase = 0 ∧ t.ctx = [] ∧ t.g = 0 ∧ t.pending = s.pending
      ∧ t.fw.flash = s.fw.flash ∧ t.sec.banks = s.sec.banks ∧ t.odGet kSerial = s.odGet kSerial ∧ t.pins.strapped = false
      ∧ t.pins.driven = false ∧ t.live = false ∧ (b = true → t.heart = [] ∧ t.base = []) ∧ (b = false → SameTiers s t))
    ∧ (s.odGet kPhase = 0 → s.pins.strapped = false → s.dumping = false → ∀ (v : BitVec 16) (glitch test : Bool),
      (s.badStraps v.toNat = false → ∃ t, exec (.strapLatch v glitch test) s = .next t ∧ t.odGet kStraps = v.toNat
        ∧ t.odGet kChipId = bits v.toNat 4 0 ∧ t.odGet kBridgeEnabled = bits v.toNat 5 5 ∧ t.odGet kStrapGlitch = b2n glitch
        ∧ t.pins.change = some (1, false) ∧ t.pins.strapped = true
        ∧ (test = true ∨ bits v.toNat 7 6 = 2 → t.odGet kTestMode = 1 ∧ t.sec.locked = true)
        ∧ (test = false → bits v.toNat 7 6 ≠ 2 → t.odGet kTestMode = s.odGet kTestMode ∧ t.sec = s.sec))
      ∧ (s.badStraps v.toNat = true → ∃ t, exec (.strapLatch v glitch test) s = .next t ∧ t.dumping = true
        ∧ t.pins.identityOnly = true ∧ t.pins.faultN = true)
      ∧ ∃ t, exec (.d2dTraining false) s = .next t ∧ t.dumping = true ∧ t.pins.identityOnly = true ∧ t.od = s.od)
    ∧ exec (.d2dTraining true) s = .next s
    ∧ (s.odGet kPhase ≠ 0 ∨ s.pins.strapped = true → exec (.d2dTraining false) s = .next s
        ∧ ∀ v g test, exec (.strapLatch v g test) s = .next s)
    ∧ (∀ p, s.pins.change = some (p, false) →
      (∃ t, exec .phaseSwitch s = .next t ∧ t.odGet kPhase = p ∧ t.pins.change = some (p, true) ∧ t.ctx = s.ctx ∧ SameTiers s t)
      ∧ exec .phaseDrive s = .next s)
    ∧ (∀ p, s.pins.change = some (p, true) →
      (∃ t, exec .phaseDrive s = .next t ∧ t.pins.change = none ∧ t.pins.driven = true ∧ t.od = s.od ∧ t.ctx = s.ctx)
      ∧ exec .phaseSwitch s = .next s)
    ∧ (s.pins.change = none → exec .phaseSwitch s = .next s ∧ exec .phaseDrive s = .next s)

/-- Starts (R348 to R350, R352, R353): a start within its limit whose image, training and, for a warm one, calibration hold, and which
nothing makes FATAL or offline, ends in RUN with the kind of start shown; one that fails, or that its limit ends, resets the chip
with its attempt recorded as open in flash; where every counter has reached its end the device enters DUMP. Outside BOOT nothing
starts. Whether an image's signatures hold rests on Pormen's root keys, which the manual does not give (log entry 6). -/
def Obligations.StartsReachRun : Prop :=
  ∀ (s : State) (env : StartEnv),
    let o := fun (ok : Bool) (k : Nat) => (s.startChoice ok).1.openAttempt k
    let back := fun (t : State) (ok : Bool) (k : Nat) => t.odGet kPhase = 0 ∧ t.ctx = [] ∧ t.pins.strapped = false
      ∧ t.fw.flash = (o ok k).fw.flash
    (s.mayStartUp = true → ∀ (k : Nat) (golden : Bool), (s.startChoice env.persistentOk).2 = some (k, golden) →
      let w := o env.persistentOk k
      let a := imageAt (w.imageNo golden)
      let holds := imageGood (w.flashGet a (imgSize (w.flashGet a 128))) = true ∧ s.startLate k = false ∧ env.trainingOk = true
        ∧ (k = 1 → env.calibrationOk = true) ∧ w.startDies k golden env = false
      ∃ t, exec (.startUp env) s = .next t
        ∧ (holds → t.odGet kPhase = 2 ∧ t.pins.change = none ∧ t.pins.driven = true ∧ t.live = true
          ∧ t.odGet kStartKind = if golden then (if k = 1 then 3 else 2) else if k = 1 then 1 else 0)
        ∧ (¬ holds → back t env.persistentOk k))
    ∧ (s.mayStartUp = true → (s.startChoice env.persistentOk).2 = none →
      ∃ t, exec (.startUp env) s = .next t ∧ t.dumping = true ∧ t.pins.shortDump = true)
    ∧ (s.mayStartUp = true → ∀ (k : Nat) (golden : Bool), (s.startChoice s.fw.persist.valid).2 = some (k, golden) →
      (s.startLate k = true → ∃ t, exec .startLimit s = .next t ∧ back t s.fw.persist.valid k)
      ∧ (s.startLate k = false → exec .startLimit s = .next s))
    ∧ (s.mayStartUp = false → exec (.startUp env) s = .next s ∧ exec .startLimit s = .next s)

/-! ### The object dictionary and the management bus -/

/-- OOB_WRITE_EN (R372): while it is 0 an out-of-band write to an existing entry ends with DENIED and changes nothing but the
count of refused accesses, and an out-of-band read proceeds; in band it is written; out of band a write of it ends with DENIED
always. -/
def Obligations.OobWritesDenied : Prop :=
  ∀ (s : State) (a : OdAddr) (data : List Byte) (acc : Bool), s.odGet kAccessRefused + 1 < counterMax kAccessRefused →
    let denied := ∃ t m, exec (.entryWrite a data acc) s = .next t ∧ t.mgmt.answer = (2, []) ∧ t.i3c.mctpOut = s.i3c.mctpOut ++ [m]
      ∧ m[7]? = some 2 ∧ (∀ k, k ≠ kAccessRefused → t.odGet k = s.odGet k) ∧ t.acc = s.acc ∧ t.ctx = s.ctx ∧ t.seqs = s.seqs
      ∧ SameTiers s t
    (s.runPins = true → a.path = .outOfBand → a.intact = true →
      (s.odGet kOobWriteEn = 0 → (s.odRow a.index a.sub).isSome = true ∨ (a.sub = 0 ∧ (s.odCount a.index).isSome = true) → denied)
      ∧ (a.index = 0x1F00 → a.sub = 0x0C → denied)
      ∧ ∀ n, s.odGet kOobWriteEn = 0 → s.readCheck a n = 0 →
        ∃ t m, exec (.oobRead a n true) s = .next t ∧ t.i3c.mctpOut = s.i3c.mctpOut ++ [m] ∧ m[7]? = some 0
          ∧ (odKey a ≠ kTctData → odKey a ≠ kFlowData → t.od = s.od ∧ (m.drop 9).take (s.readBytes a n).length = s.readBytes a n))
    ∧ (s.live = true → a.path = .inBand → a.via = none → a.flow = 0 → a.index = 0x1F00 → a.sub = 0x0C → a.off = 0 →
      ∀ v : Bool, ∃ t, exec (.entryWrite a [if v then 1 else 0] acc) s = .next t ∧ t.odGet kOobWriteEn = b2n v
        ∧ t.mgmt.answer = (0, []))

/-- Accesses of the dictionary (R361, R362, R366, R368, R373): a write that fails a check ends with that check's status and changes
nothing; one that passes them stores the value, here of entries whose write does nothing else, and the configuration check sees it;
a READ over a packet is answered with the entry's bytes; a crossing access that was not accepted is withdrawn. -/
def Obligations.DictionaryAccesses : Prop :=
  ∀ (s : State) (a : OdAddr) (data : List Byte) (acc : Bool), s.live = true → a.path = .inBand → a.via = none →
    let c := s.writeCheck a data
    (c ≠ 0 → ∃ t, exec (.entryWrite a data acc) s = .next t ∧ t.mgmt.answer = (c, []) ∧ t.acc = s.acc ∧ t.ctx = s.ctx ∧ t.seqs = s.seqs
      ∧ SameTiers s t ∧ (c = 1 → t.od = s.od)
      ∧ (s.odGet kAccessRefused + 1 < counterMax kAccessRefused → ∀ k, k ≠ kAccessRefused → t.odGet k = s.odGet k))
    ∧ (c = 0 → odKey a ∈ [kLaunchGuard, kStopLead, kDrainSteps, kGateLimit, kTestInterval] → acc = true →
      ∃ t, exec (.entryWrite a data acc) s = .next t ∧ t.odGet (odKey a) = leNat data ∧ t.mgmt.answer = (0, []) ∧ t.ctx = s.ctx
        ∧ t.acc = s.acc ∧ SameTiers s t ∧ (s.odGet kConfigState = 1 → t.odGet kConfigState = 0))
    ∧ (c = 0 → s.crosses a = true → acc = false → s.odGet kBusyTimeouts + 1 < counterMax kBusyTimeouts →
      ∃ t, exec (.entryWrite a data acc) s = .next t ∧ t.mgmt.answer = (5, []) ∧ t.ctx = s.ctx ∧ t.acc = s.acc ∧ SameTiers s t
        ∧ t.odGet kBusyTimeouts = s.odGet kBusyTimeouts + 1)
    ∧ (s.crosses a = true → s.odGet kBusyTimeouts + 1 < counterMax kBusyTimeouts → ∀ w, s.accessDenied a w = false →
      ∃ t, exec (.busyTimeout a w) s = .next t ∧ t.mgmt.answer = (5, []) ∧ t.ctx = s.ctx ∧ t.acc = s.acc ∧ SameTiers s t
        ∧ t.odGet kBusyTimeouts = s.odGet kBusyTimeouts + 1)
    ∧ (∀ w, s.crosses a = false ∨ s.accessDenied a w = true → exec (.busyTimeout a w) s = .next s)
    ∧ ∀ k : Packet, k.opcode = 5 → s.pktMalformed k = false →
      let d := odAddrOf ⟨.inBand, 0, some k, 0, true, 0, 0, 0⟩
      let n := k.aux.toNat % 512
      s.readCheck d n = 0 → odKey d ≠ kTctData → odKey d ≠ kFlowData →
        ∃ t q, exec (.odRead k true) s = .next t ∧ t.outbox = s.outbox ++ [q] ∧ q.opcode = 3 ∧ q.dstChip = k.srcChip
          ∧ q.payload = s.readBytes d n ∧ t.od = s.od ∧ SameTiers s t

/-- The configuration check, status clearing and the event vector (R375, R377, R378): a commit ends with the first sweep after
it, in COMMITTED where its CRC is the reference and with MISMATCH where it is not; a sweep that differs in COMMITTED is drift,
recorded and without further effect while CONFIG_DRIFT_ACTION is 0; a status clears only for the area's own ERR_SEQ; the vector
is raised once more at the end of a holdoff during which the series advanced. -/
def Obligations.ConfigurationAndStatus : Prop :=
  ∀ s : State,
    (s.odGet kConfigCommit ≠ 1 → ∃ t, exec (.configCommit 1) s = .next t ∧ t.odGet kConfigCommit = 1 ∧ t.mgmt.commitWait = true
      ∧ t.mgmt.answer = (0, []) ∧ t.odGet kConfigState = s.odGet kConfigState)
    ∧ (s.odGet kConfigCommit = 1 → ∃ t, exec (.configCommit 1) s = .next t ∧ t.od = s.od ∧ t.mgmt.answer = (6, []))
    ∧ (∀ v : Byte, v ≠ 1 → ∃ t, exec (.configCommit v) s = .next t ∧ t.odGet kConfigCommit = s.odGet kConfigCommit
        ∧ t.mgmt.commitWait = s.mgmt.commitWait ∧ t.mgmt.answer = (4, []))
    ∧ (∀ w : Option W32,
      let v := match w with
        | some x => x.toNat
        | none => s.cfgCrc
      (s.mgmt.commitWait = true → v = s.odGet kConfigCrcRef →
        ∃ t, exec (.configSweep w .none) s = .next t ∧ t.odGet kConfigState = 1 ∧ t.odGet kConfigCommit = 0 ∧ t.odGet kConfigCrcLast = v
          ∧ t.mgmt.commitWait = false ∧ t.ctx = s.ctx)
      ∧ (s.mgmt.commitWait = true → v ≠ s.odGet kConfigCrcRef → s.odGet kConfigState ≠ 1 →
        ∃ t, exec (.configSweep w .none) s = .next t ∧ t.odGet kConfigState = s.odGet kConfigState ∧ t.odGet kConfigCommit = 2
          ∧ t.mgmt.commitWait = false ∧ t.ctx = s.ctx)
      ∧ (s.mgmt.commitWait = false → s.odGet kConfigState ≠ 1 ∨ v = s.odGet kConfigCrcRef →
        ∃ t, exec (.configSweep w .none) s = .next t ∧ t.odGet kConfigState = s.odGet kConfigState ∧ t.odGet kConfigCrcLast = v
          ∧ t.blot = s.blot ∧ t.ctx = s.ctx)
      ∧ (s.mgmt.commitWait = false → s.odGet kConfigState = 1 → v ≠ s.odGet kConfigCrcRef → s.odGet kConfigDriftAction = 0 →
        s.blot.staging.length < 64 →
        ∃ t q, exec (.configSweep w .none) s = .next t ∧ t.odGet kConfigState = 2 ∧ t.blot.staging = s.blot.staging ++ [q] ∧ q.cls = 2
          ∧ q.action = 0x15 ∧ q.level = 0 ∧ t.ctx = s.ctx ∧ t.acc = s.acc))
    ∧ (∀ (a : Area) (i : Fin 18) (v : W32), i.val = a.bitNo →
      (v.toNat = s.odGet a.seq → ∃ t, exec (.errStatusClear i v) s = .next t ∧ t.odGet a.status = 0
        ∧ t.odBit kEventSummary a.bitNo = false ∧ (∀ k, k ≠ a.status → k ≠ kEventSummary → t.odGet k = s.odGet k)
        ∧ t.mgmt.answer = (0, []))
      ∧ (v.toNat ≠ s.odGet a.seq → ∃ t, exec (.errStatusClear i v) s = .next t ∧ t.od = s.od ∧ t.mgmt.answer = (8, [])))
    ∧ (s.mgmt.holdoff = none → exec .eventIrqHoldoff s = .next s)
    ∧ ∀ k, s.mgmt.holdoff = some k →
      (s.g < k + s.odGet kEventIrqHoldoff → exec .eventIrqHoldoff s = .next s)
      ∧ (k + s.odGet kEventIrqHoldoff ≤ s.g →
        (s.mgmt.again = false ∨ s.odBit kEventIrq 15 = false → ∃ t, exec .eventIrqHoldoff s = .next t ∧ t.mgmt.holdoff = none
          ∧ t.od = s.od ∧ t.outbox = s.outbox ∧ t.bridge = s.bridge)
        ∧ (s.mgmt.again = true → s.odBit kEventIrq 15 = true → ∃ t, exec .eventIrqHoldoff s = .next t ∧ t.mgmt.holdoff = some s.g
          ∧ t.mgmt.again = false ∧ t.od = s.od
          ∧ (s.isBridge = false → ∃ q, t.outbox = s.outbox ++ [q] ∧ q.opcode = 6 ∧ q.addr = kMsixRaise
              ∧ q.payload = leBytes 2 (s.odBits kEventIrq 10 0))))

/-- The I3C target (R369, R370): addresses are assigned once and go with RSTDAA; the codes that set the target's registers set
them, with lengths of at most 256; the codes that get them answer with their value. Byte layouts are those of the public
standards that the manual names (log entry 14). -/
def Obligations.ManagementTarget : Prop :=
  ∀ s : State, s.runPins = true →
    let sets := fun (i : Instr) (x : I3c) => exec i s = .next { s with i3c := x }
    let gives := fun (i : Instr) (bs : List Byte) => s.i3c.dyn.isSome = true → sets i { s.i3c with lastOut := bs }
    let control := fun (i : Instr) (bs : List Byte) => sets i { s.i3c with mctpOut := s.i3c.mctpOut ++ [bs] }
    sets .rstdaa { s.i3c with dyn := none }
    ∧ (s.i3c.dyn = none → (∀ v, sets (.entdaa v) { s.i3c with dyn := some v.toNat } ∧ sets (.setdasa v) { s.i3c with dyn := some v.toNat })
        ∧ sets .setaasa { s.i3c with dyn := some s.staticAddr })
    ∧ (s.i3c.dyn ≠ none → (∀ v, exec (.entdaa v) s = .next s ∧ exec (.setdasa v) s = .next s) ∧ exec .setaasa s = .next s)
    ∧ (∀ v : Byte, sets (.enec v) { s.i3c with ibiEnabled := s.i3c.ibiEnabled || bit v.toNat 0 }
        ∧ sets (.disec v) { s.i3c with ibiEnabled := s.i3c.ibiEnabled && !bit v.toNat 0 }
        ∧ sets (.rstact v) { s.i3c with lastOut := if v = 0 then [0] else [] })
    ∧ (∀ v : BitVec 16, sets (.setmwl v) { s.i3c with mwl := min 256 v.toNat } ∧ sets (.setmrl v) { s.i3c with mrl := min 256 v.toNat })
    ∧ gives .getmwl (beBytes 2 s.i3c.mwl) ∧ gives .getmrl (beBytes 2 s.i3c.mrl ++ [5]) ∧ gives .getpid (beBytes 6 (s.odGet kI3cPid))
    ∧ gives .getbcr [0x06] ∧ gives .getdcr [0x00] ∧ gives .getmxds [0x00, 0x00]
    ∧ (s.i3c.dyn.isSome = true → ∃ t, exec .getstatus s = .next t ∧ t.i3c.lastOut.length = 2 ∧ t.od = s.od ∧ SameTiers s t)
    ∧ (∀ e : Byte, e ≠ 0x00 → e ≠ 0xFF → ∃ t, exec (.setEndpointId e) s = .next t ∧ t.odGet kMctpEid = e.toNat
        ∧ t.i3c.mctpOut = s.i3c.mctpOut ++ [[0x01, 0x00, 0x00, e, 0x00]])
    ∧ control .getEndpointId ([0x02, 0x00] ++ leBytes 1 (s.odGet kMctpEid) ++ [0x00, 0x00])
    ∧ control .getMctpVersionSupport ([0x04, 0x00] ++ Config.mctpVersions)
    ∧ control .getMessageTypeSupport [0x05, 0x00, 0x01, 0x7F]
    ∧ control .getVendorDefinedMsgSupport ([0x06, 0x00, 0xFF, 0x01] ++ beBytes 4 (s.odGet kIanaPen) ++ Config.mctpVendorVersion)

/-- Pins and rails: SYNC_OUT is driven at each multiple of 2^20 by an organ master; HEARTBEAT toggles at each multiple of 2^19 while
the watchdogs run; a DUMP cycle sends the identity frame first; a reading is shown, and the first one outside its rail's range is
recorded; a loop-back of the bridge runs only with no context loaded, and a failing one fences it (R390, R391, R394, R398). -/
def Obligations.PinsAndRails : Prop :=
  ∀ s : State,
    (s.runPins = true →
      (s.odGet kSyncRole ≠ 0 → s.g % 2 ^ 20 = 0 → ∃ t, exec .syncOutPulse s = .next t ∧ t.pins = { s.pins with syncEdge := s.g }
        ∧ t.od = s.od ∧ SameTiers s t)
      ∧ (s.fw.missed = false → s.g % 2 ^ 19 = 0 → s.pins.beat ≠ some s.g → ∃ t, exec .heartbeat s = .next t
        ∧ t.pins = { s.pins with heartbeat := !s.pins.heartbeat, beat := some s.g } ∧ t.od = s.od ∧ SameTiers s t)
      ∧ (s.fw.missed = true → exec .heartbeat s = .next s))
    ∧ (s.odGet kSyncRole = 0 ∨ s.g % 2 ^ 20 ≠ 0 → exec .syncOutPulse s = .next s)
    ∧ (s.odGet kPhase = 3 → s.pins.change = none → ∀ bad, ∃ t bs, exec (.dumpCycle bad) s = .next t
        ∧ t.pins.dumpOut = dumpFrame 1 (if s.pins.shortDump then 2 else 0) s.pins.dumpCycle s.pins.dumpSeq s.identityFrame ++ bs
        ∧ t.pins.dumpCycle = (s.pins.dumpCycle + 1) % 2 ^ 16 ∧ t.od = s.od ∧ SameTiers s t)
    ∧ (s.odGet kPhase ≠ 3 → ∀ bad, exec (.dumpCycle bad) s = .next s)
    ∧ (s.live = true → ∀ mv : Nat, mv < 2 ^ 16 →
      (s.railOut 0 mv = false → ∃ t, exec (.railRead [mv]) s = .next t ∧ t.odGet (kRailMv 0) = mv ∧ t.blot = s.blot
        ∧ t.pins.railsOut = s.pins.railsOut.filter (fun x => x != 0) ∧ t.ctx = s.ctx ∧ SameTiers s t)
      ∧ (s.railOut 0 mv = true → s.pins.railsOut.contains 0 = true → ∃ t, exec (.railRead [mv]) s = .next t
        ∧ t.odGet (kRailMv 0) = mv ∧ t.blot = s.blot)
      ∧ (s.railOut 0 mv = true → s.pins.railsOut.contains 0 = false → s.blot.staging.length < 64 →
        s.odGet kRailExcursions + 1 < counterMax kRailExcursions →
        ∃ t q, exec (.railRead [mv]) s = .next t ∧ t.odGet (kRailMv 0) = mv ∧ t.blot.staging = s.blot.staging ++ [q] ∧ q.cls = 5
          ∧ q.rail = 0 ∧ q.volt = mv ∧ t.odGet kRailExcursions = s.odGet kRailExcursions + 1 ∧ t.ctx = s.ctx))
    ∧ (∀ v : W32, s.odBit kD2dLoopbackCtrl 30 = false → bit v.toNat 31 = true →
      (s.allFree = true → 1 ≤ v.toNat % 4 → v.toNat % 4 ≤ 2 → ∃ t, exec (.d2dLoopback v) s = .next t
        ∧ t.odBit kD2dLoopbackCtrl 30 = true ∧ t.ctx = s.ctx ∧ SameTiers s t)
      ∧ (s.allFree = false → ∃ t, exec (.d2dLoopback v) s = .next t ∧ t.odBit kD2dLoopbackCtrl 30 = false ∧ t.ctx = s.ctx
        ∧ t.mgmt.answer = (7, [])))
    ∧ (s.odBit kD2dLoopbackCtrl 30 = true →
      (∃ t, exec (.d2dLoopbackDone 0) s = .next t ∧ t.odBit kD2dLoopbackCtrl 30 = false ∧ t.odGet kD2dLoopbackErrors = 0
        ∧ t.unitFences = s.unitFences)
      ∧ ∀ n, n ≠ 0 → ∃ t, exec (.d2dLoopbackDone n) s = .next t ∧ t.odBit kD2dLoopbackCtrl 30 = false
        ∧ unitId 10 (s.odBits kD2dLoopbackCtrl 8 8) ∈ t.unitFences)
    ∧ (s.odBit kD2dLoopbackCtrl 30 = false → ∀ n, exec (.d2dLoopbackDone n) s = .next s)

/-! ### Monitors -/

/-- Monitor entries: a write of the configuration resets the entry's state; the step of a drydown counts the steps in a row
whose tile status records are all zero and starts again with one that is not; a discarded step returns the states it changed
(R185, R187, R188). -/
def Obligations.MonitorsCountAndReset : Prop :=
  ∀ s : State,
    (∀ (e : Fin 4096) (v : W64), ∃ t, exec (.monCfg e v) s = .next t ∧ t.odGet (kMonCfg e) = v.toNat ∧ t.odGet (kMonState e) = 0
      ∧ (∀ k, k ≠ kMonCfg e → k ≠ kMonState e → t.odGet k = s.odGet k) ∧ t.ctx = s.ctx ∧ t.acc = s.acc ∧ SameTiers s t)
    ∧ (∀ (c : Fin 256) (e : Fin 4096), (s.noseAt e c).seen = true → (s.noseAt e c).records ≠ 0 → bits (s.odGet (kMonCfg e)) 3 2 = 1 →
      ((s.noseAt e c).notZero = false → s.mon e 47 32 + 1 < 65535 → (s.noseStep c e).mon e 47 32 = s.mon e 47 32 + 1)
      ∧ ((s.noseAt e c).notZero = true → (s.noseStep c e).mon e 47 32 = 0))
    ∧ ∀ (c : Fin 256) (e : Fin 4096) (v : Nat) (b : Bool) (g : Fin 16), s.live = true → (s.ctxAt c).st = .running →
      (s.ctxAt c).inStep = true → (s.ctxAt c).revert = false → (s.ctxAt c).snap.nose = [(e.val, v)] →
      ∃ t, exec (.stop c b g) s = .next t ∧ t.odGet (kMonState e) = v ∧ t.noseEntries c = []

/-! ### The whole machine -/

/-- The invariant of the machine holds after reset. -/
def Obligations.InvariantAtReset : Prop := State.reset.inv

/-- Every step keeps the invariant of the machine: the memories stay in their canonical form, the blotter's staging queue and
the list of remembered aborts stay within their 64 entries (R212, R294). -/
def Obligations.InvariantKept : Prop := ∀ s t : State, s.inv → step s = .next t → t.inv
end

