-- ==== Sys2Proof/Laws/SMap.lean ====
section
/-!
SUPPORT. Laws of sparse maps and byte memory: a read after a write to the same place gives the value written, a write leaves
every other place alone, and every operation keeps the canonical form.
-/
namespace Sys2Proof.Machine

variable {α : Type}

/-! ### Reading after an operation -/

@[simp] theorem SMap.get_nil (d : Nat → α) (k : Nat) : SMap.get d [] k = d k := rfl

theorem SMap.get_cons (d : Nat → α) (i : Nat) (v : α) (r : SMap α) (k : Nat) :
    SMap.get d ((i, v) :: r) k = if i = k then v else SMap.get d r k := rfl

theorem SMap.get_erase_same (d : Nat → α) (m : SMap α) (k : Nat) : SMap.get d (SMap.erase k m) k = d k := by
  induction m with
  | nil => rfl
  | cons e r ih =>
    obtain ⟨i, v⟩ := e
    by_cases h : i = k <;> simp [SMap.erase, SMap.get_cons, h, ih]

theorem SMap.get_erase_ne (d : Nat → α) (m : SMap α) {k j : Nat} (h : j ≠ k) :
    SMap.get d (SMap.erase k m) j = SMap.get d m j := by
  induction m with
  | nil => rfl
  | cons e r ih =>
    obtain ⟨i, v⟩ := e
    by_cases hi : i = k
    · subst hi; simp [SMap.erase, SMap.get_cons, ih, Ne.symm h]
    · simp [SMap.erase, SMap.get_cons, hi, ih]

theorem SMap.get_insert_ne (d : Nat → α) (m : SMap α) {k j : Nat} (v : α) (h : j ≠ k) :
    SMap.get d (SMap.insert k v m) j = SMap.get d m j := by
  induction m with
  | nil => simp [SMap.insert, SMap.get_cons, Ne.symm h]
  | cons e r ih =>
    obtain ⟨i, x⟩ := e
    by_cases hi : k < i <;> simp [SMap.insert, SMap.get_cons, hi, ih, Ne.symm h]

theorem SMap.get_insert_erase (d : Nat → α) (m : SMap α) (k : Nat) (v : α) :
    SMap.get d (SMap.insert k v (SMap.erase k m)) k = v := by
  induction m with
  | nil => simp [SMap.insert, SMap.erase, SMap.get_cons]
  | cons e r ih =>
    obtain ⟨i, x⟩ := e
    by_cases hi : i = k
    · simpa [SMap.erase, hi] using ih
    · by_cases hl : k < i <;> simp [SMap.erase, SMap.insert, SMap.get_cons, hi, hl, ih]

/-- A read after a write to the same key gives the value written. -/
@[simp] theorem SMap.get_set_same [DecidableEq α] (d : Nat → α) (m : SMap α) (k : Nat) (v : α) :
    SMap.get d (SMap.set d m k v) k = v := by
  unfold SMap.set
  split
  · rename_i h; rw [SMap.get_erase_same, h]
  · exact SMap.get_insert_erase d m k v

/-- A write leaves every other key alone. -/
theorem SMap.get_set_ne [DecidableEq α] (d : Nat → α) (m : SMap α) {k j : Nat} (v : α) (h : j ≠ k) :
    SMap.get d (SMap.set d m k v) j = SMap.get d m j := by
  unfold SMap.set
  split
  · exact SMap.get_erase_ne d m h
  · rw [SMap.get_insert_ne d _ v h, SMap.get_erase_ne d m h]

theorem SMap.get_set [DecidableEq α] (d : Nat → α) (m : SMap α) (k j : Nat) (v : α) :
    SMap.get d (SMap.set d m k v) j = if j = k then v else SMap.get d m j := by
  split
  · rename_i h; subst h; exact SMap.get_set_same d m j v
  · exact SMap.get_set_ne d m v ‹_›

/-- A write of a list of values leaves every key outside its range alone. -/
theorem SMap.get_setList_out [DecidableEq α] (d : Nat → α) (vs : List α) (m : SMap α) (k j : Nat)
    (h : j < k ∨ k + vs.length ≤ j) : SMap.get d (SMap.setList d m k vs) j = SMap.get d m j := by
  induction vs generalizing m k with
  | nil => rfl
  | cons v r ih =>
    simp only [List.length_cons] at h
    rw [SMap.setList, ih _ _ (by omega), SMap.get_set_ne d m v (by omega)]

/-- A read inside the range of a write of a list gives the value written there. -/
theorem SMap.get_setList_in [DecidableEq α] (d : Nat → α) (vs : List α) (m : SMap α) (k i : Nat) (h : i < vs.length) :
    SMap.get d (SMap.setList d m k vs) (k + i) = vs[i] := by
  induction vs generalizing m k i with
  | nil => simp at h
  | cons v r ih =>
    cases i with
    | zero => rw [SMap.setList, SMap.get_setList_out d r _ _ _ (by omega)]; simp
    | succ i =>
      have := ih (SMap.set d m k v) (k + 1) i (by simpa using h)
      rw [SMap.setList, show k + (i + 1) = k + 1 + i by omega, this]; simp

theorem SMap.getList_congr (d : Nat → α) (m m' : SMap α) (n k : Nat)
    (h : ∀ j, k ≤ j → j < k + n → SMap.get d m j = SMap.get d m' j) : SMap.getList d m k n = SMap.getList d m' k n := by
  induction n generalizing k with
  | zero => rfl
  | succ n ih =>
    simp only [SMap.getList]
    rw [h k (Nat.le_refl k) (by omega), ih (k + 1) (fun j h1 h2 => h j (by omega) (by omega))]

/-- A read of the range that a list was written to gives the list. -/
theorem SMap.getList_setList [DecidableEq α] (d : Nat → α) (vs : List α) (m : SMap α) (k : Nat) :
    SMap.getList d (SMap.setList d m k vs) k vs.length = vs := by
  induction vs generalizing m k with
  | nil => rfl
  | cons v r ih =>
    simp only [SMap.setList, List.length_cons, SMap.getList]
    rw [ih, SMap.get_setList_out d r _ _ _ (by omega), SMap.get_set_same]

theorem SMap.get_clearRange (d : Nat → α) (m : SMap α) (lo n j : Nat) :
    SMap.get d (SMap.clearRange m lo n) j = if lo ≤ j ∧ j < lo + n then d j else SMap.get d m j := by
  induction m with
  | nil => simp [SMap.clearRange]
  | cons e r ih =>
    obtain ⟨i, v⟩ := e
    by_cases hi : lo ≤ i ∧ i < lo + n
    · rw [show SMap.clearRange ((i, v) :: r) lo n = SMap.clearRange r lo n by simp [SMap.clearRange, hi], ih, SMap.get_cons]
      by_cases hj : i = j
      · subst hj; simp [hi]
      · simp [hj]
    · rw [show SMap.clearRange ((i, v) :: r) lo n = (i, v) :: SMap.clearRange r lo n by
        simp only [SMap.clearRange, List.filter_cons]; simp [hi], SMap.get_cons, SMap.get_cons, ih]
      by_cases hj : i = j
      · subst hj; simp [hi]
      · simp [hj]

/-! ### The canonical form -/

/-- Every key of a map is above `lo`, the keys rise strictly and no value is the default. -/
def SMap.wfFrom [DecidableEq α] (d : Nat → α) : Nat → SMap α → Prop
  | _, [] => True
  | lo, (i, v) :: r => lo ≤ i ∧ v ≠ d i ∧ SMap.wfFrom d (i + 1) r

theorem SMap.wfFrom_mono [DecidableEq α] (d : Nat → α) {a b : Nat} (m : SMap α) (h : a ≤ b) (w : SMap.wfFrom d b m) :
    SMap.wfFrom d a m := by
  cases m with
  | nil => trivial
  | cons e r => obtain ⟨i, v⟩ := e; exact ⟨Nat.le_trans h w.1, w.2⟩

theorem SMap.wf_iff_from [DecidableEq α] (d : Nat → α) (m : SMap α) : SMap.wf d m = true ↔ SMap.wfFrom d 0 m := by
  have aux : ∀ (r : SMap α) (i : Nat) (v : α) (lo : Nat), lo ≤ i →
      (SMap.wf d ((i, v) :: r) = true ↔ SMap.wfFrom d lo ((i, v) :: r)) := by
    intro r
    induction r with
    | nil => intro i v lo h; simp [SMap.wf, SMap.wfFrom, h]
    | cons e r ih =>
      intro i v lo h
      obtain ⟨j, w⟩ := e
      by_cases hij : i < j
      · have := ih j w (i + 1) hij
        simp only [SMap.wf, Bool.and_eq_true, decide_eq_true_eq, this]
        simp only [SMap.wfFrom]
        exact ⟨fun q => ⟨h, q.1.1, q.2⟩, fun q => ⟨⟨q.2.1, hij⟩, q.2.2⟩⟩
      · simp only [SMap.wf, Bool.and_eq_true, decide_eq_true_eq, SMap.wfFrom]
        omega
  cases m with
  | nil => simp [SMap.wf, SMap.wfFrom]
  | cons e r => obtain ⟨i, v⟩ := e; exact aux r i v 0 (Nat.zero_le _)

theorem SMap.wfFrom_erase [DecidableEq α] (d : Nat → α) (k : Nat) (m : SMap α) {lo : Nat} (w : SMap.wfFrom d lo m) :
    SMap.wfFrom d lo (SMap.erase k m) := by
  induction m generalizing lo with
  | nil => trivial
  | cons e r ih =>
    obtain ⟨i, v⟩ := e
    by_cases h : i = k
    · simp only [SMap.erase, h, if_true]
      exact SMap.wfFrom_mono d _ (by have := w.1; omega) (ih w.2.2)
    · simp only [SMap.erase, h, if_false]
      exact ⟨w.1, w.2.1, ih w.2.2⟩

theorem SMap.wfFrom_insert [DecidableEq α] (d : Nat → α) (k : Nat) (v : α) (m : SMap α) {lo : Nat} (hl : lo ≤ k)
    (hv : v ≠ d k) (hk : ∀ e ∈ m, e.1 ≠ k) (w : SMap.wfFrom d lo m) : SMap.wfFrom d lo (SMap.insert k v m) := by
  induction m generalizing lo with
  | nil => exact ⟨hl, hv, trivial⟩
  | cons e r ih =>
    obtain ⟨i, x⟩ := e
    by_cases h : k < i
    · simp only [SMap.insert, h, if_true]
      exact ⟨hl, hv, h, w.2.1, w.2.2⟩
    · simp only [SMap.insert, h, if_false]
      have hne : i ≠ k := hk (i, x) List.mem_cons_self
      exact ⟨w.1, w.2.1, ih (by omega) (fun e he => hk e (List.mem_cons_of_mem _ he)) w.2.2⟩

theorem SMap.erase_no_key (k : Nat) (m : SMap α) : ∀ e ∈ SMap.erase k m, e.1 ≠ k := by
  induction m with
  | nil => intro e he; simp [SMap.erase] at he
  | cons a r ih =>
    obtain ⟨i, v⟩ := a
    intro e he
    by_cases h : i = k
    · simp only [SMap.erase, h, if_true] at he; exact ih e he
    · simp only [SMap.erase, h, if_false, List.mem_cons] at he
      rcases he with rfl | he
      · exact h
      · exact ih e he

/-- A write keeps the canonical form. -/
theorem SMap.wf_set [DecidableEq α] (d : Nat → α) (m : SMap α) (k : Nat) (v : α) (w : SMap.wf d m = true) :
    SMap.wf d (SMap.set d m k v) = true := by
  rw [SMap.wf_iff_from] at *
  unfold SMap.set
  split
  · exact SMap.wfFrom_erase d k m w
  · exact SMap.wfFrom_insert d k v _ (Nat.zero_le _) ‹_› (SMap.erase_no_key k m) (SMap.wfFrom_erase d k m w)

/-- A write of a list keeps the canonical form. -/
theorem SMap.wf_setList [DecidableEq α] (d : Nat → α) (vs : List α) (m : SMap α) (k : Nat) (w : SMap.wf d m = true) :
    SMap.wf d (SMap.setList d m k vs) = true := by
  induction vs generalizing m k with
  | nil => exact w
  | cons v r ih => exact ih _ _ (SMap.wf_set d m k v w)

theorem SMap.wfFrom_filter [DecidableEq α] (d : Nat → α) (p : Nat × α → Bool) (m : SMap α) {lo : Nat}
    (w : SMap.wfFrom d lo m) : SMap.wfFrom d lo (m.filter p) := by
  induction m generalizing lo with
  | nil => trivial
  | cons e r ih =>
    obtain ⟨i, v⟩ := e
    by_cases h : p (i, v) = true
    · simp only [List.filter_cons, h, if_true]; exact ⟨w.1, w.2.1, ih w.2.2⟩
    · simp only [List.filter_cons, h]
      exact SMap.wfFrom_mono d _ (by have := w.1; omega) (ih w.2.2)

/-- Clearing a range keeps the canonical form. -/
theorem SMap.wf_clearRange [DecidableEq α] (d : Nat → α) (m : SMap α) (lo n : Nat) (w : SMap.wf d m = true) :
    SMap.wf d (SMap.clearRange m lo n) = true := by
  rw [SMap.wf_iff_from] at *
  exact SMap.wfFrom_filter d _ m w

/-! ### Byte memory -/

@[simp] theorem Memory.read_write_same (m : Memory) (a : Nat) (b : Byte) : (m.write a b).read a = b :=
  SMap.get_set_same _ _ _ _
theorem Memory.read_write_ne (m : Memory) {a c : Nat} (b : Byte) (h : c ≠ a) : (m.write a b).read c = m.read c :=
  SMap.get_set_ne _ _ _ h
theorem Memory.read_writeN_out (m : Memory) (a c : Nat) (bs : List Byte) (h : c < a ∨ a + bs.length ≤ c) :
    (m.writeN a bs).read c = m.read c := SMap.get_setList_out _ _ _ _ _ h
theorem Memory.read_writeN_in (m : Memory) (a i : Nat) (bs : List Byte) (h : i < bs.length) :
    (m.writeN a bs).read (a + i) = bs[i] := SMap.get_setList_in _ _ _ _ _ h
@[simp] theorem Memory.readN_writeN (m : Memory) (a : Nat) (bs : List Byte) : (m.writeN a bs).readN a bs.length = bs :=
  SMap.getList_setList _ _ _ _
theorem Memory.readN_writeN_out (m : Memory) (a c n : Nat) (bs : List Byte) (h : c + n ≤ a ∨ a + bs.length ≤ c) :
    (m.writeN a bs).readN c n = m.readN c n :=
  SMap.getList_congr _ _ _ _ _ fun j h1 h2 => SMap.get_setList_out _ _ _ _ _ (by omega)
/-- A write of one byte keeps the canonical form. -/
theorem Memory.wf_write (m : Memory) (a : Nat) (b : Byte) (w : m.wf = true) : (m.write a b).wf = true :=
  SMap.wf_set _ _ _ _ w
/-- A write of bytes keeps the canonical form. -/
theorem Memory.wf_writeN (m : Memory) (a : Nat) (bs : List Byte) (w : m.wf = true) : (m.writeN a bs).wf = true :=
  SMap.wf_setList _ _ _ _ w
theorem Memory.wf_writeLE (m : Memory) (a n v : Nat) (w : m.wf = true) : (m.writeLE a n v).wf = true :=
  Memory.wf_writeN _ _ _ w
/-- Clearing a range keeps the canonical form. -/
theorem Memory.wf_clearRange (m : Memory) (lo n : Nat) (w : m.wf = true) : Memory.wf (SMap.clearRange m lo n) = true :=
  SMap.wf_clearRange _ _ _ _ w
/-- `leBytes n` gives `n` bytes. -/
@[simp] theorem length_leBytes (n v : Nat) : (leBytes n v).length = n := by
  induction n generalizing v with
  | zero => rfl
  | succ n ih => simp [leBytes, ih]
/-- Empty memory is canonical. -/
theorem Memory.wf_nil : Memory.wf [] = true := rfl

end Sys2Proof.Machine
end

