-- ==== Sys2Proof/Laws/State.lean ====
section
/-!
SUPPORT. Projections of `State` through the plain updates, each true by definition: a field that an update does not change
reads as before, and so does what is read from such a field.
-/
namespace Sys2Proof.Machine.State

variable (s : Machine.State)

/-! ### odSet -/

@[simp] theorem odSet_pending (k v : Nat) : (s.odSet k v).pending = s.pending := rfl
@[simp] theorem odSet_free (k v : Nat) : (s.odSet k v).free = s.free := rfl
@[simp] theorem odSet_seqs (k v : Nat) : (s.odSet k v).seqs = s.seqs := rfl
@[simp] theorem odSet_time (k v : Nat) : (s.odSet k v).time = s.time := rfl
@[simp] theorem odSet_blot (k v : Nat) : (s.odSet k v).blot = s.blot := rfl
@[simp] theorem odSet_windows (k v : Nat) : (s.odSet k v).windows = s.windows := rfl
@[simp] theorem odSet_recQ (k v : Nat) : (s.odSet k v).recQ = s.recQ := rfl
@[simp] theorem odSet_unitFences (k v : Nat) : (s.odSet k v).unitFences = s.unitFences := rfl
@[simp] theorem odSet_granFences (k v : Nat) : (s.odSet k v).granFences = s.granFences := rfl
@[simp] theorem odSet_granHist (k v : Nat) : (s.odSet k v).granHist = s.granHist := rfl
@[simp] theorem odSet_unitHist (k v : Nat) : (s.odSet k v).unitHist = s.unitHist := rfl
@[simp] theorem odSet_ceWin (k v : Nat) : (s.odSet k v).ceWin = s.ceWin := rfl
@[simp] theorem odSet_heart (k v : Nat) : (s.odSet k v).heart = s.heart := rfl
@[simp] theorem odSet_base (k v : Nat) : (s.odSet k v).base = s.base := rfl
@[simp] theorem odSet_heartValid (k v : Nat) : (s.odSet k v).heartValid = s.heartValid := rfl
@[simp] theorem odSet_baseValid (k v : Nat) : (s.odSet k v).baseValid = s.baseValid := rfl
@[simp] theorem odSet_fills (k v : Nat) : (s.odSet k v).fills = s.fills := rfl
@[simp] theorem odSet_scrubL (k v : Nat) : (s.odSet k v).scrubL = s.scrubL := rfl
@[simp] theorem odSet_scrubPend (k v : Nat) : (s.odSet k v).scrubPend = s.scrubPend := rfl
@[simp] theorem odSet_wback (k v : Nat) : (s.odSet k v).wback = s.wback := rfl
@[simp] theorem odSet_chipGrants (k v : Nat) : (s.odSet k v).chipGrants = s.chipGrants := rfl
@[simp] theorem odSet_acc (k v : Nat) : (s.odSet k v).acc = s.acc := rfl
@[simp] theorem odSet_codec (k v : Nat) : (s.odSet k v).codec = s.codec := rfl
@[simp] theorem odSet_guard (k v : Nat) : (s.odSet k v).guard = s.guard := rfl
@[simp] theorem odSet_ctx (k v : Nat) : (s.odSet k v).ctx = s.ctx := rfl
@[simp] theorem odSet_cache (k v : Nat) : (s.odSet k v).cache = s.cache := rfl
@[simp] theorem odSet_marks (k v : Nat) : (s.odSet k v).marks = s.marks := rfl
@[simp] theorem odSet_heldCompl (k v : Nat) : (s.odSet k v).heldCompl = s.heldCompl := rfl
@[simp] theorem odSet_noseIn (k v : Nat) : (s.odSet k v).noseIn = s.noseIn := rfl
@[simp] theorem odSet_ports (k v : Nat) : (s.odSet k v).ports = s.ports := rfl
@[simp] theorem odSet_flows (k v : Nat) : (s.odSet k v).flows = s.flows := rfl
@[simp] theorem odSet_flowCache (k v : Nat) : (s.odSet k v).flowCache = s.flowCache := rfl
@[simp] theorem odSet_outbox (k v : Nat) : (s.odSet k v).outbox = s.outbox := rfl
@[simp] theorem odSet_inbox (k v : Nat) : (s.odSet k v).inbox = s.inbox := rfl
@[simp] theorem odSet_unacked (k v : Nat) : (s.odSet k v).unacked = s.unacked := rfl
@[simp] theorem odSet_bridge (k v : Nat) : (s.odSet k v).bridge = s.bridge := rfl
@[simp] theorem odSet_i3c (k v : Nat) : (s.odSet k v).i3c = s.i3c := rfl
@[simp] theorem odSet_mgmt (k v : Nat) : (s.odSet k v).mgmt = s.mgmt := rfl
@[simp] theorem odSet_wsets (k v : Nat) : (s.odSet k v).wsets = s.wsets := rfl
@[simp] theorem odSet_sec (k v : Nat) : (s.odSet k v).sec = s.sec := rfl
@[simp] theorem odSet_fw (k v : Nat) : (s.odSet k v).fw = s.fw := rfl
@[simp] theorem odSet_pins (k v : Nat) : (s.odSet k v).pins = s.pins := rfl
@[simp] theorem odSet_jobs (k v : Nat) : (s.odSet k v).jobs = s.jobs := rfl
@[simp] theorem odSet_g (k v : Nat) : (s.odSet k v).g = s.g := rfl
@[simp] theorem odSet_ctxAt (k v : Nat) (c1 : Nat) : (s.odSet k v).ctxAt c1 = s.ctxAt c1 := rfl
@[simp] theorem odSet_guardAt (k v : Nat) (p1 : Nat) : (s.odSet k v).guardAt p1 = s.guardAt p1 := rfl
@[simp] theorem odSet_accAt (k v : Nat) (a1 : Nat) : (s.odSet k v).accAt a1 = s.accAt a1 := rfl
@[simp] theorem odSet_wsAt (k v : Nat) (n1 : Nat) : (s.odSet k v).wsAt n1 = s.wsAt n1 := rfl
@[simp] theorem odSet_portAt (k v : Nat) (p1 : Nat) : (s.odSet k v).portAt p1 = s.portAt p1 := rfl
@[simp] theorem odSet_flowAt (k v : Nat) (a1 : Nat) : (s.odSet k v).flowAt a1 = s.flowAt a1 := rfl

/-! ### odSetBits -/

@[simp] theorem odSetBits_pending (k hi lo v : Nat) : (s.odSetBits k hi lo v).pending = s.pending := rfl
@[simp] theorem odSetBits_free (k hi lo v : Nat) : (s.odSetBits k hi lo v).free = s.free := rfl
@[simp] theorem odSetBits_seqs (k hi lo v : Nat) : (s.odSetBits k hi lo v).seqs = s.seqs := rfl
@[simp] theorem odSetBits_time (k hi lo v : Nat) : (s.odSetBits k hi lo v).time = s.time := rfl
@[simp] theorem odSetBits_blot (k hi lo v : Nat) : (s.odSetBits k hi lo v).blot = s.blot := rfl
@[simp] theorem odSetBits_windows (k hi lo v : Nat) : (s.odSetBits k hi lo v).windows = s.windows := rfl
@[simp] theorem odSetBits_recQ (k hi lo v : Nat) : (s.odSetBits k hi lo v).recQ = s.recQ := rfl
@[simp] theorem odSetBits_unitFences (k hi lo v : Nat) : (s.odSetBits k hi lo v).unitFences = s.unitFences := rfl
@[simp] theorem odSetBits_granFences (k hi lo v : Nat) : (s.odSetBits k hi lo v).granFences = s.granFences := rfl
@[simp] theorem odSetBits_granHist (k hi lo v : Nat) : (s.odSetBits k hi lo v).granHist = s.granHist := rfl
@[simp] theorem odSetBits_unitHist (k hi lo v : Nat) : (s.odSetBits k hi lo v).unitHist = s.unitHist := rfl
@[simp] theorem odSetBits_ceWin (k hi lo v : Nat) : (s.odSetBits k hi lo v).ceWin = s.ceWin := rfl
@[simp] theorem odSetBits_heart (k hi lo v : Nat) : (s.odSetBits k hi lo v).heart = s.heart := rfl
@[simp] theorem odSetBits_base (k hi lo v : Nat) : (s.odSetBits k hi lo v).base = s.base := rfl
@[simp] theorem odSetBits_heartValid (k hi lo v : Nat) : (s.odSetBits k hi lo v).heartValid = s.heartValid := rfl
@[simp] theorem odSetBits_baseValid (k hi lo v : Nat) : (s.odSetBits k hi lo v).baseValid = s.baseValid := rfl
@[simp] theorem odSetBits_fills (k hi lo v : Nat) : (s.odSetBits k hi lo v).fills = s.fills := rfl
@[simp] theorem odSetBits_scrubL (k hi lo v : Nat) : (s.odSetBits k hi lo v).scrubL = s.scrubL := rfl
@[simp] theorem odSetBits_scrubPend (k hi lo v : Nat) : (s.odSetBits k hi lo v).scrubPend = s.scrubPend := rfl
@[simp] theorem odSetBits_wback (k hi lo v : Nat) : (s.odSetBits k hi lo v).wback = s.wback := rfl
@[simp] theorem odSetBits_chipGrants (k hi lo v : Nat) : (s.odSetBits k hi lo v).chipGrants = s.chipGrants := rfl
@[simp] theorem odSetBits_acc (k hi lo v : Nat) : (s.odSetBits k hi lo v).acc = s.acc := rfl
@[simp] theorem odSetBits_codec (k hi lo v : Nat) : (s.odSetBits k hi lo v).codec = s.codec := rfl
@[simp] theorem odSetBits_guard (k hi lo v : Nat) : (s.odSetBits k hi lo v).guard = s.guard := rfl
@[simp] theorem odSetBits_ctx (k hi lo v : Nat) : (s.odSetBits k hi lo v).ctx = s.ctx := rfl
@[simp] theorem odSetBits_cache (k hi lo v : Nat) : (s.odSetBits k hi lo v).cache = s.cache := rfl
@[simp] theorem odSetBits_marks (k hi lo v : Nat) : (s.odSetBits k hi lo v).marks = s.marks := rfl
@[simp] theorem odSetBits_heldCompl (k hi lo v : Nat) : (s.odSetBits k hi lo v).heldCompl = s.heldCompl := rfl
@[simp] theorem odSetBits_noseIn (k hi lo v : Nat) : (s.odSetBits k hi lo v).noseIn = s.noseIn := rfl
@[simp] theorem odSetBits_ports (k hi lo v : Nat) : (s.odSetBits k hi lo v).ports = s.ports := rfl
@[simp] theorem odSetBits_flows (k hi lo v : Nat) : (s.odSetBits k hi lo v).flows = s.flows := rfl
@[simp] theorem odSetBits_flowCache (k hi lo v : Nat) : (s.odSetBits k hi lo v).flowCache = s.flowCache := rfl
@[simp] theorem odSetBits_outbox (k hi lo v : Nat) : (s.odSetBits k hi lo v).outbox = s.outbox := rfl
@[simp] theorem odSetBits_inbox (k hi lo v : Nat) : (s.odSetBits k hi lo v).inbox = s.inbox := rfl
@[simp] theorem odSetBits_unacked (k hi lo v : Nat) : (s.odSetBits k hi lo v).unacked = s.unacked := rfl
@[simp] theorem odSetBits_bridge (k hi lo v : Nat) : (s.odSetBits k hi lo v).bridge = s.bridge := rfl
@[simp] theorem odSetBits_i3c (k hi lo v : Nat) : (s.odSetBits k hi lo v).i3c = s.i3c := rfl
@[simp] theorem odSetBits_mgmt (k hi lo v : Nat) : (s.odSetBits k hi lo v).mgmt = s.mgmt := rfl
@[simp] theorem odSetBits_wsets (k hi lo v : Nat) : (s.odSetBits k hi lo v).wsets = s.wsets := rfl
@[simp] theorem odSetBits_sec (k hi lo v : Nat) : (s.odSetBits k hi lo v).sec = s.sec := rfl
@[simp] theorem odSetBits_fw (k hi lo v : Nat) : (s.odSetBits k hi lo v).fw = s.fw := rfl
@[simp] theorem odSetBits_pins (k hi lo v : Nat) : (s.odSetBits k hi lo v).pins = s.pins := rfl
@[simp] theorem odSetBits_jobs (k hi lo v : Nat) : (s.odSetBits k hi lo v).jobs = s.jobs := rfl
@[simp] theorem odSetBits_g (k hi lo v : Nat) : (s.odSetBits k hi lo v).g = s.g := rfl
@[simp] theorem odSetBits_ctxAt (k hi lo v : Nat) (c1 : Nat) : (s.odSetBits k hi lo v).ctxAt c1 = s.ctxAt c1 := rfl
@[simp] theorem odSetBits_guardAt (k hi lo v : Nat) (p1 : Nat) : (s.odSetBits k hi lo v).guardAt p1 = s.guardAt p1 := rfl
@[simp] theorem odSetBits_accAt (k hi lo v : Nat) (a1 : Nat) : (s.odSetBits k hi lo v).accAt a1 = s.accAt a1 := rfl
@[simp] theorem odSetBits_wsAt (k hi lo v : Nat) (n1 : Nat) : (s.odSetBits k hi lo v).wsAt n1 = s.wsAt n1 := rfl
@[simp] theorem odSetBits_portAt (k hi lo v : Nat) (p1 : Nat) : (s.odSetBits k hi lo v).portAt p1 = s.portAt p1 := rfl
@[simp] theorem odSetBits_flowAt (k hi lo v : Nat) (a1 : Nat) : (s.odSetBits k hi lo v).flowAt a1 = s.flowAt a1 := rfl

/-! ### odSetBit -/

@[simp] theorem odSetBit_pending (k n : Nat) (b : Bool) : (s.odSetBit k n b).pending = s.pending := rfl
@[simp] theorem odSetBit_free (k n : Nat) (b : Bool) : (s.odSetBit k n b).free = s.free := rfl
@[simp] theorem odSetBit_seqs (k n : Nat) (b : Bool) : (s.odSetBit k n b).seqs = s.seqs := rfl
@[simp] theorem odSetBit_time (k n : Nat) (b : Bool) : (s.odSetBit k n b).time = s.time := rfl
@[simp] theorem odSetBit_blot (k n : Nat) (b : Bool) : (s.odSetBit k n b).blot = s.blot := rfl
@[simp] theorem odSetBit_windows (k n : Nat) (b : Bool) : (s.odSetBit k n b).windows = s.windows := rfl
@[simp] theorem odSetBit_recQ (k n : Nat) (b : Bool) : (s.odSetBit k n b).recQ = s.recQ := rfl
@[simp] theorem odSetBit_unitFences (k n : Nat) (b : Bool) : (s.odSetBit k n b).unitFences = s.unitFences := rfl
@[simp] theorem odSetBit_granFences (k n : Nat) (b : Bool) : (s.odSetBit k n b).granFences = s.granFences := rfl
@[simp] theorem odSetBit_granHist (k n : Nat) (b : Bool) : (s.odSetBit k n b).granHist = s.granHist := rfl
@[simp] theorem odSetBit_unitHist (k n : Nat) (b : Bool) : (s.odSetBit k n b).unitHist = s.unitHist := rfl
@[simp] theorem odSetBit_ceWin (k n : Nat) (b : Bool) : (s.odSetBit k n b).ceWin = s.ceWin := rfl
@[simp] theorem odSetBit_heart (k n : Nat) (b : Bool) : (s.odSetBit k n b).heart = s.heart := rfl
@[simp] theorem odSetBit_base (k n : Nat) (b : Bool) : (s.odSetBit k n b).base = s.base := rfl
@[simp] theorem odSetBit_heartValid (k n : Nat) (b : Bool) : (s.odSetBit k n b).heartValid = s.heartValid := rfl
@[simp] theorem odSetBit_baseValid (k n : Nat) (b : Bool) : (s.odSetBit k n b).baseValid = s.baseValid := rfl
@[simp] theorem odSetBit_fills (k n : Nat) (b : Bool) : (s.odSetBit k n b).fills = s.fills := rfl
@[simp] theorem odSetBit_scrubL (k n : Nat) (b : Bool) : (s.odSetBit k n b).scrubL = s.scrubL := rfl
@[simp] theorem odSetBit_scrubPend (k n : Nat) (b : Bool) : (s.odSetBit k n b).scrubPend = s.scrubPend := rfl
@[simp] theorem odSetBit_wback (k n : Nat) (b : Bool) : (s.odSetBit k n b).wback = s.wback := rfl
@[simp] theorem odSetBit_chipGrants (k n : Nat) (b : Bool) : (s.odSetBit k n b).chipGrants = s.chipGrants := rfl
@[simp] theorem odSetBit_acc (k n : Nat) (b : Bool) : (s.odSetBit k n b).acc = s.acc := rfl
@[simp] theorem odSetBit_codec (k n : Nat) (b : Bool) : (s.odSetBit k n b).codec = s.codec := rfl
@[simp] theorem odSetBit_guard (k n : Nat) (b : Bool) : (s.odSetBit k n b).guard = s.guard := rfl
@[simp] theorem odSetBit_ctx (k n : Nat) (b : Bool) : (s.odSetBit k n b).ctx = s.ctx := rfl
@[simp] theorem odSetBit_cache (k n : Nat) (b : Bool) : (s.odSetBit k n b).cache = s.cache := rfl
@[simp] theorem odSetBit_marks (k n : Nat) (b : Bool) : (s.odSetBit k n b).marks = s.marks := rfl
@[simp] theorem odSetBit_heldCompl (k n : Nat) (b : Bool) : (s.odSetBit k n b).heldCompl = s.heldCompl := rfl
@[simp] theorem odSetBit_noseIn (k n : Nat) (b : Bool) : (s.odSetBit k n b).noseIn = s.noseIn := rfl
@[simp] theorem odSetBit_ports (k n : Nat) (b : Bool) : (s.odSetBit k n b).ports = s.ports := rfl
@[simp] theorem odSetBit_flows (k n : Nat) (b : Bool) : (s.odSetBit k n b).flows = s.flows := rfl
@[simp] theorem odSetBit_flowCache (k n : Nat) (b : Bool) : (s.odSetBit k n b).flowCache = s.flowCache := rfl
@[simp] theorem odSetBit_outbox (k n : Nat) (b : Bool) : (s.odSetBit k n b).outbox = s.outbox := rfl
@[simp] theorem odSetBit_inbox (k n : Nat) (b : Bool) : (s.odSetBit k n b).inbox = s.inbox := rfl
@[simp] theorem odSetBit_unacked (k n : Nat) (b : Bool) : (s.odSetBit k n b).unacked = s.unacked := rfl
@[simp] theorem odSetBit_bridge (k n : Nat) (b : Bool) : (s.odSetBit k n b).bridge = s.bridge := rfl
@[simp] theorem odSetBit_i3c (k n : Nat) (b : Bool) : (s.odSetBit k n b).i3c = s.i3c := rfl
@[simp] theorem odSetBit_mgmt (k n : Nat) (b : Bool) : (s.odSetBit k n b).mgmt = s.mgmt := rfl
@[simp] theorem odSetBit_wsets (k n : Nat) (b : Bool) : (s.odSetBit k n b).wsets = s.wsets := rfl
@[simp] theorem odSetBit_sec (k n : Nat) (b : Bool) : (s.odSetBit k n b).sec = s.sec := rfl
@[simp] theorem odSetBit_fw (k n : Nat) (b : Bool) : (s.odSetBit k n b).fw = s.fw := rfl
@[simp] theorem odSetBit_pins (k n : Nat) (b : Bool) : (s.odSetBit k n b).pins = s.pins := rfl
@[simp] theorem odSetBit_jobs (k n : Nat) (b : Bool) : (s.odSetBit k n b).jobs = s.jobs := rfl
@[simp] theorem odSetBit_g (k n : Nat) (b : Bool) : (s.odSetBit k n b).g = s.g := rfl
@[simp] theorem odSetBit_ctxAt (k n : Nat) (b : Bool) (c1 : Nat) : (s.odSetBit k n b).ctxAt c1 = s.ctxAt c1 := rfl
@[simp] theorem odSetBit_guardAt (k n : Nat) (b : Bool) (p1 : Nat) : (s.odSetBit k n b).guardAt p1 = s.guardAt p1 := rfl
@[simp] theorem odSetBit_accAt (k n : Nat) (b : Bool) (a1 : Nat) : (s.odSetBit k n b).accAt a1 = s.accAt a1 := rfl
@[simp] theorem odSetBit_wsAt (k n : Nat) (b : Bool) (n1 : Nat) : (s.odSetBit k n b).wsAt n1 = s.wsAt n1 := rfl
@[simp] theorem odSetBit_portAt (k n : Nat) (b : Bool) (p1 : Nat) : (s.odSetBit k n b).portAt p1 = s.portAt p1 := rfl
@[simp] theorem odSetBit_flowAt (k n : Nat) (b : Bool) (a1 : Nat) : (s.odSetBit k n b).flowAt a1 = s.flowAt a1 := rfl

/-! ### skipFree -/

@[simp] theorem skipFree_pending (n : Nat) : (s.skipFree n).pending = s.pending := rfl
@[simp] theorem skipFree_od (n : Nat) : (s.skipFree n).od = s.od := rfl
@[simp] theorem skipFree_seqs (n : Nat) : (s.skipFree n).seqs = s.seqs := rfl
@[simp] theorem skipFree_time (n : Nat) : (s.skipFree n).time = s.time := rfl
@[simp] theorem skipFree_blot (n : Nat) : (s.skipFree n).blot = s.blot := rfl
@[simp] theorem skipFree_windows (n : Nat) : (s.skipFree n).windows = s.windows := rfl
@[simp] theorem skipFree_recQ (n : Nat) : (s.skipFree n).recQ = s.recQ := rfl
@[simp] theorem skipFree_unitFences (n : Nat) : (s.skipFree n).unitFences = s.unitFences := rfl
@[simp] theorem skipFree_granFences (n : Nat) : (s.skipFree n).granFences = s.granFences := rfl
@[simp] theorem skipFree_granHist (n : Nat) : (s.skipFree n).granHist = s.granHist := rfl
@[simp] theorem skipFree_unitHist (n : Nat) : (s.skipFree n).unitHist = s.unitHist := rfl
@[simp] theorem skipFree_ceWin (n : Nat) : (s.skipFree n).ceWin = s.ceWin := rfl
@[simp] theorem skipFree_heart (n : Nat) : (s.skipFree n).heart = s.heart := rfl
@[simp] theorem skipFree_base (n : Nat) : (s.skipFree n).base = s.base := rfl
@[simp] theorem skipFree_heartValid (n : Nat) : (s.skipFree n).heartValid = s.heartValid := rfl
@[simp] theorem skipFree_baseValid (n : Nat) : (s.skipFree n).baseValid = s.baseValid := rfl
@[simp] theorem skipFree_fills (n : Nat) : (s.skipFree n).fills = s.fills := rfl
@[simp] theorem skipFree_scrubL (n : Nat) : (s.skipFree n).scrubL = s.scrubL := rfl
@[simp] theorem skipFree_scrubPend (n : Nat) : (s.skipFree n).scrubPend = s.scrubPend := rfl
@[simp] theorem skipFree_wback (n : Nat) : (s.skipFree n).wback = s.wback := rfl
@[simp] theorem skipFree_chipGrants (n : Nat) : (s.skipFree n).chipGrants = s.chipGrants := rfl
@[simp] theorem skipFree_acc (n : Nat) : (s.skipFree n).acc = s.acc := rfl
@[simp] theorem skipFree_codec (n : Nat) : (s.skipFree n).codec = s.codec := rfl
@[simp] theorem skipFree_guard (n : Nat) : (s.skipFree n).guard = s.guard := rfl
@[simp] theorem skipFree_ctx (n : Nat) : (s.skipFree n).ctx = s.ctx := rfl
@[simp] theorem skipFree_cache (n : Nat) : (s.skipFree n).cache = s.cache := rfl
@[simp] theorem skipFree_marks (n : Nat) : (s.skipFree n).marks = s.marks := rfl
@[simp] theorem skipFree_heldCompl (n : Nat) : (s.skipFree n).heldCompl = s.heldCompl := rfl
@[simp] theorem skipFree_noseIn (n : Nat) : (s.skipFree n).noseIn = s.noseIn := rfl
@[simp] theorem skipFree_ports (n : Nat) : (s.skipFree n).ports = s.ports := rfl
@[simp] theorem skipFree_flows (n : Nat) : (s.skipFree n).flows = s.flows := rfl
@[simp] theorem skipFree_flowCache (n : Nat) : (s.skipFree n).flowCache = s.flowCache := rfl
@[simp] theorem skipFree_outbox (n : Nat) : (s.skipFree n).outbox = s.outbox := rfl
@[simp] theorem skipFree_inbox (n : Nat) : (s.skipFree n).inbox = s.inbox := rfl
@[simp] theorem skipFree_unacked (n : Nat) : (s.skipFree n).unacked = s.unacked := rfl
@[simp] theorem skipFree_bridge (n : Nat) : (s.skipFree n).bridge = s.bridge := rfl
@[simp] theorem skipFree_i3c (n : Nat) : (s.skipFree n).i3c = s.i3c := rfl
@[simp] theorem skipFree_mgmt (n : Nat) : (s.skipFree n).mgmt = s.mgmt := rfl
@[simp] theorem skipFree_wsets (n : Nat) : (s.skipFree n).wsets = s.wsets := rfl
@[simp] theorem skipFree_sec (n : Nat) : (s.skipFree n).sec = s.sec := rfl
@[simp] theorem skipFree_fw (n : Nat) : (s.skipFree n).fw = s.fw := rfl
@[simp] theorem skipFree_pins (n : Nat) : (s.skipFree n).pins = s.pins := rfl
@[simp] theorem skipFree_jobs (n : Nat) : (s.skipFree n).jobs = s.jobs := rfl
@[simp] theorem skipFree_odGet (n : Nat) (k1 : Nat) : (s.skipFree n).odGet k1 = s.odGet k1 := rfl
@[simp] theorem skipFree_odBits (n : Nat) (k1 h1 l1 : Nat) : (s.skipFree n).odBits k1 h1 l1 = s.odBits k1 h1 l1 := rfl
@[simp] theorem skipFree_odBit (n : Nat) (k1 b1 : Nat) : (s.skipFree n).odBit k1 b1 = s.odBit k1 b1 := rfl
@[simp] theorem skipFree_g (n : Nat) : (s.skipFree n).g = s.g := rfl
@[simp] theorem skipFree_ctxAt (n : Nat) (c1 : Nat) : (s.skipFree n).ctxAt c1 = s.ctxAt c1 := rfl
@[simp] theorem skipFree_guardAt (n : Nat) (p1 : Nat) : (s.skipFree n).guardAt p1 = s.guardAt p1 := rfl
@[simp] theorem skipFree_accAt (n : Nat) (a1 : Nat) : (s.skipFree n).accAt a1 = s.accAt a1 := rfl
@[simp] theorem skipFree_live (n : Nat) : (s.skipFree n).live = s.live := rfl
@[simp] theorem skipFree_hasAccord (n : Nat) (a1 : Nat) : (s.skipFree n).hasAccord a1 = s.hasAccord a1 := rfl
@[simp] theorem skipFree_isBridge (n : Nat) : (s.skipFree n).isBridge = s.isBridge := rfl
@[simp] theorem skipFree_wsAt (n : Nat) (n1 : Nat) : (s.skipFree n).wsAt n1 = s.wsAt n1 := rfl
@[simp] theorem skipFree_portAt (n : Nat) (p1 : Nat) : (s.skipFree n).portAt p1 = s.portAt p1 := rfl
@[simp] theorem skipFree_runPins (n : Nat) : (s.skipFree n).runPins = s.runPins := rfl
@[simp] theorem skipFree_stepOf (n : Nat) (c1 : Nat) : (s.skipFree n).stepOf c1 = s.stepOf c1 := rfl
@[simp] theorem skipFree_flowAt (n : Nat) (a1 : Nat) : (s.skipFree n).flowAt a1 = s.flowAt a1 := rfl

/-! ### setCtx -/

@[simp] theorem setCtx_pending (c : Nat) (x : Ctx) : (s.setCtx c x).pending = s.pending := rfl
@[simp] theorem setCtx_free (c : Nat) (x : Ctx) : (s.setCtx c x).free = s.free := rfl
@[simp] theorem setCtx_od (c : Nat) (x : Ctx) : (s.setCtx c x).od = s.od := rfl
@[simp] theorem setCtx_seqs (c : Nat) (x : Ctx) : (s.setCtx c x).seqs = s.seqs := rfl
@[simp] theorem setCtx_time (c : Nat) (x : Ctx) : (s.setCtx c x).time = s.time := rfl
@[simp] theorem setCtx_blot (c : Nat) (x : Ctx) : (s.setCtx c x).blot = s.blot := rfl
@[simp] theorem setCtx_windows (c : Nat) (x : Ctx) : (s.setCtx c x).windows = s.windows := rfl
@[simp] theorem setCtx_recQ (c : Nat) (x : Ctx) : (s.setCtx c x).recQ = s.recQ := rfl
@[simp] theorem setCtx_unitFences (c : Nat) (x : Ctx) : (s.setCtx c x).unitFences = s.unitFences := rfl
@[simp] theorem setCtx_granFences (c : Nat) (x : Ctx) : (s.setCtx c x).granFences = s.granFences := rfl
@[simp] theorem setCtx_granHist (c : Nat) (x : Ctx) : (s.setCtx c x).granHist = s.granHist := rfl
@[simp] theorem setCtx_unitHist (c : Nat) (x : Ctx) : (s.setCtx c x).unitHist = s.unitHist := rfl
@[simp] theorem setCtx_ceWin (c : Nat) (x : Ctx) : (s.setCtx c x).ceWin = s.ceWin := rfl
@[simp] theorem setCtx_heart (c : Nat) (x : Ctx) : (s.setCtx c x).heart = s.heart := rfl
@[simp] theorem setCtx_base (c : Nat) (x : Ctx) : (s.setCtx c x).base = s.base := rfl
@[simp] theorem setCtx_heartValid (c : Nat) (x : Ctx) : (s.setCtx c x).heartValid = s.heartValid := rfl
@[simp] theorem setCtx_baseValid (c : Nat) (x : Ctx) : (s.setCtx c x).baseValid = s.baseValid := rfl
@[simp] theorem setCtx_fills (c : Nat) (x : Ctx) : (s.setCtx c x).fills = s.fills := rfl
@[simp] theorem setCtx_scrubL (c : Nat) (x : Ctx) : (s.setCtx c x).scrubL = s.scrubL := rfl
@[simp] theorem setCtx_scrubPend (c : Nat) (x : Ctx) : (s.setCtx c x).scrubPend = s.scrubPend := rfl
@[simp] theorem setCtx_wback (c : Nat) (x : Ctx) : (s.setCtx c x).wback = s.wback := rfl
@[simp] theorem setCtx_chipGrants (c : Nat) (x : Ctx) : (s.setCtx c x).chipGrants = s.chipGrants := rfl
@[simp] theorem setCtx_acc (c : Nat) (x : Ctx) : (s.setCtx c x).acc = s.acc := rfl
@[simp] theorem setCtx_codec (c : Nat) (x : Ctx) : (s.setCtx c x).codec = s.codec := rfl
@[simp] theorem setCtx_guard (c : Nat) (x : Ctx) : (s.setCtx c x).guard = s.guard := rfl
@[simp] theorem setCtx_cache (c : Nat) (x : Ctx) : (s.setCtx c x).cache = s.cache := rfl
@[simp] theorem setCtx_marks (c : Nat) (x : Ctx) : (s.setCtx c x).marks = s.marks := rfl
@[simp] theorem setCtx_heldCompl (c : Nat) (x : Ctx) : (s.setCtx c x).heldCompl = s.heldCompl := rfl
@[simp] theorem setCtx_noseIn (c : Nat) (x : Ctx) : (s.setCtx c x).noseIn = s.noseIn := rfl
@[simp] theorem setCtx_ports (c : Nat) (x : Ctx) : (s.setCtx c x).ports = s.ports := rfl
@[simp] theorem setCtx_flows (c : Nat) (x : Ctx) : (s.setCtx c x).flows = s.flows := rfl
@[simp] theorem setCtx_flowCache (c : Nat) (x : Ctx) : (s.setCtx c x).flowCache = s.flowCache := rfl
@[simp] theorem setCtx_outbox (c : Nat) (x : Ctx) : (s.setCtx c x).outbox = s.outbox := rfl
@[simp] theorem setCtx_inbox (c : Nat) (x : Ctx) : (s.setCtx c x).inbox = s.inbox := rfl
@[simp] theorem setCtx_unacked (c : Nat) (x : Ctx) : (s.setCtx c x).unacked = s.unacked := rfl
@[simp] theorem setCtx_bridge (c : Nat) (x : Ctx) : (s.setCtx c x).bridge = s.bridge := rfl
@[simp] theorem setCtx_i3c (c : Nat) (x : Ctx) : (s.setCtx c x).i3c = s.i3c := rfl
@[simp] theorem setCtx_mgmt (c : Nat) (x : Ctx) : (s.setCtx c x).mgmt = s.mgmt := rfl
@[simp] theorem setCtx_wsets (c : Nat) (x : Ctx) : (s.setCtx c x).wsets = s.wsets := rfl
@[simp] theorem setCtx_sec (c : Nat) (x : Ctx) : (s.setCtx c x).sec = s.sec := rfl
@[simp] theorem setCtx_fw (c : Nat) (x : Ctx) : (s.setCtx c x).fw = s.fw := rfl
@[simp] theorem setCtx_pins (c : Nat) (x : Ctx) : (s.setCtx c x).pins = s.pins := rfl
@[simp] theorem setCtx_jobs (c : Nat) (x : Ctx) : (s.setCtx c x).jobs = s.jobs := rfl
@[simp] theorem setCtx_odGet (c : Nat) (x : Ctx) (k1 : Nat) : (s.setCtx c x).odGet k1 = s.odGet k1 := rfl
@[simp] theorem setCtx_odBits (c : Nat) (x : Ctx) (k1 h1 l1 : Nat) : (s.setCtx c x).odBits k1 h1 l1 = s.odBits k1 h1 l1 := rfl
@[simp] theorem setCtx_odBit (c : Nat) (x : Ctx) (k1 b1 : Nat) : (s.setCtx c x).odBit k1 b1 = s.odBit k1 b1 := rfl
@[simp] theorem setCtx_g (c : Nat) (x : Ctx) : (s.setCtx c x).g = s.g := rfl
@[simp] theorem setCtx_guardAt (c : Nat) (x : Ctx) (p1 : Nat) : (s.setCtx c x).guardAt p1 = s.guardAt p1 := rfl
@[simp] theorem setCtx_accAt (c : Nat) (x : Ctx) (a1 : Nat) : (s.setCtx c x).accAt a1 = s.accAt a1 := rfl
@[simp] theorem setCtx_live (c : Nat) (x : Ctx) : (s.setCtx c x).live = s.live := rfl
@[simp] theorem setCtx_hasAccord (c : Nat) (x : Ctx) (a1 : Nat) : (s.setCtx c x).hasAccord a1 = s.hasAccord a1 := rfl
@[simp] theorem setCtx_isBridge (c : Nat) (x : Ctx) : (s.setCtx c x).isBridge = s.isBridge := rfl
@[simp] theorem setCtx_wsAt (c : Nat) (x : Ctx) (n1 : Nat) : (s.setCtx c x).wsAt n1 = s.wsAt n1 := rfl
@[simp] theorem setCtx_portAt (c : Nat) (x : Ctx) (p1 : Nat) : (s.setCtx c x).portAt p1 = s.portAt p1 := rfl
@[simp] theorem setCtx_runPins (c : Nat) (x : Ctx) : (s.setCtx c x).runPins = s.runPins := rfl
@[simp] theorem setCtx_stepOf (c : Nat) (x : Ctx) (c1 : Nat) : (s.setCtx c x).stepOf c1 = s.stepOf c1 := rfl
@[simp] theorem setCtx_flowAt (c : Nat) (x : Ctx) (a1 : Nat) : (s.setCtx c x).flowAt a1 = s.flowAt a1 := rfl

/-! ### modCtx -/

@[simp] theorem modCtx_pending (c : Nat) (f : Ctx → Ctx) : (s.modCtx c f).pending = s.pending := rfl
@[simp] theorem modCtx_free (c : Nat) (f : Ctx → Ctx) : (s.modCtx c f).free = s.free := rfl
@[simp] theorem modCtx_od (c : Nat) (f : Ctx → Ctx) : (s.modCtx c f).od = s.od := rfl
@[simp] theorem modCtx_seqs (c : Nat) (f : Ctx → Ctx) : (s.modCtx c f).seqs = s.seqs := rfl
@[simp] theorem modCtx_time (c : Nat) (f : Ctx → Ctx) : (s.modCtx c f).time = s.time := rfl
@[simp] theorem modCtx_blot (c : Nat) (f : Ctx → Ctx) : (s.modCtx c f).blot = s.blot := rfl
@[simp] theorem modCtx_windows (c : Nat) (f : Ctx → Ctx) : (s.modCtx c f).windows = s.windows := rfl
@[simp] theorem modCtx_recQ (c : Nat) (f : Ctx → Ctx) : (s.modCtx c f).recQ = s.recQ := rfl
@[simp] theorem modCtx_unitFences (c : Nat) (f : Ctx → Ctx) : (s.modCtx c f).unitFences = s.unitFences := rfl
@[simp] theorem modCtx_granFences (c : Nat) (f : Ctx → Ctx) : (s.modCtx c f).granFences = s.granFences := rfl
@[simp] theorem modCtx_granHist (c : Nat) (f : Ctx → Ctx) : (s.modCtx c f).granHist = s.granHist := rfl
@[simp] theorem modCtx_unitHist (c : Nat) (f : Ctx → Ctx) : (s.modCtx c f).unitHist = s.unitHist := rfl
@[simp] theorem modCtx_ceWin (c : Nat) (f : Ctx → Ctx) : (s.modCtx c f).ceWin = s.ceWin := rfl
@[simp] theorem modCtx_heart (c : Nat) (f : Ctx → Ctx) : (s.modCtx c f).heart = s.heart := rfl
@[simp] theorem modCtx_base (c : Nat) (f : Ctx → Ctx) : (s.modCtx c f).base = s.base := rfl
@[simp] theorem modCtx_heartValid (c : Nat) (f : Ctx → Ctx) : (s.modCtx c f).heartValid = s.heartValid := rfl
@[simp] theorem modCtx_baseValid (c : Nat) (f : Ctx → Ctx) : (s.modCtx c f).baseValid = s.baseValid := rfl
@[simp] theorem modCtx_fills (c : Nat) (f : Ctx → Ctx) : (s.modCtx c f).fills = s.fills := rfl
@[simp] theorem modCtx_scrubL (c : Nat) (f : Ctx → Ctx) : (s.modCtx c f).scrubL = s.scrubL := rfl
@[simp] theorem modCtx_scrubPend (c : Nat) (f : Ctx → Ctx) : (s.modCtx c f).scrubPend = s.scrubPend := rfl
@[simp] theorem modCtx_wback (c : Nat) (f : Ctx → Ctx) : (s.modCtx c f).wback = s.wback := rfl
@[simp] theorem modCtx_chipGrants (c : Nat) (f : Ctx → Ctx) : (s.modCtx c f).chipGrants = s.chipGrants := rfl
@[simp] theorem modCtx_acc (c : Nat) (f : Ctx → Ctx) : (s.modCtx c f).acc = s.acc := rfl
@[simp] theorem modCtx_codec (c : Nat) (f : Ctx → Ctx) : (s.modCtx c f).codec = s.codec := rfl
@[simp] theorem modCtx_guard (c : Nat) (f : Ctx → Ctx) : (s.modCtx c f).guard = s.guard := rfl
@[simp] theorem modCtx_cache (c : Nat) (f : Ctx → Ctx) : (s.modCtx c f).cache = s.cache := rfl
@[simp] theorem modCtx_marks (c : Nat) (f : Ctx → Ctx) : (s.modCtx c f).marks = s.marks := rfl
@[simp] theorem modCtx_heldCompl (c : Nat) (f : Ctx → Ctx) : (s.modCtx c f).heldCompl = s.heldCompl := rfl
@[simp] theorem modCtx_noseIn (c : Nat) (f : Ctx → Ctx) : (s.modCtx c f).noseIn = s.noseIn := rfl
@[simp] theorem modCtx_ports (c : Nat) (f : Ctx → Ctx) : (s.modCtx c f).ports = s.ports := rfl
@[simp] theorem modCtx_flows (c : Nat) (f : Ctx → Ctx) : (s.modCtx c f).flows = s.flows := rfl
@[simp] theorem modCtx_flowCache (c : Nat) (f : Ctx → Ctx) : (s.modCtx c f).flowCache = s.flowCache := rfl
@[simp] theorem modCtx_outbox (c : Nat) (f : Ctx → Ctx) : (s.modCtx c f).outbox = s.outbox := rfl
@[simp] theorem modCtx_inbox (c : Nat) (f : Ctx → Ctx) : (s.modCtx c f).inbox = s.inbox := rfl
@[simp] theorem modCtx_unacked (c : Nat) (f : Ctx → Ctx) : (s.modCtx c f).unacked = s.unacked := rfl
@[simp] theorem modCtx_bridge (c : Nat) (f : Ctx → Ctx) : (s.modCtx c f).bridge = s.bridge := rfl
@[simp] theorem modCtx_i3c (c : Nat) (f : Ctx → Ctx) : (s.modCtx c f).i3c = s.i3c := rfl
@[simp] theorem modCtx_mgmt (c : Nat) (f : Ctx → Ctx) : (s.modCtx c f).mgmt = s.mgmt := rfl
@[simp] theorem modCtx_wsets (c : Nat) (f : Ctx → Ctx) : (s.modCtx c f).wsets = s.wsets := rfl
@[simp] theorem modCtx_sec (c : Nat) (f : Ctx → Ctx) : (s.modCtx c f).sec = s.sec := rfl
@[simp] theorem modCtx_fw (c : Nat) (f : Ctx → Ctx) : (s.modCtx c f).fw = s.fw := rfl
@[simp] theorem modCtx_pins (c : Nat) (f : Ctx → Ctx) : (s.modCtx c f).pins = s.pins := rfl
@[simp] theorem modCtx_jobs (c : Nat) (f : Ctx → Ctx) : (s.modCtx c f).jobs = s.jobs := rfl
@[simp] theorem modCtx_odGet (c : Nat) (f : Ctx → Ctx) (k1 : Nat) : (s.modCtx c f).odGet k1 = s.odGet k1 := rfl
@[simp] theorem modCtx_odBits (c : Nat) (f : Ctx → Ctx) (k1 h1 l1 : Nat) : (s.modCtx c f).odBits k1 h1 l1 = s.odBits k1 h1 l1 := rfl
@[simp] theorem modCtx_odBit (c : Nat) (f : Ctx → Ctx) (k1 b1 : Nat) : (s.modCtx c f).odBit k1 b1 = s.odBit k1 b1 := rfl
@[simp] theorem modCtx_g (c : Nat) (f : Ctx → Ctx) : (s.modCtx c f).g = s.g := rfl
@[simp] theorem modCtx_guardAt (c : Nat) (f : Ctx → Ctx) (p1 : Nat) : (s.modCtx c f).guardAt p1 = s.guardAt p1 := rfl
@[simp] theorem modCtx_accAt (c : Nat) (f : Ctx → Ctx) (a1 : Nat) : (s.modCtx c f).accAt a1 = s.accAt a1 := rfl
@[simp] theorem modCtx_live (c : Nat) (f : Ctx → Ctx) : (s.modCtx c f).live = s.live := rfl
@[simp] theorem modCtx_hasAccord (c : Nat) (f : Ctx → Ctx) (a1 : Nat) : (s.modCtx c f).hasAccord a1 = s.hasAccord a1 := rfl
@[simp] theorem modCtx_isBridge (c : Nat) (f : Ctx → Ctx) : (s.modCtx c f).isBridge = s.isBridge := rfl
@[simp] theorem modCtx_wsAt (c : Nat) (f : Ctx → Ctx) (n1 : Nat) : (s.modCtx c f).wsAt n1 = s.wsAt n1 := rfl
@[simp] theorem modCtx_portAt (c : Nat) (f : Ctx → Ctx) (p1 : Nat) : (s.modCtx c f).portAt p1 = s.portAt p1 := rfl
@[simp] theorem modCtx_runPins (c : Nat) (f : Ctx → Ctx) : (s.modCtx c f).runPins = s.runPins := rfl
@[simp] theorem modCtx_stepOf (c : Nat) (f : Ctx → Ctx) (c1 : Nat) : (s.modCtx c f).stepOf c1 = s.stepOf c1 := rfl
@[simp] theorem modCtx_flowAt (c : Nat) (f : Ctx → Ctx) (a1 : Nat) : (s.modCtx c f).flowAt a1 = s.flowAt a1 := rfl

/-! ### setGuard -/

@[simp] theorem setGuard_pending (p : Nat) (x : Guard) : (s.setGuard p x).pending = s.pending := rfl
@[simp] theorem setGuard_free (p : Nat) (x : Guard) : (s.setGuard p x).free = s.free := rfl
@[simp] theorem setGuard_od (p : Nat) (x : Guard) : (s.setGuard p x).od = s.od := rfl
@[simp] theorem setGuard_seqs (p : Nat) (x : Guard) : (s.setGuard p x).seqs = s.seqs := rfl
@[simp] theorem setGuard_time (p : Nat) (x : Guard) : (s.setGuard p x).time = s.time := rfl
@[simp] theorem setGuard_blot (p : Nat) (x : Guard) : (s.setGuard p x).blot = s.blot := rfl
@[simp] theorem setGuard_windows (p : Nat) (x : Guard) : (s.setGuard p x).windows = s.windows := rfl
@[simp] theorem setGuard_recQ (p : Nat) (x : Guard) : (s.setGuard p x).recQ = s.recQ := rfl
@[simp] theorem setGuard_unitFences (p : Nat) (x : Guard) : (s.setGuard p x).unitFences = s.unitFences := rfl
@[simp] theorem setGuard_granFences (p : Nat) (x : Guard) : (s.setGuard p x).granFences = s.granFences := rfl
@[simp] theorem setGuard_granHist (p : Nat) (x : Guard) : (s.setGuard p x).granHist = s.granHist := rfl
@[simp] theorem setGuard_unitHist (p : Nat) (x : Guard) : (s.setGuard p x).unitHist = s.unitHist := rfl
@[simp] theorem setGuard_ceWin (p : Nat) (x : Guard) : (s.setGuard p x).ceWin = s.ceWin := rfl
@[simp] theorem setGuard_heart (p : Nat) (x : Guard) : (s.setGuard p x).heart = s.heart := rfl
@[simp] theorem setGuard_base (p : Nat) (x : Guard) : (s.setGuard p x).base = s.base := rfl
@[simp] theorem setGuard_heartValid (p : Nat) (x : Guard) : (s.setGuard p x).heartValid = s.heartValid := rfl
@[simp] theorem setGuard_baseValid (p : Nat) (x : Guard) : (s.setGuard p x).baseValid = s.baseValid := rfl
@[simp] theorem setGuard_fills (p : Nat) (x : Guard) : (s.setGuard p x).fills = s.fills := rfl
@[simp] theorem setGuard_scrubL (p : Nat) (x : Guard) : (s.setGuard p x).scrubL = s.scrubL := rfl
@[simp] theorem setGuard_scrubPend (p : Nat) (x : Guard) : (s.setGuard p x).scrubPend = s.scrubPend := rfl
@[simp] theorem setGuard_wback (p : Nat) (x : Guard) : (s.setGuard p x).wback = s.wback := rfl
@[simp] theorem setGuard_chipGrants (p : Nat) (x : Guard) : (s.setGuard p x).chipGrants = s.chipGrants := rfl
@[simp] theorem setGuard_acc (p : Nat) (x : Guard) : (s.setGuard p x).acc = s.acc := rfl
@[simp] theorem setGuard_codec (p : Nat) (x : Guard) : (s.setGuard p x).codec = s.codec := rfl
@[simp] theorem setGuard_ctx (p : Nat) (x : Guard) : (s.setGuard p x).ctx = s.ctx := rfl
@[simp] theorem setGuard_cache (p : Nat) (x : Guard) : (s.setGuard p x).cache = s.cache := rfl
@[simp] theorem setGuard_marks (p : Nat) (x : Guard) : (s.setGuard p x).marks = s.marks := rfl
@[simp] theorem setGuard_heldCompl (p : Nat) (x : Guard) : (s.setGuard p x).heldCompl = s.heldCompl := rfl
@[simp] theorem setGuard_noseIn (p : Nat) (x : Guard) : (s.setGuard p x).noseIn = s.noseIn := rfl
@[simp] theorem setGuard_ports (p : Nat) (x : Guard) : (s.setGuard p x).ports = s.ports := rfl
@[simp] theorem setGuard_flows (p : Nat) (x : Guard) : (s.setGuard p x).flows = s.flows := rfl
@[simp] theorem setGuard_flowCache (p : Nat) (x : Guard) : (s.setGuard p x).flowCache = s.flowCache := rfl
@[simp] theorem setGuard_outbox (p : Nat) (x : Guard) : (s.setGuard p x).outbox = s.outbox := rfl
@[simp] theorem setGuard_inbox (p : Nat) (x : Guard) : (s.setGuard p x).inbox = s.inbox := rfl
@[simp] theorem setGuard_unacked (p : Nat) (x : Guard) : (s.setGuard p x).unacked = s.unacked := rfl
@[simp] theorem setGuard_bridge (p : Nat) (x : Guard) : (s.setGuard p x).bridge = s.bridge := rfl
@[simp] theorem setGuard_i3c (p : Nat) (x : Guard) : (s.setGuard p x).i3c = s.i3c := rfl
@[simp] theorem setGuard_mgmt (p : Nat) (x : Guard) : (s.setGuard p x).mgmt = s.mgmt := rfl
@[simp] theorem setGuard_wsets (p : Nat) (x : Guard) : (s.setGuard p x).wsets = s.wsets := rfl
@[simp] theorem setGuard_sec (p : Nat) (x : Guard) : (s.setGuard p x).sec = s.sec := rfl
@[simp] theorem setGuard_fw (p : Nat) (x : Guard) : (s.setGuard p x).fw = s.fw := rfl
@[simp] theorem setGuard_pins (p : Nat) (x : Guard) : (s.setGuard p x).pins = s.pins := rfl
@[simp] theorem setGuard_jobs (p : Nat) (x : Guard) : (s.setGuard p x).jobs = s.jobs := rfl
@[simp] theorem setGuard_odGet (p : Nat) (x : Guard) (k1 : Nat) : (s.setGuard p x).odGet k1 = s.odGet k1 := rfl
@[simp] theorem setGuard_odBits (p : Nat) (x : Guard) (k1 h1 l1 : Nat) : (s.setGuard p x).odBits k1 h1 l1 = s.odBits k1 h1 l1 := rfl
@[simp] theorem setGuard_odBit (p : Nat) (x : Guard) (k1 b1 : Nat) : (s.setGuard p x).odBit k1 b1 = s.odBit k1 b1 := rfl
@[simp] theorem setGuard_g (p : Nat) (x : Guard) : (s.setGuard p x).g = s.g := rfl
@[simp] theorem setGuard_ctxAt (p : Nat) (x : Guard) (c1 : Nat) : (s.setGuard p x).ctxAt c1 = s.ctxAt c1 := rfl
@[simp] theorem setGuard_accAt (p : Nat) (x : Guard) (a1 : Nat) : (s.setGuard p x).accAt a1 = s.accAt a1 := rfl
@[simp] theorem setGuard_live (p : Nat) (x : Guard) : (s.setGuard p x).live = s.live := rfl
@[simp] theorem setGuard_hasAccord (p : Nat) (x : Guard) (a1 : Nat) : (s.setGuard p x).hasAccord a1 = s.hasAccord a1 := rfl
@[simp] theorem setGuard_isBridge (p : Nat) (x : Guard) : (s.setGuard p x).isBridge = s.isBridge := rfl
@[simp] theorem setGuard_wsAt (p : Nat) (x : Guard) (n1 : Nat) : (s.setGuard p x).wsAt n1 = s.wsAt n1 := rfl
@[simp] theorem setGuard_portAt (p : Nat) (x : Guard) (p1 : Nat) : (s.setGuard p x).portAt p1 = s.portAt p1 := rfl
@[simp] theorem setGuard_runPins (p : Nat) (x : Guard) : (s.setGuard p x).runPins = s.runPins := rfl
@[simp] theorem setGuard_stepOf (p : Nat) (x : Guard) (c1 : Nat) : (s.setGuard p x).stepOf c1 = s.stepOf c1 := rfl
@[simp] theorem setGuard_flowAt (p : Nat) (x : Guard) (a1 : Nat) : (s.setGuard p x).flowAt a1 = s.flowAt a1 := rfl

/-! ### modGuard -/

@[simp] theorem modGuard_pending (p : Nat) (f : Guard → Guard) : (s.modGuard p f).pending = s.pending := rfl
@[simp] theorem modGuard_free (p : Nat) (f : Guard → Guard) : (s.modGuard p f).free = s.free := rfl
@[simp] theorem modGuard_od (p : Nat) (f : Guard → Guard) : (s.modGuard p f).od = s.od := rfl
@[simp] theorem modGuard_seqs (p : Nat) (f : Guard → Guard) : (s.modGuard p f).seqs = s.seqs := rfl
@[simp] theorem modGuard_time (p : Nat) (f : Guard → Guard) : (s.modGuard p f).time = s.time := rfl
@[simp] theorem modGuard_blot (p : Nat) (f : Guard → Guard) : (s.modGuard p f).blot = s.blot := rfl
@[simp] theorem modGuard_windows (p : Nat) (f : Guard → Guard) : (s.modGuard p f).windows = s.windows := rfl
@[simp] theorem modGuard_recQ (p : Nat) (f : Guard → Guard) : (s.modGuard p f).recQ = s.recQ := rfl
@[simp] theorem modGuard_unitFences (p : Nat) (f : Guard → Guard) : (s.modGuard p f).unitFences = s.unitFences := rfl
@[simp] theorem modGuard_granFences (p : Nat) (f : Guard → Guard) : (s.modGuard p f).granFences = s.granFences := rfl
@[simp] theorem modGuard_granHist (p : Nat) (f : Guard → Guard) : (s.modGuard p f).granHist = s.granHist := rfl
@[simp] theorem modGuard_unitHist (p : Nat) (f : Guard → Guard) : (s.modGuard p f).unitHist = s.unitHist := rfl
@[simp] theorem modGuard_ceWin (p : Nat) (f : Guard → Guard) : (s.modGuard p f).ceWin = s.ceWin := rfl
@[simp] theorem modGuard_heart (p : Nat) (f : Guard → Guard) : (s.modGuard p f).heart = s.heart := rfl
@[simp] theorem modGuard_base (p : Nat) (f : Guard → Guard) : (s.modGuard p f).base = s.base := rfl
@[simp] theorem modGuard_heartValid (p : Nat) (f : Guard → Guard) : (s.modGuard p f).heartValid = s.heartValid := rfl
@[simp] theorem modGuard_baseValid (p : Nat) (f : Guard → Guard) : (s.modGuard p f).baseValid = s.baseValid := rfl
@[simp] theorem modGuard_fills (p : Nat) (f : Guard → Guard) : (s.modGuard p f).fills = s.fills := rfl
@[simp] theorem modGuard_scrubL (p : Nat) (f : Guard → Guard) : (s.modGuard p f).scrubL = s.scrubL := rfl
@[simp] theorem modGuard_scrubPend (p : Nat) (f : Guard → Guard) : (s.modGuard p f).scrubPend = s.scrubPend := rfl
@[simp] theorem modGuard_wback (p : Nat) (f : Guard → Guard) : (s.modGuard p f).wback = s.wback := rfl
@[simp] theorem modGuard_chipGrants (p : Nat) (f : Guard → Guard) : (s.modGuard p f).chipGrants = s.chipGrants := rfl
@[simp] theorem modGuard_acc (p : Nat) (f : Guard → Guard) : (s.modGuard p f).acc = s.acc := rfl
@[simp] theorem modGuard_codec (p : Nat) (f : Guard → Guard) : (s.modGuard p f).codec = s.codec := rfl
@[simp] theorem modGuard_ctx (p : Nat) (f : Guard → Guard) : (s.modGuard p f).ctx = s.ctx := rfl
@[simp] theorem modGuard_cache (p : Nat) (f : Guard → Guard) : (s.modGuard p f).cache = s.cache := rfl
@[simp] theorem modGuard_marks (p : Nat) (f : Guard → Guard) : (s.modGuard p f).marks = s.marks := rfl
@[simp] theorem modGuard_heldCompl (p : Nat) (f : Guard → Guard) : (s.modGuard p f).heldCompl = s.heldCompl := rfl
@[simp] theorem modGuard_noseIn (p : Nat) (f : Guard → Guard) : (s.modGuard p f).noseIn = s.noseIn := rfl
@[simp] theorem modGuard_ports (p : Nat) (f : Guard → Guard) : (s.modGuard p f).ports = s.ports := rfl
@[simp] theorem modGuard_flows (p : Nat) (f : Guard → Guard) : (s.modGuard p f).flows = s.flows := rfl
@[simp] theorem modGuard_flowCache (p : Nat) (f : Guard → Guard) : (s.modGuard p f).flowCache = s.flowCache := rfl
@[simp] theorem modGuard_outbox (p : Nat) (f : Guard → Guard) : (s.modGuard p f).outbox = s.outbox := rfl
@[simp] theorem modGuard_inbox (p : Nat) (f : Guard → Guard) : (s.modGuard p f).inbox = s.inbox := rfl
@[simp] theorem modGuard_unacked (p : Nat) (f : Guard → Guard) : (s.modGuard p f).unacked = s.unacked := rfl
@[simp] theorem modGuard_bridge (p : Nat) (f : Guard → Guard) : (s.modGuard p f).bridge = s.bridge := rfl
@[simp] theorem modGuard_i3c (p : Nat) (f : Guard → Guard) : (s.modGuard p f).i3c = s.i3c := rfl
@[simp] theorem modGuard_mgmt (p : Nat) (f : Guard → Guard) : (s.modGuard p f).mgmt = s.mgmt := rfl
@[simp] theorem modGuard_wsets (p : Nat) (f : Guard → Guard) : (s.modGuard p f).wsets = s.wsets := rfl
@[simp] theorem modGuard_sec (p : Nat) (f : Guard → Guard) : (s.modGuard p f).sec = s.sec := rfl
@[simp] theorem modGuard_fw (p : Nat) (f : Guard → Guard) : (s.modGuard p f).fw = s.fw := rfl
@[simp] theorem modGuard_pins (p : Nat) (f : Guard → Guard) : (s.modGuard p f).pins = s.pins := rfl
@[simp] theorem modGuard_jobs (p : Nat) (f : Guard → Guard) : (s.modGuard p f).jobs = s.jobs := rfl
@[simp] theorem modGuard_odGet (p : Nat) (f : Guard → Guard) (k1 : Nat) : (s.modGuard p f).odGet k1 = s.odGet k1 := rfl
@[simp] theorem modGuard_odBits (p : Nat) (f : Guard → Guard) (k1 h1 l1 : Nat) : (s.modGuard p f).odBits k1 h1 l1 = s.odBits k1 h1 l1 := rfl
@[simp] theorem modGuard_odBit (p : Nat) (f : Guard → Guard) (k1 b1 : Nat) : (s.modGuard p f).odBit k1 b1 = s.odBit k1 b1 := rfl
@[simp] theorem modGuard_g (p : Nat) (f : Guard → Guard) : (s.modGuard p f).g = s.g := rfl
@[simp] theorem modGuard_ctxAt (p : Nat) (f : Guard → Guard) (c1 : Nat) : (s.modGuard p f).ctxAt c1 = s.ctxAt c1 := rfl
@[simp] theorem modGuard_accAt (p : Nat) (f : Guard → Guard) (a1 : Nat) : (s.modGuard p f).accAt a1 = s.accAt a1 := rfl
@[simp] theorem modGuard_live (p : Nat) (f : Guard → Guard) : (s.modGuard p f).live = s.live := rfl
@[simp] theorem modGuard_hasAccord (p : Nat) (f : Guard → Guard) (a1 : Nat) : (s.modGuard p f).hasAccord a1 = s.hasAccord a1 := rfl
@[simp] theorem modGuard_isBridge (p : Nat) (f : Guard → Guard) : (s.modGuard p f).isBridge = s.isBridge := rfl
@[simp] theorem modGuard_wsAt (p : Nat) (f : Guard → Guard) (n1 : Nat) : (s.modGuard p f).wsAt n1 = s.wsAt n1 := rfl
@[simp] theorem modGuard_portAt (p : Nat) (f : Guard → Guard) (p1 : Nat) : (s.modGuard p f).portAt p1 = s.portAt p1 := rfl
@[simp] theorem modGuard_runPins (p : Nat) (f : Guard → Guard) : (s.modGuard p f).runPins = s.runPins := rfl
@[simp] theorem modGuard_stepOf (p : Nat) (f : Guard → Guard) (c1 : Nat) : (s.modGuard p f).stepOf c1 = s.stepOf c1 := rfl
@[simp] theorem modGuard_flowAt (p : Nat) (f : Guard → Guard) (a1 : Nat) : (s.modGuard p f).flowAt a1 = s.flowAt a1 := rfl

/-! ### setAcc -/

@[simp] theorem setAcc_pending (a : Nat) (x : Accord) : (s.setAcc a x).pending = s.pending := rfl
@[simp] theorem setAcc_free (a : Nat) (x : Accord) : (s.setAcc a x).free = s.free := rfl
@[simp] theorem setAcc_od (a : Nat) (x : Accord) : (s.setAcc a x).od = s.od := rfl
@[simp] theorem setAcc_seqs (a : Nat) (x : Accord) : (s.setAcc a x).seqs = s.seqs := rfl
@[simp] theorem setAcc_time (a : Nat) (x : Accord) : (s.setAcc a x).time = s.time := rfl
@[simp] theorem setAcc_blot (a : Nat) (x : Accord) : (s.setAcc a x).blot = s.blot := rfl
@[simp] theorem setAcc_windows (a : Nat) (x : Accord) : (s.setAcc a x).windows = s.windows := rfl
@[simp] theorem setAcc_recQ (a : Nat) (x : Accord) : (s.setAcc a x).recQ = s.recQ := rfl
@[simp] theorem setAcc_unitFences (a : Nat) (x : Accord) : (s.setAcc a x).unitFences = s.unitFences := rfl
@[simp] theorem setAcc_granFences (a : Nat) (x : Accord) : (s.setAcc a x).granFences = s.granFences := rfl
@[simp] theorem setAcc_granHist (a : Nat) (x : Accord) : (s.setAcc a x).granHist = s.granHist := rfl
@[simp] theorem setAcc_unitHist (a : Nat) (x : Accord) : (s.setAcc a x).unitHist = s.unitHist := rfl
@[simp] theorem setAcc_ceWin (a : Nat) (x : Accord) : (s.setAcc a x).ceWin = s.ceWin := rfl
@[simp] theorem setAcc_heart (a : Nat) (x : Accord) : (s.setAcc a x).heart = s.heart := rfl
@[simp] theorem setAcc_base (a : Nat) (x : Accord) : (s.setAcc a x).base = s.base := rfl
@[simp] theorem setAcc_heartValid (a : Nat) (x : Accord) : (s.setAcc a x).heartValid = s.heartValid := rfl
@[simp] theorem setAcc_baseValid (a : Nat) (x : Accord) : (s.setAcc a x).baseValid = s.baseValid := rfl
@[simp] theorem setAcc_fills (a : Nat) (x : Accord) : (s.setAcc a x).fills = s.fills := rfl
@[simp] theorem setAcc_scrubL (a : Nat) (x : Accord) : (s.setAcc a x).scrubL = s.scrubL := rfl
@[simp] theorem setAcc_scrubPend (a : Nat) (x : Accord) : (s.setAcc a x).scrubPend = s.scrubPend := rfl
@[simp] theorem setAcc_wback (a : Nat) (x : Accord) : (s.setAcc a x).wback = s.wback := rfl
@[simp] theorem setAcc_chipGrants (a : Nat) (x : Accord) : (s.setAcc a x).chipGrants = s.chipGrants := rfl
@[simp] theorem setAcc_codec (a : Nat) (x : Accord) : (s.setAcc a x).codec = s.codec := rfl
@[simp] theorem setAcc_guard (a : Nat) (x : Accord) : (s.setAcc a x).guard = s.guard := rfl
@[simp] theorem setAcc_ctx (a : Nat) (x : Accord) : (s.setAcc a x).ctx = s.ctx := rfl
@[simp] theorem setAcc_cache (a : Nat) (x : Accord) : (s.setAcc a x).cache = s.cache := rfl
@[simp] theorem setAcc_marks (a : Nat) (x : Accord) : (s.setAcc a x).marks = s.marks := rfl
@[simp] theorem setAcc_heldCompl (a : Nat) (x : Accord) : (s.setAcc a x).heldCompl = s.heldCompl := rfl
@[simp] theorem setAcc_noseIn (a : Nat) (x : Accord) : (s.setAcc a x).noseIn = s.noseIn := rfl
@[simp] theorem setAcc_ports (a : Nat) (x : Accord) : (s.setAcc a x).ports = s.ports := rfl
@[simp] theorem setAcc_flows (a : Nat) (x : Accord) : (s.setAcc a x).flows = s.flows := rfl
@[simp] theorem setAcc_flowCache (a : Nat) (x : Accord) : (s.setAcc a x).flowCache = s.flowCache := rfl
@[simp] theorem setAcc_outbox (a : Nat) (x : Accord) : (s.setAcc a x).outbox = s.outbox := rfl
@[simp] theorem setAcc_inbox (a : Nat) (x : Accord) : (s.setAcc a x).inbox = s.inbox := rfl
@[simp] theorem setAcc_unacked (a : Nat) (x : Accord) : (s.setAcc a x).unacked = s.unacked := rfl
@[simp] theorem setAcc_bridge (a : Nat) (x : Accord) : (s.setAcc a x).bridge = s.bridge := rfl
@[simp] theorem setAcc_i3c (a : Nat) (x : Accord) : (s.setAcc a x).i3c = s.i3c := rfl
@[simp] theorem setAcc_mgmt (a : Nat) (x : Accord) : (s.setAcc a x).mgmt = s.mgmt := rfl
@[simp] theorem setAcc_wsets (a : Nat) (x : Accord) : (s.setAcc a x).wsets = s.wsets := rfl
@[simp] theorem setAcc_sec (a : Nat) (x : Accord) : (s.setAcc a x).sec = s.sec := rfl
@[simp] theorem setAcc_fw (a : Nat) (x : Accord) : (s.setAcc a x).fw = s.fw := rfl
@[simp] theorem setAcc_pins (a : Nat) (x : Accord) : (s.setAcc a x).pins = s.pins := rfl
@[simp] theorem setAcc_jobs (a : Nat) (x : Accord) : (s.setAcc a x).jobs = s.jobs := rfl
@[simp] theorem setAcc_odGet (a : Nat) (x : Accord) (k1 : Nat) : (s.setAcc a x).odGet k1 = s.odGet k1 := rfl
@[simp] theorem setAcc_odBits (a : Nat) (x : Accord) (k1 h1 l1 : Nat) : (s.setAcc a x).odBits k1 h1 l1 = s.odBits k1 h1 l1 := rfl
@[simp] theorem setAcc_odBit (a : Nat) (x : Accord) (k1 b1 : Nat) : (s.setAcc a x).odBit k1 b1 = s.odBit k1 b1 := rfl
@[simp] theorem setAcc_g (a : Nat) (x : Accord) : (s.setAcc a x).g = s.g := rfl
@[simp] theorem setAcc_ctxAt (a : Nat) (x : Accord) (c1 : Nat) : (s.setAcc a x).ctxAt c1 = s.ctxAt c1 := rfl
@[simp] theorem setAcc_guardAt (a : Nat) (x : Accord) (p1 : Nat) : (s.setAcc a x).guardAt p1 = s.guardAt p1 := rfl
@[simp] theorem setAcc_live (a : Nat) (x : Accord) : (s.setAcc a x).live = s.live := rfl
@[simp] theorem setAcc_hasAccord (a : Nat) (x : Accord) (a1 : Nat) : (s.setAcc a x).hasAccord a1 = s.hasAccord a1 := rfl
@[simp] theorem setAcc_isBridge (a : Nat) (x : Accord) : (s.setAcc a x).isBridge = s.isBridge := rfl
@[simp] theorem setAcc_wsAt (a : Nat) (x : Accord) (n1 : Nat) : (s.setAcc a x).wsAt n1 = s.wsAt n1 := rfl
@[simp] theorem setAcc_portAt (a : Nat) (x : Accord) (p1 : Nat) : (s.setAcc a x).portAt p1 = s.portAt p1 := rfl
@[simp] theorem setAcc_runPins (a : Nat) (x : Accord) : (s.setAcc a x).runPins = s.runPins := rfl
@[simp] theorem setAcc_stepOf (a : Nat) (x : Accord) (c1 : Nat) : (s.setAcc a x).stepOf c1 = s.stepOf c1 := rfl
@[simp] theorem setAcc_flowAt (a : Nat) (x : Accord) (a1 : Nat) : (s.setAcc a x).flowAt a1 = s.flowAt a1 := rfl

/-! ### modAcc -/

@[simp] theorem modAcc_pending (a : Nat) (f : Accord → Accord) : (s.modAcc a f).pending = s.pending := rfl
@[simp] theorem modAcc_free (a : Nat) (f : Accord → Accord) : (s.modAcc a f).free = s.free := rfl
@[simp] theorem modAcc_od (a : Nat) (f : Accord → Accord) : (s.modAcc a f).od = s.od := rfl
@[simp] theorem modAcc_seqs (a : Nat) (f : Accord → Accord) : (s.modAcc a f).seqs = s.seqs := rfl
@[simp] theorem modAcc_time (a : Nat) (f : Accord → Accord) : (s.modAcc a f).time = s.time := rfl
@[simp] theorem modAcc_blot (a : Nat) (f : Accord → Accord) : (s.modAcc a f).blot = s.blot := rfl
@[simp] theorem modAcc_windows (a : Nat) (f : Accord → Accord) : (s.modAcc a f).windows = s.windows := rfl
@[simp] theorem modAcc_recQ (a : Nat) (f : Accord → Accord) : (s.modAcc a f).recQ = s.recQ := rfl
@[simp] theorem modAcc_unitFences (a : Nat) (f : Accord → Accord) : (s.modAcc a f).unitFences = s.unitFences := rfl
@[simp] theorem modAcc_granFences (a : Nat) (f : Accord → Accord) : (s.modAcc a f).granFences = s.granFences := rfl
@[simp] theorem modAcc_granHist (a : Nat) (f : Accord → Accord) : (s.modAcc a f).granHist = s.granHist := rfl
@[simp] theorem modAcc_unitHist (a : Nat) (f : Accord → Accord) : (s.modAcc a f).unitHist = s.unitHist := rfl
@[simp] theorem modAcc_ceWin (a : Nat) (f : Accord → Accord) : (s.modAcc a f).ceWin = s.ceWin := rfl
@[simp] theorem modAcc_heart (a : Nat) (f : Accord → Accord) : (s.modAcc a f).heart = s.heart := rfl
@[simp] theorem modAcc_base (a : Nat) (f : Accord → Accord) : (s.modAcc a f).base = s.base := rfl
@[simp] theorem modAcc_heartValid (a : Nat) (f : Accord → Accord) : (s.modAcc a f).heartValid = s.heartValid := rfl
@[simp] theorem modAcc_baseValid (a : Nat) (f : Accord → Accord) : (s.modAcc a f).baseValid = s.baseValid := rfl
@[simp] theorem modAcc_fills (a : Nat) (f : Accord → Accord) : (s.modAcc a f).fills = s.fills := rfl
@[simp] theorem modAcc_scrubL (a : Nat) (f : Accord → Accord) : (s.modAcc a f).scrubL = s.scrubL := rfl
@[simp] theorem modAcc_scrubPend (a : Nat) (f : Accord → Accord) : (s.modAcc a f).scrubPend = s.scrubPend := rfl
@[simp] theorem modAcc_wback (a : Nat) (f : Accord → Accord) : (s.modAcc a f).wback = s.wback := rfl
@[simp] theorem modAcc_chipGrants (a : Nat) (f : Accord → Accord) : (s.modAcc a f).chipGrants = s.chipGrants := rfl
@[simp] theorem modAcc_codec (a : Nat) (f : Accord → Accord) : (s.modAcc a f).codec = s.codec := rfl
@[simp] theorem modAcc_guard (a : Nat) (f : Accord → Accord) : (s.modAcc a f).guard = s.guard := rfl
@[simp] theorem modAcc_ctx (a : Nat) (f : Accord → Accord) : (s.modAcc a f).ctx = s.ctx := rfl
@[simp] theorem modAcc_cache (a : Nat) (f : Accord → Accord) : (s.modAcc a f).cache = s.cache := rfl
@[simp] theorem modAcc_marks (a : Nat) (f : Accord → Accord) : (s.modAcc a f).marks = s.marks := rfl
@[simp] theorem modAcc_heldCompl (a : Nat) (f : Accord → Accord) : (s.modAcc a f).heldCompl = s.heldCompl := rfl
@[simp] theorem modAcc_noseIn (a : Nat) (f : Accord → Accord) : (s.modAcc a f).noseIn = s.noseIn := rfl
@[simp] theorem modAcc_ports (a : Nat) (f : Accord → Accord) : (s.modAcc a f).ports = s.ports := rfl
@[simp] theorem modAcc_flows (a : Nat) (f : Accord → Accord) : (s.modAcc a f).flows = s.flows := rfl
@[simp] theorem modAcc_flowCache (a : Nat) (f : Accord → Accord) : (s.modAcc a f).flowCache = s.flowCache := rfl
@[simp] theorem modAcc_outbox (a : Nat) (f : Accord → Accord) : (s.modAcc a f).outbox = s.outbox := rfl
@[simp] theorem modAcc_inbox (a : Nat) (f : Accord → Accord) : (s.modAcc a f).inbox = s.inbox := rfl
@[simp] theorem modAcc_unacked (a : Nat) (f : Accord → Accord) : (s.modAcc a f).unacked = s.unacked := rfl
@[simp] theorem modAcc_bridge (a : Nat) (f : Accord → Accord) : (s.modAcc a f).bridge = s.bridge := rfl
@[simp] theorem modAcc_i3c (a : Nat) (f : Accord → Accord) : (s.modAcc a f).i3c = s.i3c := rfl
@[simp] theorem modAcc_mgmt (a : Nat) (f : Accord → Accord) : (s.modAcc a f).mgmt = s.mgmt := rfl
@[simp] theorem modAcc_wsets (a : Nat) (f : Accord → Accord) : (s.modAcc a f).wsets = s.wsets := rfl
@[simp] theorem modAcc_sec (a : Nat) (f : Accord → Accord) : (s.modAcc a f).sec = s.sec := rfl
@[simp] theorem modAcc_fw (a : Nat) (f : Accord → Accord) : (s.modAcc a f).fw = s.fw := rfl
@[simp] theorem modAcc_pins (a : Nat) (f : Accord → Accord) : (s.modAcc a f).pins = s.pins := rfl
@[simp] theorem modAcc_jobs (a : Nat) (f : Accord → Accord) : (s.modAcc a f).jobs = s.jobs := rfl
@[simp] theorem modAcc_odGet (a : Nat) (f : Accord → Accord) (k1 : Nat) : (s.modAcc a f).odGet k1 = s.odGet k1 := rfl
@[simp] theorem modAcc_odBits (a : Nat) (f : Accord → Accord) (k1 h1 l1 : Nat) : (s.modAcc a f).odBits k1 h1 l1 = s.odBits k1 h1 l1 := rfl
@[simp] theorem modAcc_odBit (a : Nat) (f : Accord → Accord) (k1 b1 : Nat) : (s.modAcc a f).odBit k1 b1 = s.odBit k1 b1 := rfl
@[simp] theorem modAcc_g (a : Nat) (f : Accord → Accord) : (s.modAcc a f).g = s.g := rfl
@[simp] theorem modAcc_ctxAt (a : Nat) (f : Accord → Accord) (c1 : Nat) : (s.modAcc a f).ctxAt c1 = s.ctxAt c1 := rfl
@[simp] theorem modAcc_guardAt (a : Nat) (f : Accord → Accord) (p1 : Nat) : (s.modAcc a f).guardAt p1 = s.guardAt p1 := rfl
@[simp] theorem modAcc_live (a : Nat) (f : Accord → Accord) : (s.modAcc a f).live = s.live := rfl
@[simp] theorem modAcc_hasAccord (a : Nat) (f : Accord → Accord) (a1 : Nat) : (s.modAcc a f).hasAccord a1 = s.hasAccord a1 := rfl
@[simp] theorem modAcc_isBridge (a : Nat) (f : Accord → Accord) : (s.modAcc a f).isBridge = s.isBridge := rfl
@[simp] theorem modAcc_wsAt (a : Nat) (f : Accord → Accord) (n1 : Nat) : (s.modAcc a f).wsAt n1 = s.wsAt n1 := rfl
@[simp] theorem modAcc_portAt (a : Nat) (f : Accord → Accord) (p1 : Nat) : (s.modAcc a f).portAt p1 = s.portAt p1 := rfl
@[simp] theorem modAcc_runPins (a : Nat) (f : Accord → Accord) : (s.modAcc a f).runPins = s.runPins := rfl
@[simp] theorem modAcc_stepOf (a : Nat) (f : Accord → Accord) (c1 : Nat) : (s.modAcc a f).stepOf c1 = s.stepOf c1 := rfl
@[simp] theorem modAcc_flowAt (a : Nat) (f : Accord → Accord) (a1 : Nat) : (s.modAcc a f).flowAt a1 = s.flowAt a1 := rfl

/-! ### modVe -/

@[simp] theorem modVe_pending (a : Nat) (f : VecEngine → VecEngine) : (s.modVe a f).pending = s.pending := rfl
@[simp] theorem modVe_free (a : Nat) (f : VecEngine → VecEngine) : (s.modVe a f).free = s.free := rfl
@[simp] theorem modVe_od (a : Nat) (f : VecEngine → VecEngine) : (s.modVe a f).od = s.od := rfl
@[simp] theorem modVe_seqs (a : Nat) (f : VecEngine → VecEngine) : (s.modVe a f).seqs = s.seqs := rfl
@[simp] theorem modVe_time (a : Nat) (f : VecEngine → VecEngine) : (s.modVe a f).time = s.time := rfl
@[simp] theorem modVe_blot (a : Nat) (f : VecEngine → VecEngine) : (s.modVe a f).blot = s.blot := rfl
@[simp] theorem modVe_windows (a : Nat) (f : VecEngine → VecEngine) : (s.modVe a f).windows = s.windows := rfl
@[simp] theorem modVe_recQ (a : Nat) (f : VecEngine → VecEngine) : (s.modVe a f).recQ = s.recQ := rfl
@[simp] theorem modVe_unitFences (a : Nat) (f : VecEngine → VecEngine) : (s.modVe a f).unitFences = s.unitFences := rfl
@[simp] theorem modVe_granFences (a : Nat) (f : VecEngine → VecEngine) : (s.modVe a f).granFences = s.granFences := rfl
@[simp] theorem modVe_granHist (a : Nat) (f : VecEngine → VecEngine) : (s.modVe a f).granHist = s.granHist := rfl
@[simp] theorem modVe_unitHist (a : Nat) (f : VecEngine → VecEngine) : (s.modVe a f).unitHist = s.unitHist := rfl
@[simp] theorem modVe_ceWin (a : Nat) (f : VecEngine → VecEngine) : (s.modVe a f).ceWin = s.ceWin := rfl
@[simp] theorem modVe_heart (a : Nat) (f : VecEngine → VecEngine) : (s.modVe a f).heart = s.heart := rfl
@[simp] theorem modVe_base (a : Nat) (f : VecEngine → VecEngine) : (s.modVe a f).base = s.base := rfl
@[simp] theorem modVe_heartValid (a : Nat) (f : VecEngine → VecEngine) : (s.modVe a f).heartValid = s.heartValid := rfl
@[simp] theorem modVe_baseValid (a : Nat) (f : VecEngine → VecEngine) : (s.modVe a f).baseValid = s.baseValid := rfl
@[simp] theorem modVe_fills (a : Nat) (f : VecEngine → VecEngine) : (s.modVe a f).fills = s.fills := rfl
@[simp] theorem modVe_scrubL (a : Nat) (f : VecEngine → VecEngine) : (s.modVe a f).scrubL = s.scrubL := rfl
@[simp] theorem modVe_scrubPend (a : Nat) (f : VecEngine → VecEngine) : (s.modVe a f).scrubPend = s.scrubPend := rfl
@[simp] theorem modVe_wback (a : Nat) (f : VecEngine → VecEngine) : (s.modVe a f).wback = s.wback := rfl
@[simp] theorem modVe_chipGrants (a : Nat) (f : VecEngine → VecEngine) : (s.modVe a f).chipGrants = s.chipGrants := rfl
@[simp] theorem modVe_codec (a : Nat) (f : VecEngine → VecEngine) : (s.modVe a f).codec = s.codec := rfl
@[simp] theorem modVe_guard (a : Nat) (f : VecEngine → VecEngine) : (s.modVe a f).guard = s.guard := rfl
@[simp] theorem modVe_ctx (a : Nat) (f : VecEngine → VecEngine) : (s.modVe a f).ctx = s.ctx := rfl
@[simp] theorem modVe_cache (a : Nat) (f : VecEngine → VecEngine) : (s.modVe a f).cache = s.cache := rfl
@[simp] theorem modVe_marks (a : Nat) (f : VecEngine → VecEngine) : (s.modVe a f).marks = s.marks := rfl
@[simp] theorem modVe_heldCompl (a : Nat) (f : VecEngine → VecEngine) : (s.modVe a f).heldCompl = s.heldCompl := rfl
@[simp] theorem modVe_noseIn (a : Nat) (f : VecEngine → VecEngine) : (s.modVe a f).noseIn = s.noseIn := rfl
@[simp] theorem modVe_ports (a : Nat) (f : VecEngine → VecEngine) : (s.modVe a f).ports = s.ports := rfl
@[simp] theorem modVe_flows (a : Nat) (f : VecEngine → VecEngine) : (s.modVe a f).flows = s.flows := rfl
@[simp] theorem modVe_flowCache (a : Nat) (f : VecEngine → VecEngine) : (s.modVe a f).flowCache = s.flowCache := rfl
@[simp] theorem modVe_outbox (a : Nat) (f : VecEngine → VecEngine) : (s.modVe a f).outbox = s.outbox := rfl
@[simp] theorem modVe_inbox (a : Nat) (f : VecEngine → VecEngine) : (s.modVe a f).inbox = s.inbox := rfl
@[simp] theorem modVe_unacked (a : Nat) (f : VecEngine → VecEngine) : (s.modVe a f).unacked = s.unacked := rfl
@[simp] theorem modVe_bridge (a : Nat) (f : VecEngine → VecEngine) : (s.modVe a f).bridge = s.bridge := rfl
@[simp] theorem modVe_i3c (a : Nat) (f : VecEngine → VecEngine) : (s.modVe a f).i3c = s.i3c := rfl
@[simp] theorem modVe_mgmt (a : Nat) (f : VecEngine → VecEngine) : (s.modVe a f).mgmt = s.mgmt := rfl
@[simp] theorem modVe_wsets (a : Nat) (f : VecEngine → VecEngine) : (s.modVe a f).wsets = s.wsets := rfl
@[simp] theorem modVe_sec (a : Nat) (f : VecEngine → VecEngine) : (s.modVe a f).sec = s.sec := rfl
@[simp] theorem modVe_fw (a : Nat) (f : VecEngine → VecEngine) : (s.modVe a f).fw = s.fw := rfl
@[simp] theorem modVe_pins (a : Nat) (f : VecEngine → VecEngine) : (s.modVe a f).pins = s.pins := rfl
@[simp] theorem modVe_jobs (a : Nat) (f : VecEngine → VecEngine) : (s.modVe a f).jobs = s.jobs := rfl
@[simp] theorem modVe_odGet (a : Nat) (f : VecEngine → VecEngine) (k1 : Nat) : (s.modVe a f).odGet k1 = s.odGet k1 := rfl
@[simp] theorem modVe_odBits (a : Nat) (f : VecEngine → VecEngine) (k1 h1 l1 : Nat) : (s.modVe a f).odBits k1 h1 l1 = s.odBits k1 h1 l1 := rfl
@[simp] theorem modVe_odBit (a : Nat) (f : VecEngine → VecEngine) (k1 b1 : Nat) : (s.modVe a f).odBit k1 b1 = s.odBit k1 b1 := rfl
@[simp] theorem modVe_g (a : Nat) (f : VecEngine → VecEngine) : (s.modVe a f).g = s.g := rfl
@[simp] theorem modVe_ctxAt (a : Nat) (f : VecEngine → VecEngine) (c1 : Nat) : (s.modVe a f).ctxAt c1 = s.ctxAt c1 := rfl
@[simp] theorem modVe_guardAt (a : Nat) (f : VecEngine → VecEngine) (p1 : Nat) : (s.modVe a f).guardAt p1 = s.guardAt p1 := rfl
@[simp] theorem modVe_live (a : Nat) (f : VecEngine → VecEngine) : (s.modVe a f).live = s.live := rfl
@[simp] theorem modVe_hasAccord (a : Nat) (f : VecEngine → VecEngine) (a1 : Nat) : (s.modVe a f).hasAccord a1 = s.hasAccord a1 := rfl
@[simp] theorem modVe_isBridge (a : Nat) (f : VecEngine → VecEngine) : (s.modVe a f).isBridge = s.isBridge := rfl
@[simp] theorem modVe_wsAt (a : Nat) (f : VecEngine → VecEngine) (n1 : Nat) : (s.modVe a f).wsAt n1 = s.wsAt n1 := rfl
@[simp] theorem modVe_portAt (a : Nat) (f : VecEngine → VecEngine) (p1 : Nat) : (s.modVe a f).portAt p1 = s.portAt p1 := rfl
@[simp] theorem modVe_runPins (a : Nat) (f : VecEngine → VecEngine) : (s.modVe a f).runPins = s.runPins := rfl
@[simp] theorem modVe_stepOf (a : Nat) (f : VecEngine → VecEngine) (c1 : Nat) : (s.modVe a f).stepOf c1 = s.stepOf c1 := rfl
@[simp] theorem modVe_flowAt (a : Nat) (f : VecEngine → VecEngine) (a1 : Nat) : (s.modVe a f).flowAt a1 = s.flowAt a1 := rfl

/-! ### setTokq -/

@[simp] theorem setTokq_pending (a q : Nat) (x : TokQueue) : (s.setTokq a q x).pending = s.pending := rfl
@[simp] theorem setTokq_free (a q : Nat) (x : TokQueue) : (s.setTokq a q x).free = s.free := rfl
@[simp] theorem setTokq_od (a q : Nat) (x : TokQueue) : (s.setTokq a q x).od = s.od := rfl
@[simp] theorem setTokq_seqs (a q : Nat) (x : TokQueue) : (s.setTokq a q x).seqs = s.seqs := rfl
@[simp] theorem setTokq_time (a q : Nat) (x : TokQueue) : (s.setTokq a q x).time = s.time := rfl
@[simp] theorem setTokq_blot (a q : Nat) (x : TokQueue) : (s.setTokq a q x).blot = s.blot := rfl
@[simp] theorem setTokq_windows (a q : Nat) (x : TokQueue) : (s.setTokq a q x).windows = s.windows := rfl
@[simp] theorem setTokq_recQ (a q : Nat) (x : TokQueue) : (s.setTokq a q x).recQ = s.recQ := rfl
@[simp] theorem setTokq_unitFences (a q : Nat) (x : TokQueue) : (s.setTokq a q x).unitFences = s.unitFences := rfl
@[simp] theorem setTokq_granFences (a q : Nat) (x : TokQueue) : (s.setTokq a q x).granFences = s.granFences := rfl
@[simp] theorem setTokq_granHist (a q : Nat) (x : TokQueue) : (s.setTokq a q x).granHist = s.granHist := rfl
@[simp] theorem setTokq_unitHist (a q : Nat) (x : TokQueue) : (s.setTokq a q x).unitHist = s.unitHist := rfl
@[simp] theorem setTokq_ceWin (a q : Nat) (x : TokQueue) : (s.setTokq a q x).ceWin = s.ceWin := rfl
@[simp] theorem setTokq_heart (a q : Nat) (x : TokQueue) : (s.setTokq a q x).heart = s.heart := rfl
@[simp] theorem setTokq_base (a q : Nat) (x : TokQueue) : (s.setTokq a q x).base = s.base := rfl
@[simp] theorem setTokq_heartValid (a q : Nat) (x : TokQueue) : (s.setTokq a q x).heartValid = s.heartValid := rfl
@[simp] theorem setTokq_baseValid (a q : Nat) (x : TokQueue) : (s.setTokq a q x).baseValid = s.baseValid := rfl
@[simp] theorem setTokq_fills (a q : Nat) (x : TokQueue) : (s.setTokq a q x).fills = s.fills := rfl
@[simp] theorem setTokq_scrubL (a q : Nat) (x : TokQueue) : (s.setTokq a q x).scrubL = s.scrubL := rfl
@[simp] theorem setTokq_scrubPend (a q : Nat) (x : TokQueue) : (s.setTokq a q x).scrubPend = s.scrubPend := rfl
@[simp] theorem setTokq_wback (a q : Nat) (x : TokQueue) : (s.setTokq a q x).wback = s.wback := rfl
@[simp] theorem setTokq_chipGrants (a q : Nat) (x : TokQueue) : (s.setTokq a q x).chipGrants = s.chipGrants := rfl
@[simp] theorem setTokq_codec (a q : Nat) (x : TokQueue) : (s.setTokq a q x).codec = s.codec := rfl
@[simp] theorem setTokq_guard (a q : Nat) (x : TokQueue) : (s.setTokq a q x).guard = s.guard := rfl
@[simp] theorem setTokq_ctx (a q : Nat) (x : TokQueue) : (s.setTokq a q x).ctx = s.ctx := rfl
@[simp] theorem setTokq_cache (a q : Nat) (x : TokQueue) : (s.setTokq a q x).cache = s.cache := rfl
@[simp] theorem setTokq_marks (a q : Nat) (x : TokQueue) : (s.setTokq a q x).marks = s.marks := rfl
@[simp] theorem setTokq_heldCompl (a q : Nat) (x : TokQueue) : (s.setTokq a q x).heldCompl = s.heldCompl := rfl
@[simp] theorem setTokq_noseIn (a q : Nat) (x : TokQueue) : (s.setTokq a q x).noseIn = s.noseIn := rfl
@[simp] theorem setTokq_ports (a q : Nat) (x : TokQueue) : (s.setTokq a q x).ports = s.ports := rfl
@[simp] theorem setTokq_flows (a q : Nat) (x : TokQueue) : (s.setTokq a q x).flows = s.flows := rfl
@[simp] theorem setTokq_flowCache (a q : Nat) (x : TokQueue) : (s.setTokq a q x).flowCache = s.flowCache := rfl
@[simp] theorem setTokq_outbox (a q : Nat) (x : TokQueue) : (s.setTokq a q x).outbox = s.outbox := rfl
@[simp] theorem setTokq_inbox (a q : Nat) (x : TokQueue) : (s.setTokq a q x).inbox = s.inbox := rfl
@[simp] theorem setTokq_unacked (a q : Nat) (x : TokQueue) : (s.setTokq a q x).unacked = s.unacked := rfl
@[simp] theorem setTokq_bridge (a q : Nat) (x : TokQueue) : (s.setTokq a q x).bridge = s.bridge := rfl
@[simp] theorem setTokq_i3c (a q : Nat) (x : TokQueue) : (s.setTokq a q x).i3c = s.i3c := rfl
@[simp] theorem setTokq_mgmt (a q : Nat) (x : TokQueue) : (s.setTokq a q x).mgmt = s.mgmt := rfl
@[simp] theorem setTokq_wsets (a q : Nat) (x : TokQueue) : (s.setTokq a q x).wsets = s.wsets := rfl
@[simp] theorem setTokq_sec (a q : Nat) (x : TokQueue) : (s.setTokq a q x).sec = s.sec := rfl
@[simp] theorem setTokq_fw (a q : Nat) (x : TokQueue) : (s.setTokq a q x).fw = s.fw := rfl
@[simp] theorem setTokq_pins (a q : Nat) (x : TokQueue) : (s.setTokq a q x).pins = s.pins := rfl
@[simp] theorem setTokq_jobs (a q : Nat) (x : TokQueue) : (s.setTokq a q x).jobs = s.jobs := rfl
@[simp] theorem setTokq_odGet (a q : Nat) (x : TokQueue) (k1 : Nat) : (s.setTokq a q x).odGet k1 = s.odGet k1 := rfl
@[simp] theorem setTokq_odBits (a q : Nat) (x : TokQueue) (k1 h1 l1 : Nat) : (s.setTokq a q x).odBits k1 h1 l1 = s.odBits k1 h1 l1 := rfl
@[simp] theorem setTokq_odBit (a q : Nat) (x : TokQueue) (k1 b1 : Nat) : (s.setTokq a q x).odBit k1 b1 = s.odBit k1 b1 := rfl
@[simp] theorem setTokq_g (a q : Nat) (x : TokQueue) : (s.setTokq a q x).g = s.g := rfl
@[simp] theorem setTokq_ctxAt (a q : Nat) (x : TokQueue) (c1 : Nat) : (s.setTokq a q x).ctxAt c1 = s.ctxAt c1 := rfl
@[simp] theorem setTokq_guardAt (a q : Nat) (x : TokQueue) (p1 : Nat) : (s.setTokq a q x).guardAt p1 = s.guardAt p1 := rfl
@[simp] theorem setTokq_live (a q : Nat) (x : TokQueue) : (s.setTokq a q x).live = s.live := rfl
@[simp] theorem setTokq_hasAccord (a q : Nat) (x : TokQueue) (a1 : Nat) : (s.setTokq a q x).hasAccord a1 = s.hasAccord a1 := rfl
@[simp] theorem setTokq_isBridge (a q : Nat) (x : TokQueue) : (s.setTokq a q x).isBridge = s.isBridge := rfl
@[simp] theorem setTokq_wsAt (a q : Nat) (x : TokQueue) (n1 : Nat) : (s.setTokq a q x).wsAt n1 = s.wsAt n1 := rfl
@[simp] theorem setTokq_portAt (a q : Nat) (x : TokQueue) (p1 : Nat) : (s.setTokq a q x).portAt p1 = s.portAt p1 := rfl
@[simp] theorem setTokq_runPins (a q : Nat) (x : TokQueue) : (s.setTokq a q x).runPins = s.runPins := rfl
@[simp] theorem setTokq_stepOf (a q : Nat) (x : TokQueue) (c1 : Nat) : (s.setTokq a q x).stepOf c1 = s.stepOf c1 := rfl
@[simp] theorem setTokq_flowAt (a q : Nat) (x : TokQueue) (a1 : Nat) : (s.setTokq a q x).flowAt a1 = s.flowAt a1 := rfl

/-! ### setFlow -/

@[simp] theorem setFlow_pending (n : Nat) (x : FlowCount) : (s.setFlow n x).pending = s.pending := rfl
@[simp] theorem setFlow_free (n : Nat) (x : FlowCount) : (s.setFlow n x).free = s.free := rfl
@[simp] theorem setFlow_od (n : Nat) (x : FlowCount) : (s.setFlow n x).od = s.od := rfl
@[simp] theorem setFlow_seqs (n : Nat) (x : FlowCount) : (s.setFlow n x).seqs = s.seqs := rfl
@[simp] theorem setFlow_time (n : Nat) (x : FlowCount) : (s.setFlow n x).time = s.time := rfl
@[simp] theorem setFlow_blot (n : Nat) (x : FlowCount) : (s.setFlow n x).blot = s.blot := rfl
@[simp] theorem setFlow_windows (n : Nat) (x : FlowCount) : (s.setFlow n x).windows = s.windows := rfl
@[simp] theorem setFlow_recQ (n : Nat) (x : FlowCount) : (s.setFlow n x).recQ = s.recQ := rfl
@[simp] theorem setFlow_unitFences (n : Nat) (x : FlowCount) : (s.setFlow n x).unitFences = s.unitFences := rfl
@[simp] theorem setFlow_granFences (n : Nat) (x : FlowCount) : (s.setFlow n x).granFences = s.granFences := rfl
@[simp] theorem setFlow_granHist (n : Nat) (x : FlowCount) : (s.setFlow n x).granHist = s.granHist := rfl
@[simp] theorem setFlow_unitHist (n : Nat) (x : FlowCount) : (s.setFlow n x).unitHist = s.unitHist := rfl
@[simp] theorem setFlow_ceWin (n : Nat) (x : FlowCount) : (s.setFlow n x).ceWin = s.ceWin := rfl
@[simp] theorem setFlow_heart (n : Nat) (x : FlowCount) : (s.setFlow n x).heart = s.heart := rfl
@[simp] theorem setFlow_base (n : Nat) (x : FlowCount) : (s.setFlow n x).base = s.base := rfl
@[simp] theorem setFlow_heartValid (n : Nat) (x : FlowCount) : (s.setFlow n x).heartValid = s.heartValid := rfl
@[simp] theorem setFlow_baseValid (n : Nat) (x : FlowCount) : (s.setFlow n x).baseValid = s.baseValid := rfl
@[simp] theorem setFlow_fills (n : Nat) (x : FlowCount) : (s.setFlow n x).fills = s.fills := rfl
@[simp] theorem setFlow_scrubL (n : Nat) (x : FlowCount) : (s.setFlow n x).scrubL = s.scrubL := rfl
@[simp] theorem setFlow_scrubPend (n : Nat) (x : FlowCount) : (s.setFlow n x).scrubPend = s.scrubPend := rfl
@[simp] theorem setFlow_wback (n : Nat) (x : FlowCount) : (s.setFlow n x).wback = s.wback := rfl
@[simp] theorem setFlow_chipGrants (n : Nat) (x : FlowCount) : (s.setFlow n x).chipGrants = s.chipGrants := rfl
@[simp] theorem setFlow_acc (n : Nat) (x : FlowCount) : (s.setFlow n x).acc = s.acc := rfl
@[simp] theorem setFlow_codec (n : Nat) (x : FlowCount) : (s.setFlow n x).codec = s.codec := rfl
@[simp] theorem setFlow_guard (n : Nat) (x : FlowCount) : (s.setFlow n x).guard = s.guard := rfl
@[simp] theorem setFlow_ctx (n : Nat) (x : FlowCount) : (s.setFlow n x).ctx = s.ctx := rfl
@[simp] theorem setFlow_cache (n : Nat) (x : FlowCount) : (s.setFlow n x).cache = s.cache := rfl
@[simp] theorem setFlow_marks (n : Nat) (x : FlowCount) : (s.setFlow n x).marks = s.marks := rfl
@[simp] theorem setFlow_heldCompl (n : Nat) (x : FlowCount) : (s.setFlow n x).heldCompl = s.heldCompl := rfl
@[simp] theorem setFlow_noseIn (n : Nat) (x : FlowCount) : (s.setFlow n x).noseIn = s.noseIn := rfl
@[simp] theorem setFlow_ports (n : Nat) (x : FlowCount) : (s.setFlow n x).ports = s.ports := rfl
@[simp] theorem setFlow_flowCache (n : Nat) (x : FlowCount) : (s.setFlow n x).flowCache = s.flowCache := rfl
@[simp] theorem setFlow_outbox (n : Nat) (x : FlowCount) : (s.setFlow n x).outbox = s.outbox := rfl
@[simp] theorem setFlow_inbox (n : Nat) (x : FlowCount) : (s.setFlow n x).inbox = s.inbox := rfl
@[simp] theorem setFlow_unacked (n : Nat) (x : FlowCount) : (s.setFlow n x).unacked = s.unacked := rfl
@[simp] theorem setFlow_bridge (n : Nat) (x : FlowCount) : (s.setFlow n x).bridge = s.bridge := rfl
@[simp] theorem setFlow_i3c (n : Nat) (x : FlowCount) : (s.setFlow n x).i3c = s.i3c := rfl
@[simp] theorem setFlow_mgmt (n : Nat) (x : FlowCount) : (s.setFlow n x).mgmt = s.mgmt := rfl
@[simp] theorem setFlow_wsets (n : Nat) (x : FlowCount) : (s.setFlow n x).wsets = s.wsets := rfl
@[simp] theorem setFlow_sec (n : Nat) (x : FlowCount) : (s.setFlow n x).sec = s.sec := rfl
@[simp] theorem setFlow_fw (n : Nat) (x : FlowCount) : (s.setFlow n x).fw = s.fw := rfl
@[simp] theorem setFlow_pins (n : Nat) (x : FlowCount) : (s.setFlow n x).pins = s.pins := rfl
@[simp] theorem setFlow_jobs (n : Nat) (x : FlowCount) : (s.setFlow n x).jobs = s.jobs := rfl
@[simp] theorem setFlow_odGet (n : Nat) (x : FlowCount) (k1 : Nat) : (s.setFlow n x).odGet k1 = s.odGet k1 := rfl
@[simp] theorem setFlow_odBits (n : Nat) (x : FlowCount) (k1 h1 l1 : Nat) : (s.setFlow n x).odBits k1 h1 l1 = s.odBits k1 h1 l1 := rfl
@[simp] theorem setFlow_odBit (n : Nat) (x : FlowCount) (k1 b1 : Nat) : (s.setFlow n x).odBit k1 b1 = s.odBit k1 b1 := rfl
@[simp] theorem setFlow_g (n : Nat) (x : FlowCount) : (s.setFlow n x).g = s.g := rfl
@[simp] theorem setFlow_ctxAt (n : Nat) (x : FlowCount) (c1 : Nat) : (s.setFlow n x).ctxAt c1 = s.ctxAt c1 := rfl
@[simp] theorem setFlow_guardAt (n : Nat) (x : FlowCount) (p1 : Nat) : (s.setFlow n x).guardAt p1 = s.guardAt p1 := rfl
@[simp] theorem setFlow_accAt (n : Nat) (x : FlowCount) (a1 : Nat) : (s.setFlow n x).accAt a1 = s.accAt a1 := rfl
@[simp] theorem setFlow_live (n : Nat) (x : FlowCount) : (s.setFlow n x).live = s.live := rfl
@[simp] theorem setFlow_hasAccord (n : Nat) (x : FlowCount) (a1 : Nat) : (s.setFlow n x).hasAccord a1 = s.hasAccord a1 := rfl
@[simp] theorem setFlow_isBridge (n : Nat) (x : FlowCount) : (s.setFlow n x).isBridge = s.isBridge := rfl
@[simp] theorem setFlow_wsAt (n : Nat) (x : FlowCount) (n1 : Nat) : (s.setFlow n x).wsAt n1 = s.wsAt n1 := rfl
@[simp] theorem setFlow_portAt (n : Nat) (x : FlowCount) (p1 : Nat) : (s.setFlow n x).portAt p1 = s.portAt p1 := rfl
@[simp] theorem setFlow_runPins (n : Nat) (x : FlowCount) : (s.setFlow n x).runPins = s.runPins := rfl
@[simp] theorem setFlow_stepOf (n : Nat) (x : FlowCount) (c1 : Nat) : (s.setFlow n x).stepOf c1 = s.stepOf c1 := rfl

/-! ### setWindow -/

@[simp] theorem setWindow_pending (p : Nat) (w : Window) : (s.setWindow p w).pending = s.pending := rfl
@[simp] theorem setWindow_free (p : Nat) (w : Window) : (s.setWindow p w).free = s.free := rfl
@[simp] theorem setWindow_od (p : Nat) (w : Window) : (s.setWindow p w).od = s.od := rfl
@[simp] theorem setWindow_seqs (p : Nat) (w : Window) : (s.setWindow p w).seqs = s.seqs := rfl
@[simp] theorem setWindow_time (p : Nat) (w : Window) : (s.setWindow p w).time = s.time := rfl
@[simp] theorem setWindow_blot (p : Nat) (w : Window) : (s.setWindow p w).blot = s.blot := rfl
@[simp] theorem setWindow_recQ (p : Nat) (w : Window) : (s.setWindow p w).recQ = s.recQ := rfl
@[simp] theorem setWindow_unitFences (p : Nat) (w : Window) : (s.setWindow p w).unitFences = s.unitFences := rfl
@[simp] theorem setWindow_granFences (p : Nat) (w : Window) : (s.setWindow p w).granFences = s.granFences := rfl
@[simp] theorem setWindow_granHist (p : Nat) (w : Window) : (s.setWindow p w).granHist = s.granHist := rfl
@[simp] theorem setWindow_unitHist (p : Nat) (w : Window) : (s.setWindow p w).unitHist = s.unitHist := rfl
@[simp] theorem setWindow_ceWin (p : Nat) (w : Window) : (s.setWindow p w).ceWin = s.ceWin := rfl
@[simp] theorem setWindow_heart (p : Nat) (w : Window) : (s.setWindow p w).heart = s.heart := rfl
@[simp] theorem setWindow_base (p : Nat) (w : Window) : (s.setWindow p w).base = s.base := rfl
@[simp] theorem setWindow_heartValid (p : Nat) (w : Window) : (s.setWindow p w).heartValid = s.heartValid := rfl
@[simp] theorem setWindow_baseValid (p : Nat) (w : Window) : (s.setWindow p w).baseValid = s.baseValid := rfl
@[simp] theorem setWindow_fills (p : Nat) (w : Window) : (s.setWindow p w).fills = s.fills := rfl
@[simp] theorem setWindow_scrubL (p : Nat) (w : Window) : (s.setWindow p w).scrubL = s.scrubL := rfl
@[simp] theorem setWindow_scrubPend (p : Nat) (w : Window) : (s.setWindow p w).scrubPend = s.scrubPend := rfl
@[simp] theorem setWindow_wback (p : Nat) (w : Window) : (s.setWindow p w).wback = s.wback := rfl
@[simp] theorem setWindow_chipGrants (p : Nat) (w : Window) : (s.setWindow p w).chipGrants = s.chipGrants := rfl
@[simp] theorem setWindow_acc (p : Nat) (w : Window) : (s.setWindow p w).acc = s.acc := rfl
@[simp] theorem setWindow_codec (p : Nat) (w : Window) : (s.setWindow p w).codec = s.codec := rfl
@[simp] theorem setWindow_guard (p : Nat) (w : Window) : (s.setWindow p w).guard = s.guard := rfl
@[simp] theorem setWindow_ctx (p : Nat) (w : Window) : (s.setWindow p w).ctx = s.ctx := rfl
@[simp] theorem setWindow_cache (p : Nat) (w : Window) : (s.setWindow p w).cache = s.cache := rfl
@[simp] theorem setWindow_marks (p : Nat) (w : Window) : (s.setWindow p w).marks = s.marks := rfl
@[simp] theorem setWindow_heldCompl (p : Nat) (w : Window) : (s.setWindow p w).heldCompl = s.heldCompl := rfl
@[simp] theorem setWindow_noseIn (p : Nat) (w : Window) : (s.setWindow p w).noseIn = s.noseIn := rfl
@[simp] theorem setWindow_ports (p : Nat) (w : Window) : (s.setWindow p w).ports = s.ports := rfl
@[simp] theorem setWindow_flows (p : Nat) (w : Window) : (s.setWindow p w).flows = s.flows := rfl
@[simp] theorem setWindow_flowCache (p : Nat) (w : Window) : (s.setWindow p w).flowCache = s.flowCache := rfl
@[simp] theorem setWindow_outbox (p : Nat) (w : Window) : (s.setWindow p w).outbox = s.outbox := rfl
@[simp] theorem setWindow_inbox (p : Nat) (w : Window) : (s.setWindow p w).inbox = s.inbox := rfl
@[simp] theorem setWindow_unacked (p : Nat) (w : Window) : (s.setWindow p w).unacked = s.unacked := rfl
@[simp] theorem setWindow_bridge (p : Nat) (w : Window) : (s.setWindow p w).bridge = s.bridge := rfl
@[simp] theorem setWindow_i3c (p : Nat) (w : Window) : (s.setWindow p w).i3c = s.i3c := rfl
@[simp] theorem setWindow_mgmt (p : Nat) (w : Window) : (s.setWindow p w).mgmt = s.mgmt := rfl
@[simp] theorem setWindow_wsets (p : Nat) (w : Window) : (s.setWindow p w).wsets = s.wsets := rfl
@[simp] theorem setWindow_sec (p : Nat) (w : Window) : (s.setWindow p w).sec = s.sec := rfl
@[simp] theorem setWindow_fw (p : Nat) (w : Window) : (s.setWindow p w).fw = s.fw := rfl
@[simp] theorem setWindow_pins (p : Nat) (w : Window) : (s.setWindow p w).pins = s.pins := rfl
@[simp] theorem setWindow_jobs (p : Nat) (w : Window) : (s.setWindow p w).jobs = s.jobs := rfl
@[simp] theorem setWindow_odGet (p : Nat) (w : Window) (k1 : Nat) : (s.setWindow p w).odGet k1 = s.odGet k1 := rfl
@[simp] theorem setWindow_odBits (p : Nat) (w : Window) (k1 h1 l1 : Nat) : (s.setWindow p w).odBits k1 h1 l1 = s.odBits k1 h1 l1 := rfl
@[simp] theorem setWindow_odBit (p : Nat) (w : Window) (k1 b1 : Nat) : (s.setWindow p w).odBit k1 b1 = s.odBit k1 b1 := rfl
@[simp] theorem setWindow_g (p : Nat) (w : Window) : (s.setWindow p w).g = s.g := rfl
@[simp] theorem setWindow_ctxAt (p : Nat) (w : Window) (c1 : Nat) : (s.setWindow p w).ctxAt c1 = s.ctxAt c1 := rfl
@[simp] theorem setWindow_guardAt (p : Nat) (w : Window) (p1 : Nat) : (s.setWindow p w).guardAt p1 = s.guardAt p1 := rfl
@[simp] theorem setWindow_accAt (p : Nat) (w : Window) (a1 : Nat) : (s.setWindow p w).accAt a1 = s.accAt a1 := rfl
@[simp] theorem setWindow_live (p : Nat) (w : Window) : (s.setWindow p w).live = s.live := rfl
@[simp] theorem setWindow_hasAccord (p : Nat) (w : Window) (a1 : Nat) : (s.setWindow p w).hasAccord a1 = s.hasAccord a1 := rfl
@[simp] theorem setWindow_isBridge (p : Nat) (w : Window) : (s.setWindow p w).isBridge = s.isBridge := rfl
@[simp] theorem setWindow_wsAt (p : Nat) (w : Window) (n1 : Nat) : (s.setWindow p w).wsAt n1 = s.wsAt n1 := rfl
@[simp] theorem setWindow_portAt (p : Nat) (w : Window) (p1 : Nat) : (s.setWindow p w).portAt p1 = s.portAt p1 := rfl
@[simp] theorem setWindow_runPins (p : Nat) (w : Window) : (s.setWindow p w).runPins = s.runPins := rfl
@[simp] theorem setWindow_stepOf (p : Nat) (w : Window) (c1 : Nat) : (s.setWindow p w).stepOf c1 = s.stepOf c1 := rfl
@[simp] theorem setWindow_flowAt (p : Nat) (w : Window) (a1 : Nat) : (s.setWindow p w).flowAt a1 = s.flowAt a1 := rfl

/-! ### send -/

@[simp] theorem send_pending (p : Packet) : (s.send p).pending = s.pending := rfl
@[simp] theorem send_free (p : Packet) : (s.send p).free = s.free := rfl
@[simp] theorem send_od (p : Packet) : (s.send p).od = s.od := rfl
@[simp] theorem send_seqs (p : Packet) : (s.send p).seqs = s.seqs := rfl
@[simp] theorem send_time (p : Packet) : (s.send p).time = s.time := rfl
@[simp] theorem send_blot (p : Packet) : (s.send p).blot = s.blot := rfl
@[simp] theorem send_windows (p : Packet) : (s.send p).windows = s.windows := rfl
@[simp] theorem send_recQ (p : Packet) : (s.send p).recQ = s.recQ := rfl
@[simp] theorem send_unitFences (p : Packet) : (s.send p).unitFences = s.unitFences := rfl
@[simp] theorem send_granFences (p : Packet) : (s.send p).granFences = s.granFences := rfl
@[simp] theorem send_granHist (p : Packet) : (s.send p).granHist = s.granHist := rfl
@[simp] theorem send_unitHist (p : Packet) : (s.send p).unitHist = s.unitHist := rfl
@[simp] theorem send_ceWin (p : Packet) : (s.send p).ceWin = s.ceWin := rfl
@[simp] theorem send_heart (p : Packet) : (s.send p).heart = s.heart := rfl
@[simp] theorem send_base (p : Packet) : (s.send p).base = s.base := rfl
@[simp] theorem send_heartValid (p : Packet) : (s.send p).heartValid = s.heartValid := rfl
@[simp] theorem send_baseValid (p : Packet) : (s.send p).baseValid = s.baseValid := rfl
@[simp] theorem send_fills (p : Packet) : (s.send p).fills = s.fills := rfl
@[simp] theorem send_scrubL (p : Packet) : (s.send p).scrubL = s.scrubL := rfl
@[simp] theorem send_scrubPend (p : Packet) : (s.send p).scrubPend = s.scrubPend := rfl
@[simp] theorem send_wback (p : Packet) : (s.send p).wback = s.wback := rfl
@[simp] theorem send_chipGrants (p : Packet) : (s.send p).chipGrants = s.chipGrants := rfl
@[simp] theorem send_acc (p : Packet) : (s.send p).acc = s.acc := rfl
@[simp] theorem send_codec (p : Packet) : (s.send p).codec = s.codec := rfl
@[simp] theorem send_guard (p : Packet) : (s.send p).guard = s.guard := rfl
@[simp] theorem send_ctx (p : Packet) : (s.send p).ctx = s.ctx := rfl
@[simp] theorem send_cache (p : Packet) : (s.send p).cache = s.cache := rfl
@[simp] theorem send_marks (p : Packet) : (s.send p).marks = s.marks := rfl
@[simp] theorem send_heldCompl (p : Packet) : (s.send p).heldCompl = s.heldCompl := rfl
@[simp] theorem send_noseIn (p : Packet) : (s.send p).noseIn = s.noseIn := rfl
@[simp] theorem send_ports (p : Packet) : (s.send p).ports = s.ports := rfl
@[simp] theorem send_flows (p : Packet) : (s.send p).flows = s.flows := rfl
@[simp] theorem send_flowCache (p : Packet) : (s.send p).flowCache = s.flowCache := rfl
@[simp] theorem send_inbox (p : Packet) : (s.send p).inbox = s.inbox := rfl
@[simp] theorem send_unacked (p : Packet) : (s.send p).unacked = s.unacked := rfl
@[simp] theorem send_bridge (p : Packet) : (s.send p).bridge = s.bridge := rfl
@[simp] theorem send_i3c (p : Packet) : (s.send p).i3c = s.i3c := rfl
@[simp] theorem send_mgmt (p : Packet) : (s.send p).mgmt = s.mgmt := rfl
@[simp] theorem send_wsets (p : Packet) : (s.send p).wsets = s.wsets := rfl
@[simp] theorem send_sec (p : Packet) : (s.send p).sec = s.sec := rfl
@[simp] theorem send_fw (p : Packet) : (s.send p).fw = s.fw := rfl
@[simp] theorem send_pins (p : Packet) : (s.send p).pins = s.pins := rfl
@[simp] theorem send_jobs (p : Packet) : (s.send p).jobs = s.jobs := rfl
@[simp] theorem send_odGet (p : Packet) (k1 : Nat) : (s.send p).odGet k1 = s.odGet k1 := rfl
@[simp] theorem send_odBits (p : Packet) (k1 h1 l1 : Nat) : (s.send p).odBits k1 h1 l1 = s.odBits k1 h1 l1 := rfl
@[simp] theorem send_odBit (p : Packet) (k1 b1 : Nat) : (s.send p).odBit k1 b1 = s.odBit k1 b1 := rfl
@[simp] theorem send_g (p : Packet) : (s.send p).g = s.g := rfl
@[simp] theorem send_ctxAt (p : Packet) (c1 : Nat) : (s.send p).ctxAt c1 = s.ctxAt c1 := rfl
@[simp] theorem send_guardAt (p : Packet) (p1 : Nat) : (s.send p).guardAt p1 = s.guardAt p1 := rfl
@[simp] theorem send_accAt (p : Packet) (a1 : Nat) : (s.send p).accAt a1 = s.accAt a1 := rfl
@[simp] theorem send_live (p : Packet) : (s.send p).live = s.live := rfl
@[simp] theorem send_hasAccord (p : Packet) (a1 : Nat) : (s.send p).hasAccord a1 = s.hasAccord a1 := rfl
@[simp] theorem send_isBridge (p : Packet) : (s.send p).isBridge = s.isBridge := rfl
@[simp] theorem send_wsAt (p : Packet) (n1 : Nat) : (s.send p).wsAt n1 = s.wsAt n1 := rfl
@[simp] theorem send_portAt (p : Packet) (p1 : Nat) : (s.send p).portAt p1 = s.portAt p1 := rfl
@[simp] theorem send_runPins (p : Packet) : (s.send p).runPins = s.runPins := rfl
@[simp] theorem send_stepOf (p : Packet) (c1 : Nat) : (s.send p).stepOf c1 = s.stepOf c1 := rfl
@[simp] theorem send_flowAt (p : Packet) (a1 : Nat) : (s.send p).flowAt a1 = s.flowAt a1 := rfl

/-! ### takeIn -/

/-- Taking a delivered packet removes it from the inbox and returns credits at a port, and nothing else. -/
theorem takeIn_only (p : Packet) : ∃ q, s.takeIn p = { s with inbox := s.inbox.erase p, ports := q } := by
  simp only [takeIn]
  split
  · unfold freeInput
    split
    · exact ⟨_, rfl⟩
    · exact ⟨_, rfl⟩
  · exact ⟨_, rfl⟩
@[simp] theorem takeIn_inbox (p : Packet) : (s.takeIn p).inbox = s.inbox.erase p := by
  obtain ⟨_, e⟩ := takeIn_only s p; rw [e]
@[simp] theorem takeIn_pending (p : Packet) : (s.takeIn p).pending = s.pending := by
  obtain ⟨_, e⟩ := takeIn_only s p; rw [e]
@[simp] theorem takeIn_free (p : Packet) : (s.takeIn p).free = s.free := by
  obtain ⟨_, e⟩ := takeIn_only s p; rw [e]
@[simp] theorem takeIn_od (p : Packet) : (s.takeIn p).od = s.od := by
  obtain ⟨_, e⟩ := takeIn_only s p; rw [e]
@[simp] theorem takeIn_seqs (p : Packet) : (s.takeIn p).seqs = s.seqs := by
  obtain ⟨_, e⟩ := takeIn_only s p; rw [e]
@[simp] theorem takeIn_time (p : Packet) : (s.takeIn p).time = s.time := by
  obtain ⟨_, e⟩ := takeIn_only s p; rw [e]
@[simp] theorem takeIn_blot (p : Packet) : (s.takeIn p).blot = s.blot := by
  obtain ⟨_, e⟩ := takeIn_only s p; rw [e]
@[simp] theorem takeIn_windows (p : Packet) : (s.takeIn p).windows = s.windows := by
  obtain ⟨_, e⟩ := takeIn_only s p; rw [e]
@[simp] theorem takeIn_recQ (p : Packet) : (s.takeIn p).recQ = s.recQ := by
  obtain ⟨_, e⟩ := takeIn_only s p; rw [e]
@[simp] theorem takeIn_unitFences (p : Packet) : (s.takeIn p).unitFences = s.unitFences := by
  obtain ⟨_, e⟩ := takeIn_only s p; rw [e]
@[simp] theorem takeIn_granFences (p : Packet) : (s.takeIn p).granFences = s.granFences := by
  obtain ⟨_, e⟩ := takeIn_only s p; rw [e]
@[simp] theorem takeIn_granHist (p : Packet) : (s.takeIn p).granHist = s.granHist := by
  obtain ⟨_, e⟩ := takeIn_only s p; rw [e]
@[simp] theorem takeIn_unitHist (p : Packet) : (s.takeIn p).unitHist = s.unitHist := by
  obtain ⟨_, e⟩ := takeIn_only s p; rw [e]
@[simp] theorem takeIn_ceWin (p : Packet) : (s.takeIn p).ceWin = s.ceWin := by
  obtain ⟨_, e⟩ := takeIn_only s p; rw [e]
@[simp] theorem takeIn_heart (p : Packet) : (s.takeIn p).heart = s.heart := by
  obtain ⟨_, e⟩ := takeIn_only s p; rw [e]
@[simp] theorem takeIn_base (p : Packet) : (s.takeIn p).base = s.base := by
  obtain ⟨_, e⟩ := takeIn_only s p; rw [e]
@[simp] theorem takeIn_heartValid (p : Packet) : (s.takeIn p).heartValid = s.heartValid := by
  obtain ⟨_, e⟩ := takeIn_only s p; rw [e]
@[simp] theorem takeIn_baseValid (p : Packet) : (s.takeIn p).baseValid = s.baseValid := by
  obtain ⟨_, e⟩ := takeIn_only s p; rw [e]
@[simp] theorem takeIn_fills (p : Packet) : (s.takeIn p).fills = s.fills := by
  obtain ⟨_, e⟩ := takeIn_only s p; rw [e]
@[simp] theorem takeIn_scrubL (p : Packet) : (s.takeIn p).scrubL = s.scrubL := by
  obtain ⟨_, e⟩ := takeIn_only s p; rw [e]
@[simp] theorem takeIn_scrubPend (p : Packet) : (s.takeIn p).scrubPend = s.scrubPend := by
  obtain ⟨_, e⟩ := takeIn_only s p; rw [e]
@[simp] theorem takeIn_wback (p : Packet) : (s.takeIn p).wback = s.wback := by
  obtain ⟨_, e⟩ := takeIn_only s p; rw [e]
@[simp] theorem takeIn_chipGrants (p : Packet) : (s.takeIn p).chipGrants = s.chipGrants := by
  obtain ⟨_, e⟩ := takeIn_only s p; rw [e]
@[simp] theorem takeIn_acc (p : Packet) : (s.takeIn p).acc = s.acc := by
  obtain ⟨_, e⟩ := takeIn_only s p; rw [e]
@[simp] theorem takeIn_codec (p : Packet) : (s.takeIn p).codec = s.codec := by
  obtain ⟨_, e⟩ := takeIn_only s p; rw [e]
@[simp] theorem takeIn_guard (p : Packet) : (s.takeIn p).guard = s.guard := by
  obtain ⟨_, e⟩ := takeIn_only s p; rw [e]
@[simp] theorem takeIn_ctx (p : Packet) : (s.takeIn p).ctx = s.ctx := by
  obtain ⟨_, e⟩ := takeIn_only s p; rw [e]
@[simp] theorem takeIn_cache (p : Packet) : (s.takeIn p).cache = s.cache := by
  obtain ⟨_, e⟩ := takeIn_only s p; rw [e]
@[simp] theorem takeIn_marks (p : Packet) : (s.takeIn p).marks = s.marks := by
  obtain ⟨_, e⟩ := takeIn_only s p; rw [e]
@[simp] theorem takeIn_heldCompl (p : Packet) : (s.takeIn p).heldCompl = s.heldCompl := by
  obtain ⟨_, e⟩ := takeIn_only s p; rw [e]
@[simp] theorem takeIn_noseIn (p : Packet) : (s.takeIn p).noseIn = s.noseIn := by
  obtain ⟨_, e⟩ := takeIn_only s p; rw [e]
@[simp] theorem takeIn_flows (p : Packet) : (s.takeIn p).flows = s.flows := by
  obtain ⟨_, e⟩ := takeIn_only s p; rw [e]
@[simp] theorem takeIn_flowCache (p : Packet) : (s.takeIn p).flowCache = s.flowCache := by
  obtain ⟨_, e⟩ := takeIn_only s p; rw [e]
@[simp] theorem takeIn_outbox (p : Packet) : (s.takeIn p).outbox = s.outbox := by
  obtain ⟨_, e⟩ := takeIn_only s p; rw [e]
@[simp] theorem takeIn_unacked (p : Packet) : (s.takeIn p).unacked = s.unacked := by
  obtain ⟨_, e⟩ := takeIn_only s p; rw [e]
@[simp] theorem takeIn_bridge (p : Packet) : (s.takeIn p).bridge = s.bridge := by
  obtain ⟨_, e⟩ := takeIn_only s p; rw [e]
@[simp] theorem takeIn_i3c (p : Packet) : (s.takeIn p).i3c = s.i3c := by
  obtain ⟨_, e⟩ := takeIn_only s p; rw [e]
@[simp] theorem takeIn_mgmt (p : Packet) : (s.takeIn p).mgmt = s.mgmt := by
  obtain ⟨_, e⟩ := takeIn_only s p; rw [e]
@[simp] theorem takeIn_wsets (p : Packet) : (s.takeIn p).wsets = s.wsets := by
  obtain ⟨_, e⟩ := takeIn_only s p; rw [e]
@[simp] theorem takeIn_sec (p : Packet) : (s.takeIn p).sec = s.sec := by
  obtain ⟨_, e⟩ := takeIn_only s p; rw [e]
@[simp] theorem takeIn_fw (p : Packet) : (s.takeIn p).fw = s.fw := by
  obtain ⟨_, e⟩ := takeIn_only s p; rw [e]
@[simp] theorem takeIn_pins (p : Packet) : (s.takeIn p).pins = s.pins := by
  obtain ⟨_, e⟩ := takeIn_only s p; rw [e]
@[simp] theorem takeIn_jobs (p : Packet) : (s.takeIn p).jobs = s.jobs := by
  obtain ⟨_, e⟩ := takeIn_only s p; rw [e]
@[simp] theorem takeIn_odGet (p : Packet) (k1 : Nat) : (s.takeIn p).odGet k1 = s.odGet k1 := by
  obtain ⟨_, e⟩ := takeIn_only s p; rw [e]; rfl
@[simp] theorem takeIn_odBits (p : Packet) (k1 h1 l1 : Nat) : (s.takeIn p).odBits k1 h1 l1 = s.odBits k1 h1 l1 := by
  obtain ⟨_, e⟩ := takeIn_only s p; rw [e]; rfl
@[simp] theorem takeIn_odBit (p : Packet) (k1 b1 : Nat) : (s.takeIn p).odBit k1 b1 = s.odBit k1 b1 := by
  obtain ⟨_, e⟩ := takeIn_only s p; rw [e]; rfl
@[simp] theorem takeIn_g (p : Packet) : (s.takeIn p).g = s.g := by
  obtain ⟨_, e⟩ := takeIn_only s p; rw [e]; rfl
@[simp] theorem takeIn_ctxAt (p : Packet) (c1 : Nat) : (s.takeIn p).ctxAt c1 = s.ctxAt c1 := by
  obtain ⟨_, e⟩ := takeIn_only s p; rw [e]; rfl
@[simp] theorem takeIn_guardAt (p : Packet) (p1 : Nat) : (s.takeIn p).guardAt p1 = s.guardAt p1 := by
  obtain ⟨_, e⟩ := takeIn_only s p; rw [e]; rfl
@[simp] theorem takeIn_accAt (p : Packet) (a1 : Nat) : (s.takeIn p).accAt a1 = s.accAt a1 := by
  obtain ⟨_, e⟩ := takeIn_only s p; rw [e]; rfl
@[simp] theorem takeIn_live (p : Packet) : (s.takeIn p).live = s.live := by
  obtain ⟨_, e⟩ := takeIn_only s p; rw [e]; rfl
@[simp] theorem takeIn_hasAccord (p : Packet) (a1 : Nat) : (s.takeIn p).hasAccord a1 = s.hasAccord a1 := by
  obtain ⟨_, e⟩ := takeIn_only s p; rw [e]; rfl
@[simp] theorem takeIn_isBridge (p : Packet) : (s.takeIn p).isBridge = s.isBridge := by
  obtain ⟨_, e⟩ := takeIn_only s p; rw [e]; rfl
@[simp] theorem takeIn_wsAt (p : Packet) (n1 : Nat) : (s.takeIn p).wsAt n1 = s.wsAt n1 := by
  obtain ⟨_, e⟩ := takeIn_only s p; rw [e]; rfl
@[simp] theorem takeIn_runPins (p : Packet) : (s.takeIn p).runPins = s.runPins := by
  obtain ⟨_, e⟩ := takeIn_only s p; rw [e]; rfl
@[simp] theorem takeIn_stepOf (p : Packet) (c1 : Nat) : (s.takeIn p).stepOf c1 = s.stepOf c1 := by
  obtain ⟨_, e⟩ := takeIn_only s p; rw [e]; rfl
@[simp] theorem takeIn_flowAt (p : Packet) (a1 : Nat) : (s.takeIn p).flowAt a1 = s.flowAt a1 := by
  obtain ⟨_, e⟩ := takeIn_only s p; rw [e]; rfl

/-! ### flashJob -/

@[simp] theorem flashJob_pending (j : FlashJob) : (s.flashJob j).pending = s.pending := rfl
@[simp] theorem flashJob_free (j : FlashJob) : (s.flashJob j).free = s.free := rfl
@[simp] theorem flashJob_od (j : FlashJob) : (s.flashJob j).od = s.od := rfl
@[simp] theorem flashJob_seqs (j : FlashJob) : (s.flashJob j).seqs = s.seqs := rfl
@[simp] theorem flashJob_time (j : FlashJob) : (s.flashJob j).time = s.time := rfl
@[simp] theorem flashJob_blot (j : FlashJob) : (s.flashJob j).blot = s.blot := rfl
@[simp] theorem flashJob_windows (j : FlashJob) : (s.flashJob j).windows = s.windows := rfl
@[simp] theorem flashJob_recQ (j : FlashJob) : (s.flashJob j).recQ = s.recQ := rfl
@[simp] theorem flashJob_unitFences (j : FlashJob) : (s.flashJob j).unitFences = s.unitFences := rfl
@[simp] theorem flashJob_granFences (j : FlashJob) : (s.flashJob j).granFences = s.granFences := rfl
@[simp] theorem flashJob_granHist (j : FlashJob) : (s.flashJob j).granHist = s.granHist := rfl
@[simp] theorem flashJob_unitHist (j : FlashJob) : (s.flashJob j).unitHist = s.unitHist := rfl
@[simp] theorem flashJob_ceWin (j : FlashJob) : (s.flashJob j).ceWin = s.ceWin := rfl
@[simp] theorem flashJob_heart (j : FlashJob) : (s.flashJob j).heart = s.heart := rfl
@[simp] theorem flashJob_base (j : FlashJob) : (s.flashJob j).base = s.base := rfl
@[simp] theorem flashJob_heartValid (j : FlashJob) : (s.flashJob j).heartValid = s.heartValid := rfl
@[simp] theorem flashJob_baseValid (j : FlashJob) : (s.flashJob j).baseValid = s.baseValid := rfl
@[simp] theorem flashJob_fills (j : FlashJob) : (s.flashJob j).fills = s.fills := rfl
@[simp] theorem flashJob_scrubL (j : FlashJob) : (s.flashJob j).scrubL = s.scrubL := rfl
@[simp] theorem flashJob_scrubPend (j : FlashJob) : (s.flashJob j).scrubPend = s.scrubPend := rfl
@[simp] theorem flashJob_wback (j : FlashJob) : (s.flashJob j).wback = s.wback := rfl
@[simp] theorem flashJob_chipGrants (j : FlashJob) : (s.flashJob j).chipGrants = s.chipGrants := rfl
@[simp] theorem flashJob_acc (j : FlashJob) : (s.flashJob j).acc = s.acc := rfl
@[simp] theorem flashJob_codec (j : FlashJob) : (s.flashJob j).codec = s.codec := rfl
@[simp] theorem flashJob_guard (j : FlashJob) : (s.flashJob j).guard = s.guard := rfl
@[simp] theorem flashJob_ctx (j : FlashJob) : (s.flashJob j).ctx = s.ctx := rfl
@[simp] theorem flashJob_cache (j : FlashJob) : (s.flashJob j).cache = s.cache := rfl
@[simp] theorem flashJob_marks (j : FlashJob) : (s.flashJob j).marks = s.marks := rfl
@[simp] theorem flashJob_heldCompl (j : FlashJob) : (s.flashJob j).heldCompl = s.heldCompl := rfl
@[simp] theorem flashJob_noseIn (j : FlashJob) : (s.flashJob j).noseIn = s.noseIn := rfl
@[simp] theorem flashJob_ports (j : FlashJob) : (s.flashJob j).ports = s.ports := rfl
@[simp] theorem flashJob_flows (j : FlashJob) : (s.flashJob j).flows = s.flows := rfl
@[simp] theorem flashJob_flowCache (j : FlashJob) : (s.flashJob j).flowCache = s.flowCache := rfl
@[simp] theorem flashJob_outbox (j : FlashJob) : (s.flashJob j).outbox = s.outbox := rfl
@[simp] theorem flashJob_inbox (j : FlashJob) : (s.flashJob j).inbox = s.inbox := rfl
@[simp] theorem flashJob_unacked (j : FlashJob) : (s.flashJob j).unacked = s.unacked := rfl
@[simp] theorem flashJob_bridge (j : FlashJob) : (s.flashJob j).bridge = s.bridge := rfl
@[simp] theorem flashJob_i3c (j : FlashJob) : (s.flashJob j).i3c = s.i3c := rfl
@[simp] theorem flashJob_mgmt (j : FlashJob) : (s.flashJob j).mgmt = s.mgmt := rfl
@[simp] theorem flashJob_wsets (j : FlashJob) : (s.flashJob j).wsets = s.wsets := rfl
@[simp] theorem flashJob_sec (j : FlashJob) : (s.flashJob j).sec = s.sec := rfl
@[simp] theorem flashJob_pins (j : FlashJob) : (s.flashJob j).pins = s.pins := rfl
@[simp] theorem flashJob_jobs (j : FlashJob) : (s.flashJob j).jobs = s.jobs := rfl
@[simp] theorem flashJob_odGet (j : FlashJob) (k1 : Nat) : (s.flashJob j).odGet k1 = s.odGet k1 := rfl
@[simp] theorem flashJob_odBits (j : FlashJob) (k1 h1 l1 : Nat) : (s.flashJob j).odBits k1 h1 l1 = s.odBits k1 h1 l1 := rfl
@[simp] theorem flashJob_odBit (j : FlashJob) (k1 b1 : Nat) : (s.flashJob j).odBit k1 b1 = s.odBit k1 b1 := rfl
@[simp] theorem flashJob_g (j : FlashJob) : (s.flashJob j).g = s.g := rfl
@[simp] theorem flashJob_ctxAt (j : FlashJob) (c1 : Nat) : (s.flashJob j).ctxAt c1 = s.ctxAt c1 := rfl
@[simp] theorem flashJob_guardAt (j : FlashJob) (p1 : Nat) : (s.flashJob j).guardAt p1 = s.guardAt p1 := rfl
@[simp] theorem flashJob_accAt (j : FlashJob) (a1 : Nat) : (s.flashJob j).accAt a1 = s.accAt a1 := rfl
@[simp] theorem flashJob_live (j : FlashJob) : (s.flashJob j).live = s.live := rfl
@[simp] theorem flashJob_hasAccord (j : FlashJob) (a1 : Nat) : (s.flashJob j).hasAccord a1 = s.hasAccord a1 := rfl
@[simp] theorem flashJob_isBridge (j : FlashJob) : (s.flashJob j).isBridge = s.isBridge := rfl
@[simp] theorem flashJob_wsAt (j : FlashJob) (n1 : Nat) : (s.flashJob j).wsAt n1 = s.wsAt n1 := rfl
@[simp] theorem flashJob_portAt (j : FlashJob) (p1 : Nat) : (s.flashJob j).portAt p1 = s.portAt p1 := rfl
@[simp] theorem flashJob_runPins (j : FlashJob) : (s.flashJob j).runPins = s.runPins := rfl
@[simp] theorem flashJob_stepOf (j : FlashJob) (c1 : Nat) : (s.flashJob j).stepOf c1 = s.stepOf c1 := rfl
@[simp] theorem flashJob_flowAt (j : FlashJob) (a1 : Nat) : (s.flashJob j).flowAt a1 = s.flowAt a1 := rfl

/-! ### answer -/

@[simp] theorem answer_pending (st : Nat) (bs : List Byte) : (s.answer st bs).pending = s.pending := rfl
@[simp] theorem answer_free (st : Nat) (bs : List Byte) : (s.answer st bs).free = s.free := rfl
@[simp] theorem answer_od (st : Nat) (bs : List Byte) : (s.answer st bs).od = s.od := rfl
@[simp] theorem answer_seqs (st : Nat) (bs : List Byte) : (s.answer st bs).seqs = s.seqs := rfl
@[simp] theorem answer_time (st : Nat) (bs : List Byte) : (s.answer st bs).time = s.time := rfl
@[simp] theorem answer_blot (st : Nat) (bs : List Byte) : (s.answer st bs).blot = s.blot := rfl
@[simp] theorem answer_windows (st : Nat) (bs : List Byte) : (s.answer st bs).windows = s.windows := rfl
@[simp] theorem answer_recQ (st : Nat) (bs : List Byte) : (s.answer st bs).recQ = s.recQ := rfl
@[simp] theorem answer_unitFences (st : Nat) (bs : List Byte) : (s.answer st bs).unitFences = s.unitFences := rfl
@[simp] theorem answer_granFences (st : Nat) (bs : List Byte) : (s.answer st bs).granFences = s.granFences := rfl
@[simp] theorem answer_granHist (st : Nat) (bs : List Byte) : (s.answer st bs).granHist = s.granHist := rfl
@[simp] theorem answer_unitHist (st : Nat) (bs : List Byte) : (s.answer st bs).unitHist = s.unitHist := rfl
@[simp] theorem answer_ceWin (st : Nat) (bs : List Byte) : (s.answer st bs).ceWin = s.ceWin := rfl
@[simp] theorem answer_heart (st : Nat) (bs : List Byte) : (s.answer st bs).heart = s.heart := rfl
@[simp] theorem answer_base (st : Nat) (bs : List Byte) : (s.answer st bs).base = s.base := rfl
@[simp] theorem answer_heartValid (st : Nat) (bs : List Byte) : (s.answer st bs).heartValid = s.heartValid := rfl
@[simp] theorem answer_baseValid (st : Nat) (bs : List Byte) : (s.answer st bs).baseValid = s.baseValid := rfl
@[simp] theorem answer_fills (st : Nat) (bs : List Byte) : (s.answer st bs).fills = s.fills := rfl
@[simp] theorem answer_scrubL (st : Nat) (bs : List Byte) : (s.answer st bs).scrubL = s.scrubL := rfl
@[simp] theorem answer_scrubPend (st : Nat) (bs : List Byte) : (s.answer st bs).scrubPend = s.scrubPend := rfl
@[simp] theorem answer_wback (st : Nat) (bs : List Byte) : (s.answer st bs).wback = s.wback := rfl
@[simp] theorem answer_chipGrants (st : Nat) (bs : List Byte) : (s.answer st bs).chipGrants = s.chipGrants := rfl
@[simp] theorem answer_acc (st : Nat) (bs : List Byte) : (s.answer st bs).acc = s.acc := rfl
@[simp] theorem answer_codec (st : Nat) (bs : List Byte) : (s.answer st bs).codec = s.codec := rfl
@[simp] theorem answer_guard (st : Nat) (bs : List Byte) : (s.answer st bs).guard = s.guard := rfl
@[simp] theorem answer_ctx (st : Nat) (bs : List Byte) : (s.answer st bs).ctx = s.ctx := rfl
@[simp] theorem answer_cache (st : Nat) (bs : List Byte) : (s.answer st bs).cache = s.cache := rfl
@[simp] theorem answer_marks (st : Nat) (bs : List Byte) : (s.answer st bs).marks = s.marks := rfl
@[simp] theorem answer_heldCompl (st : Nat) (bs : List Byte) : (s.answer st bs).heldCompl = s.heldCompl := rfl
@[simp] theorem answer_noseIn (st : Nat) (bs : List Byte) : (s.answer st bs).noseIn = s.noseIn := rfl
@[simp] theorem answer_ports (st : Nat) (bs : List Byte) : (s.answer st bs).ports = s.ports := rfl
@[simp] theorem answer_flows (st : Nat) (bs : List Byte) : (s.answer st bs).flows = s.flows := rfl
@[simp] theorem answer_flowCache (st : Nat) (bs : List Byte) : (s.answer st bs).flowCache = s.flowCache := rfl
@[simp] theorem answer_outbox (st : Nat) (bs : List Byte) : (s.answer st bs).outbox = s.outbox := rfl
@[simp] theorem answer_inbox (st : Nat) (bs : List Byte) : (s.answer st bs).inbox = s.inbox := rfl
@[simp] theorem answer_unacked (st : Nat) (bs : List Byte) : (s.answer st bs).unacked = s.unacked := rfl
@[simp] theorem answer_bridge (st : Nat) (bs : List Byte) : (s.answer st bs).bridge = s.bridge := rfl
@[simp] theorem answer_i3c (st : Nat) (bs : List Byte) : (s.answer st bs).i3c = s.i3c := rfl
@[simp] theorem answer_wsets (st : Nat) (bs : List Byte) : (s.answer st bs).wsets = s.wsets := rfl
@[simp] theorem answer_sec (st : Nat) (bs : List Byte) : (s.answer st bs).sec = s.sec := rfl
@[simp] theorem answer_fw (st : Nat) (bs : List Byte) : (s.answer st bs).fw = s.fw := rfl
@[simp] theorem answer_pins (st : Nat) (bs : List Byte) : (s.answer st bs).pins = s.pins := rfl
@[simp] theorem answer_jobs (st : Nat) (bs : List Byte) : (s.answer st bs).jobs = s.jobs := rfl
@[simp] theorem answer_odGet (st : Nat) (bs : List Byte) (k1 : Nat) : (s.answer st bs).odGet k1 = s.odGet k1 := rfl
@[simp] theorem answer_odBits (st : Nat) (bs : List Byte) (k1 h1 l1 : Nat) : (s.answer st bs).odBits k1 h1 l1 = s.odBits k1 h1 l1 := rfl
@[simp] theorem answer_odBit (st : Nat) (bs : List Byte) (k1 b1 : Nat) : (s.answer st bs).odBit k1 b1 = s.odBit k1 b1 := rfl
@[simp] theorem answer_g (st : Nat) (bs : List Byte) : (s.answer st bs).g = s.g := rfl
@[simp] theorem answer_ctxAt (st : Nat) (bs : List Byte) (c1 : Nat) : (s.answer st bs).ctxAt c1 = s.ctxAt c1 := rfl
@[simp] theorem answer_guardAt (st : Nat) (bs : List Byte) (p1 : Nat) : (s.answer st bs).guardAt p1 = s.guardAt p1 := rfl
@[simp] theorem answer_accAt (st : Nat) (bs : List Byte) (a1 : Nat) : (s.answer st bs).accAt a1 = s.accAt a1 := rfl
@[simp] theorem answer_live (st : Nat) (bs : List Byte) : (s.answer st bs).live = s.live := rfl
@[simp] theorem answer_hasAccord (st : Nat) (bs : List Byte) (a1 : Nat) : (s.answer st bs).hasAccord a1 = s.hasAccord a1 := rfl
@[simp] theorem answer_isBridge (st : Nat) (bs : List Byte) : (s.answer st bs).isBridge = s.isBridge := rfl
@[simp] theorem answer_wsAt (st : Nat) (bs : List Byte) (n1 : Nat) : (s.answer st bs).wsAt n1 = s.wsAt n1 := rfl
@[simp] theorem answer_portAt (st : Nat) (bs : List Byte) (p1 : Nat) : (s.answer st bs).portAt p1 = s.portAt p1 := rfl
@[simp] theorem answer_runPins (st : Nat) (bs : List Byte) : (s.answer st bs).runPins = s.runPins := rfl
@[simp] theorem answer_stepOf (st : Nat) (bs : List Byte) (c1 : Nat) : (s.answer st bs).stepOf c1 = s.stepOf c1 := rfl
@[simp] theorem answer_flowAt (st : Nat) (bs : List Byte) (a1 : Nat) : (s.answer st bs).flowAt a1 = s.flowAt a1 := rfl

/-! ### modPort -/

@[simp] theorem modPort_pending (p : Nat) (f : Port → Port) : (s.modPort p f).pending = s.pending := rfl
@[simp] theorem modPort_free (p : Nat) (f : Port → Port) : (s.modPort p f).free = s.free := rfl
@[simp] theorem modPort_od (p : Nat) (f : Port → Port) : (s.modPort p f).od = s.od := rfl
@[simp] theorem modPort_seqs (p : Nat) (f : Port → Port) : (s.modPort p f).seqs = s.seqs := rfl
@[simp] theorem modPort_time (p : Nat) (f : Port → Port) : (s.modPort p f).time = s.time := rfl
@[simp] theorem modPort_blot (p : Nat) (f : Port → Port) : (s.modPort p f).blot = s.blot := rfl
@[simp] theorem modPort_windows (p : Nat) (f : Port → Port) : (s.modPort p f).windows = s.windows := rfl
@[simp] theorem modPort_recQ (p : Nat) (f : Port → Port) : (s.modPort p f).recQ = s.recQ := rfl
@[simp] theorem modPort_unitFences (p : Nat) (f : Port → Port) : (s.modPort p f).unitFences = s.unitFences := rfl
@[simp] theorem modPort_granFences (p : Nat) (f : Port → Port) : (s.modPort p f).granFences = s.granFences := rfl
@[simp] theorem modPort_granHist (p : Nat) (f : Port → Port) : (s.modPort p f).granHist = s.granHist := rfl
@[simp] theorem modPort_unitHist (p : Nat) (f : Port → Port) : (s.modPort p f).unitHist = s.unitHist := rfl
@[simp] theorem modPort_ceWin (p : Nat) (f : Port → Port) : (s.modPort p f).ceWin = s.ceWin := rfl
@[simp] theorem modPort_heart (p : Nat) (f : Port → Port) : (s.modPort p f).heart = s.heart := rfl
@[simp] theorem modPort_base (p : Nat) (f : Port → Port) : (s.modPort p f).base = s.base := rfl
@[simp] theorem modPort_heartValid (p : Nat) (f : Port → Port) : (s.modPort p f).heartValid = s.heartValid := rfl
@[simp] theorem modPort_baseValid (p : Nat) (f : Port → Port) : (s.modPort p f).baseValid = s.baseValid := rfl
@[simp] theorem modPort_fills (p : Nat) (f : Port → Port) : (s.modPort p f).fills = s.fills := rfl
@[simp] theorem modPort_scrubL (p : Nat) (f : Port → Port) : (s.modPort p f).scrubL = s.scrubL := rfl
@[simp] theorem modPort_scrubPend (p : Nat) (f : Port → Port) : (s.modPort p f).scrubPend = s.scrubPend := rfl
@[simp] theorem modPort_wback (p : Nat) (f : Port → Port) : (s.modPort p f).wback = s.wback := rfl
@[simp] theorem modPort_chipGrants (p : Nat) (f : Port → Port) : (s.modPort p f).chipGrants = s.chipGrants := rfl
@[simp] theorem modPort_acc (p : Nat) (f : Port → Port) : (s.modPort p f).acc = s.acc := rfl
@[simp] theorem modPort_codec (p : Nat) (f : Port → Port) : (s.modPort p f).codec = s.codec := rfl
@[simp] theorem modPort_guard (p : Nat) (f : Port → Port) : (s.modPort p f).guard = s.guard := rfl
@[simp] theorem modPort_ctx (p : Nat) (f : Port → Port) : (s.modPort p f).ctx = s.ctx := rfl
@[simp] theorem modPort_cache (p : Nat) (f : Port → Port) : (s.modPort p f).cache = s.cache := rfl
@[simp] theorem modPort_marks (p : Nat) (f : Port → Port) : (s.modPort p f).marks = s.marks := rfl
@[simp] theorem modPort_heldCompl (p : Nat) (f : Port → Port) : (s.modPort p f).heldCompl = s.heldCompl := rfl
@[simp] theorem modPort_noseIn (p : Nat) (f : Port → Port) : (s.modPort p f).noseIn = s.noseIn := rfl
@[simp] theorem modPort_flows (p : Nat) (f : Port → Port) : (s.modPort p f).flows = s.flows := rfl
@[simp] theorem modPort_flowCache (p : Nat) (f : Port → Port) : (s.modPort p f).flowCache = s.flowCache := rfl
@[simp] theorem modPort_outbox (p : Nat) (f : Port → Port) : (s.modPort p f).outbox = s.outbox := rfl
@[simp] theorem modPort_inbox (p : Nat) (f : Port → Port) : (s.modPort p f).inbox = s.inbox := rfl
@[simp] theorem modPort_unacked (p : Nat) (f : Port → Port) : (s.modPort p f).unacked = s.unacked := rfl
@[simp] theorem modPort_bridge (p : Nat) (f : Port → Port) : (s.modPort p f).bridge = s.bridge := rfl
@[simp] theorem modPort_i3c (p : Nat) (f : Port → Port) : (s.modPort p f).i3c = s.i3c := rfl
@[simp] theorem modPort_mgmt (p : Nat) (f : Port → Port) : (s.modPort p f).mgmt = s.mgmt := rfl
@[simp] theorem modPort_wsets (p : Nat) (f : Port → Port) : (s.modPort p f).wsets = s.wsets := rfl
@[simp] theorem modPort_sec (p : Nat) (f : Port → Port) : (s.modPort p f).sec = s.sec := rfl
@[simp] theorem modPort_fw (p : Nat) (f : Port → Port) : (s.modPort p f).fw = s.fw := rfl
@[simp] theorem modPort_pins (p : Nat) (f : Port → Port) : (s.modPort p f).pins = s.pins := rfl
@[simp] theorem modPort_jobs (p : Nat) (f : Port → Port) : (s.modPort p f).jobs = s.jobs := rfl
@[simp] theorem modPort_odGet (p : Nat) (f : Port → Port) (k1 : Nat) : (s.modPort p f).odGet k1 = s.odGet k1 := rfl
@[simp] theorem modPort_odBits (p : Nat) (f : Port → Port) (k1 h1 l1 : Nat) : (s.modPort p f).odBits k1 h1 l1 = s.odBits k1 h1 l1 := rfl
@[simp] theorem modPort_odBit (p : Nat) (f : Port → Port) (k1 b1 : Nat) : (s.modPort p f).odBit k1 b1 = s.odBit k1 b1 := rfl
@[simp] theorem modPort_g (p : Nat) (f : Port → Port) : (s.modPort p f).g = s.g := rfl
@[simp] theorem modPort_ctxAt (p : Nat) (f : Port → Port) (c1 : Nat) : (s.modPort p f).ctxAt c1 = s.ctxAt c1 := rfl
@[simp] theorem modPort_guardAt (p : Nat) (f : Port → Port) (p1 : Nat) : (s.modPort p f).guardAt p1 = s.guardAt p1 := rfl
@[simp] theorem modPort_accAt (p : Nat) (f : Port → Port) (a1 : Nat) : (s.modPort p f).accAt a1 = s.accAt a1 := rfl
@[simp] theorem modPort_live (p : Nat) (f : Port → Port) : (s.modPort p f).live = s.live := rfl
@[simp] theorem modPort_hasAccord (p : Nat) (f : Port → Port) (a1 : Nat) : (s.modPort p f).hasAccord a1 = s.hasAccord a1 := rfl
@[simp] theorem modPort_isBridge (p : Nat) (f : Port → Port) : (s.modPort p f).isBridge = s.isBridge := rfl
@[simp] theorem modPort_wsAt (p : Nat) (f : Port → Port) (n1 : Nat) : (s.modPort p f).wsAt n1 = s.wsAt n1 := rfl
@[simp] theorem modPort_runPins (p : Nat) (f : Port → Port) : (s.modPort p f).runPins = s.runPins := rfl
@[simp] theorem modPort_stepOf (p : Nat) (f : Port → Port) (c1 : Nat) : (s.modPort p f).stepOf c1 = s.stepOf c1 := rfl
@[simp] theorem modPort_flowAt (p : Nat) (f : Port → Port) (a1 : Nat) : (s.modPort p f).flowAt a1 = s.flowAt a1 := rfl

/-! ### modWs -/

@[simp] theorem modWs_pending (n : Nat) (f : WeightSet → WeightSet) : (s.modWs n f).pending = s.pending := rfl
@[simp] theorem modWs_free (n : Nat) (f : WeightSet → WeightSet) : (s.modWs n f).free = s.free := rfl
@[simp] theorem modWs_od (n : Nat) (f : WeightSet → WeightSet) : (s.modWs n f).od = s.od := rfl
@[simp] theorem modWs_seqs (n : Nat) (f : WeightSet → WeightSet) : (s.modWs n f).seqs = s.seqs := rfl
@[simp] theorem modWs_time (n : Nat) (f : WeightSet → WeightSet) : (s.modWs n f).time = s.time := rfl
@[simp] theorem modWs_blot (n : Nat) (f : WeightSet → WeightSet) : (s.modWs n f).blot = s.blot := rfl
@[simp] theorem modWs_windows (n : Nat) (f : WeightSet → WeightSet) : (s.modWs n f).windows = s.windows := rfl
@[simp] theorem modWs_recQ (n : Nat) (f : WeightSet → WeightSet) : (s.modWs n f).recQ = s.recQ := rfl
@[simp] theorem modWs_unitFences (n : Nat) (f : WeightSet → WeightSet) : (s.modWs n f).unitFences = s.unitFences := rfl
@[simp] theorem modWs_granFences (n : Nat) (f : WeightSet → WeightSet) : (s.modWs n f).granFences = s.granFences := rfl
@[simp] theorem modWs_granHist (n : Nat) (f : WeightSet → WeightSet) : (s.modWs n f).granHist = s.granHist := rfl
@[simp] theorem modWs_unitHist (n : Nat) (f : WeightSet → WeightSet) : (s.modWs n f).unitHist = s.unitHist := rfl
@[simp] theorem modWs_ceWin (n : Nat) (f : WeightSet → WeightSet) : (s.modWs n f).ceWin = s.ceWin := rfl
@[simp] theorem modWs_heart (n : Nat) (f : WeightSet → WeightSet) : (s.modWs n f).heart = s.heart := rfl
@[simp] theorem modWs_base (n : Nat) (f : WeightSet → WeightSet) : (s.modWs n f).base = s.base := rfl
@[simp] theorem modWs_heartValid (n : Nat) (f : WeightSet → WeightSet) : (s.modWs n f).heartValid = s.heartValid := rfl
@[simp] theorem modWs_baseValid (n : Nat) (f : WeightSet → WeightSet) : (s.modWs n f).baseValid = s.baseValid := rfl
@[simp] theorem modWs_fills (n : Nat) (f : WeightSet → WeightSet) : (s.modWs n f).fills = s.fills := rfl
@[simp] theorem modWs_scrubL (n : Nat) (f : WeightSet → WeightSet) : (s.modWs n f).scrubL = s.scrubL := rfl
@[simp] theorem modWs_scrubPend (n : Nat) (f : WeightSet → WeightSet) : (s.modWs n f).scrubPend = s.scrubPend := rfl
@[simp] theorem modWs_wback (n : Nat) (f : WeightSet → WeightSet) : (s.modWs n f).wback = s.wback := rfl
@[simp] theorem modWs_chipGrants (n : Nat) (f : WeightSet → WeightSet) : (s.modWs n f).chipGrants = s.chipGrants := rfl
@[simp] theorem modWs_acc (n : Nat) (f : WeightSet → WeightSet) : (s.modWs n f).acc = s.acc := rfl
@[simp] theorem modWs_codec (n : Nat) (f : WeightSet → WeightSet) : (s.modWs n f).codec = s.codec := rfl
@[simp] theorem modWs_guard (n : Nat) (f : WeightSet → WeightSet) : (s.modWs n f).guard = s.guard := rfl
@[simp] theorem modWs_ctx (n : Nat) (f : WeightSet → WeightSet) : (s.modWs n f).ctx = s.ctx := rfl
@[simp] theorem modWs_cache (n : Nat) (f : WeightSet → WeightSet) : (s.modWs n f).cache = s.cache := rfl
@[simp] theorem modWs_marks (n : Nat) (f : WeightSet → WeightSet) : (s.modWs n f).marks = s.marks := rfl
@[simp] theorem modWs_heldCompl (n : Nat) (f : WeightSet → WeightSet) : (s.modWs n f).heldCompl = s.heldCompl := rfl
@[simp] theorem modWs_noseIn (n : Nat) (f : WeightSet → WeightSet) : (s.modWs n f).noseIn = s.noseIn := rfl
@[simp] theorem modWs_ports (n : Nat) (f : WeightSet → WeightSet) : (s.modWs n f).ports = s.ports := rfl
@[simp] theorem modWs_flows (n : Nat) (f : WeightSet → WeightSet) : (s.modWs n f).flows = s.flows := rfl
@[simp] theorem modWs_flowCache (n : Nat) (f : WeightSet → WeightSet) : (s.modWs n f).flowCache = s.flowCache := rfl
@[simp] theorem modWs_outbox (n : Nat) (f : WeightSet → WeightSet) : (s.modWs n f).outbox = s.outbox := rfl
@[simp] theorem modWs_inbox (n : Nat) (f : WeightSet → WeightSet) : (s.modWs n f).inbox = s.inbox := rfl
@[simp] theorem modWs_unacked (n : Nat) (f : WeightSet → WeightSet) : (s.modWs n f).unacked = s.unacked := rfl
@[simp] theorem modWs_bridge (n : Nat) (f : WeightSet → WeightSet) : (s.modWs n f).bridge = s.bridge := rfl
@[simp] theorem modWs_i3c (n : Nat) (f : WeightSet → WeightSet) : (s.modWs n f).i3c = s.i3c := rfl
@[simp] theorem modWs_mgmt (n : Nat) (f : WeightSet → WeightSet) : (s.modWs n f).mgmt = s.mgmt := rfl
@[simp] theorem modWs_sec (n : Nat) (f : WeightSet → WeightSet) : (s.modWs n f).sec = s.sec := rfl
@[simp] theorem modWs_fw (n : Nat) (f : WeightSet → WeightSet) : (s.modWs n f).fw = s.fw := rfl
@[simp] theorem modWs_pins (n : Nat) (f : WeightSet → WeightSet) : (s.modWs n f).pins = s.pins := rfl
@[simp] theorem modWs_jobs (n : Nat) (f : WeightSet → WeightSet) : (s.modWs n f).jobs = s.jobs := rfl
@[simp] theorem modWs_odGet (n : Nat) (f : WeightSet → WeightSet) (k1 : Nat) : (s.modWs n f).odGet k1 = s.odGet k1 := rfl
@[simp] theorem modWs_odBits (n : Nat) (f : WeightSet → WeightSet) (k1 h1 l1 : Nat) : (s.modWs n f).odBits k1 h1 l1 = s.odBits k1 h1 l1 := rfl
@[simp] theorem modWs_odBit (n : Nat) (f : WeightSet → WeightSet) (k1 b1 : Nat) : (s.modWs n f).odBit k1 b1 = s.odBit k1 b1 := rfl
@[simp] theorem modWs_g (n : Nat) (f : WeightSet → WeightSet) : (s.modWs n f).g = s.g := rfl
@[simp] theorem modWs_ctxAt (n : Nat) (f : WeightSet → WeightSet) (c1 : Nat) : (s.modWs n f).ctxAt c1 = s.ctxAt c1 := rfl
@[simp] theorem modWs_guardAt (n : Nat) (f : WeightSet → WeightSet) (p1 : Nat) : (s.modWs n f).guardAt p1 = s.guardAt p1 := rfl
@[simp] theorem modWs_accAt (n : Nat) (f : WeightSet → WeightSet) (a1 : Nat) : (s.modWs n f).accAt a1 = s.accAt a1 := rfl
@[simp] theorem modWs_live (n : Nat) (f : WeightSet → WeightSet) : (s.modWs n f).live = s.live := rfl
@[simp] theorem modWs_hasAccord (n : Nat) (f : WeightSet → WeightSet) (a1 : Nat) : (s.modWs n f).hasAccord a1 = s.hasAccord a1 := rfl
@[simp] theorem modWs_isBridge (n : Nat) (f : WeightSet → WeightSet) : (s.modWs n f).isBridge = s.isBridge := rfl
@[simp] theorem modWs_portAt (n : Nat) (f : WeightSet → WeightSet) (p1 : Nat) : (s.modWs n f).portAt p1 = s.portAt p1 := rfl
@[simp] theorem modWs_runPins (n : Nat) (f : WeightSet → WeightSet) : (s.modWs n f).runPins = s.runPins := rfl
@[simp] theorem modWs_stepOf (n : Nat) (f : WeightSet → WeightSet) (c1 : Nat) : (s.modWs n f).stepOf c1 = s.stepOf c1 := rfl
@[simp] theorem modWs_flowAt (n : Nat) (f : WeightSet → WeightSet) (a1 : Nat) : (s.modWs n f).flowAt a1 = s.flowAt a1 := rfl

/-! ### sramPut -/

@[simp] theorem sramPut_pending (a : Nat) (bs : List Byte) : (s.sramPut a bs).pending = s.pending := rfl
@[simp] theorem sramPut_free (a : Nat) (bs : List Byte) : (s.sramPut a bs).free = s.free := rfl
@[simp] theorem sramPut_od (a : Nat) (bs : List Byte) : (s.sramPut a bs).od = s.od := rfl
@[simp] theorem sramPut_seqs (a : Nat) (bs : List Byte) : (s.sramPut a bs).seqs = s.seqs := rfl
@[simp] theorem sramPut_time (a : Nat) (bs : List Byte) : (s.sramPut a bs).time = s.time := rfl
@[simp] theorem sramPut_blot (a : Nat) (bs : List Byte) : (s.sramPut a bs).blot = s.blot := rfl
@[simp] theorem sramPut_windows (a : Nat) (bs : List Byte) : (s.sramPut a bs).windows = s.windows := rfl
@[simp] theorem sramPut_recQ (a : Nat) (bs : List Byte) : (s.sramPut a bs).recQ = s.recQ := rfl
@[simp] theorem sramPut_unitFences (a : Nat) (bs : List Byte) : (s.sramPut a bs).unitFences = s.unitFences := rfl
@[simp] theorem sramPut_granFences (a : Nat) (bs : List Byte) : (s.sramPut a bs).granFences = s.granFences := rfl
@[simp] theorem sramPut_granHist (a : Nat) (bs : List Byte) : (s.sramPut a bs).granHist = s.granHist := rfl
@[simp] theorem sramPut_unitHist (a : Nat) (bs : List Byte) : (s.sramPut a bs).unitHist = s.unitHist := rfl
@[simp] theorem sramPut_ceWin (a : Nat) (bs : List Byte) : (s.sramPut a bs).ceWin = s.ceWin := rfl
@[simp] theorem sramPut_heart (a : Nat) (bs : List Byte) : (s.sramPut a bs).heart = s.heart := rfl
@[simp] theorem sramPut_base (a : Nat) (bs : List Byte) : (s.sramPut a bs).base = s.base := rfl
@[simp] theorem sramPut_heartValid (a : Nat) (bs : List Byte) : (s.sramPut a bs).heartValid = s.heartValid := rfl
@[simp] theorem sramPut_baseValid (a : Nat) (bs : List Byte) : (s.sramPut a bs).baseValid = s.baseValid := rfl
@[simp] theorem sramPut_fills (a : Nat) (bs : List Byte) : (s.sramPut a bs).fills = s.fills := rfl
@[simp] theorem sramPut_scrubL (a : Nat) (bs : List Byte) : (s.sramPut a bs).scrubL = s.scrubL := rfl
@[simp] theorem sramPut_scrubPend (a : Nat) (bs : List Byte) : (s.sramPut a bs).scrubPend = s.scrubPend := rfl
@[simp] theorem sramPut_wback (a : Nat) (bs : List Byte) : (s.sramPut a bs).wback = s.wback := rfl
@[simp] theorem sramPut_chipGrants (a : Nat) (bs : List Byte) : (s.sramPut a bs).chipGrants = s.chipGrants := rfl
@[simp] theorem sramPut_acc (a : Nat) (bs : List Byte) : (s.sramPut a bs).acc = s.acc := rfl
@[simp] theorem sramPut_codec (a : Nat) (bs : List Byte) : (s.sramPut a bs).codec = s.codec := rfl
@[simp] theorem sramPut_guard (a : Nat) (bs : List Byte) : (s.sramPut a bs).guard = s.guard := rfl
@[simp] theorem sramPut_ctx (a : Nat) (bs : List Byte) : (s.sramPut a bs).ctx = s.ctx := rfl
@[simp] theorem sramPut_cache (a : Nat) (bs : List Byte) : (s.sramPut a bs).cache = s.cache := rfl
@[simp] theorem sramPut_marks (a : Nat) (bs : List Byte) : (s.sramPut a bs).marks = s.marks := rfl
@[simp] theorem sramPut_heldCompl (a : Nat) (bs : List Byte) : (s.sramPut a bs).heldCompl = s.heldCompl := rfl
@[simp] theorem sramPut_noseIn (a : Nat) (bs : List Byte) : (s.sramPut a bs).noseIn = s.noseIn := rfl
@[simp] theorem sramPut_ports (a : Nat) (bs : List Byte) : (s.sramPut a bs).ports = s.ports := rfl
@[simp] theorem sramPut_flows (a : Nat) (bs : List Byte) : (s.sramPut a bs).flows = s.flows := rfl
@[simp] theorem sramPut_flowCache (a : Nat) (bs : List Byte) : (s.sramPut a bs).flowCache = s.flowCache := rfl
@[simp] theorem sramPut_outbox (a : Nat) (bs : List Byte) : (s.sramPut a bs).outbox = s.outbox := rfl
@[simp] theorem sramPut_inbox (a : Nat) (bs : List Byte) : (s.sramPut a bs).inbox = s.inbox := rfl
@[simp] theorem sramPut_unacked (a : Nat) (bs : List Byte) : (s.sramPut a bs).unacked = s.unacked := rfl
@[simp] theorem sramPut_bridge (a : Nat) (bs : List Byte) : (s.sramPut a bs).bridge = s.bridge := rfl
@[simp] theorem sramPut_i3c (a : Nat) (bs : List Byte) : (s.sramPut a bs).i3c = s.i3c := rfl
@[simp] theorem sramPut_mgmt (a : Nat) (bs : List Byte) : (s.sramPut a bs).mgmt = s.mgmt := rfl
@[simp] theorem sramPut_wsets (a : Nat) (bs : List Byte) : (s.sramPut a bs).wsets = s.wsets := rfl
@[simp] theorem sramPut_sec (a : Nat) (bs : List Byte) : (s.sramPut a bs).sec = s.sec := rfl
@[simp] theorem sramPut_pins (a : Nat) (bs : List Byte) : (s.sramPut a bs).pins = s.pins := rfl
@[simp] theorem sramPut_jobs (a : Nat) (bs : List Byte) : (s.sramPut a bs).jobs = s.jobs := rfl
@[simp] theorem sramPut_odGet (a : Nat) (bs : List Byte) (k1 : Nat) : (s.sramPut a bs).odGet k1 = s.odGet k1 := rfl
@[simp] theorem sramPut_odBits (a : Nat) (bs : List Byte) (k1 h1 l1 : Nat) : (s.sramPut a bs).odBits k1 h1 l1 = s.odBits k1 h1 l1 := rfl
@[simp] theorem sramPut_odBit (a : Nat) (bs : List Byte) (k1 b1 : Nat) : (s.sramPut a bs).odBit k1 b1 = s.odBit k1 b1 := rfl
@[simp] theorem sramPut_g (a : Nat) (bs : List Byte) : (s.sramPut a bs).g = s.g := rfl
@[simp] theorem sramPut_ctxAt (a : Nat) (bs : List Byte) (c1 : Nat) : (s.sramPut a bs).ctxAt c1 = s.ctxAt c1 := rfl
@[simp] theorem sramPut_guardAt (a : Nat) (bs : List Byte) (p1 : Nat) : (s.sramPut a bs).guardAt p1 = s.guardAt p1 := rfl
@[simp] theorem sramPut_accAt (a : Nat) (bs : List Byte) (a1 : Nat) : (s.sramPut a bs).accAt a1 = s.accAt a1 := rfl
@[simp] theorem sramPut_live (a : Nat) (bs : List Byte) : (s.sramPut a bs).live = s.live := rfl
@[simp] theorem sramPut_hasAccord (a : Nat) (bs : List Byte) (a1 : Nat) : (s.sramPut a bs).hasAccord a1 = s.hasAccord a1 := rfl
@[simp] theorem sramPut_isBridge (a : Nat) (bs : List Byte) : (s.sramPut a bs).isBridge = s.isBridge := rfl
@[simp] theorem sramPut_wsAt (a : Nat) (bs : List Byte) (n1 : Nat) : (s.sramPut a bs).wsAt n1 = s.wsAt n1 := rfl
@[simp] theorem sramPut_portAt (a : Nat) (bs : List Byte) (p1 : Nat) : (s.sramPut a bs).portAt p1 = s.portAt p1 := rfl
@[simp] theorem sramPut_runPins (a : Nat) (bs : List Byte) : (s.sramPut a bs).runPins = s.runPins := rfl
@[simp] theorem sramPut_stepOf (a : Nat) (bs : List Byte) (c1 : Nat) : (s.sramPut a bs).stepOf c1 = s.stepOf c1 := rfl
@[simp] theorem sramPut_flowAt (a : Nat) (bs : List Byte) (a1 : Nat) : (s.sramPut a bs).flowAt a1 = s.flowAt a1 := rfl

/-! ### changePhase -/

@[simp] theorem changePhase_pending (p : Nat) : (s.changePhase p).pending = s.pending := rfl
@[simp] theorem changePhase_free (p : Nat) : (s.changePhase p).free = s.free := rfl
@[simp] theorem changePhase_od (p : Nat) : (s.changePhase p).od = s.od := rfl
@[simp] theorem changePhase_seqs (p : Nat) : (s.changePhase p).seqs = s.seqs := rfl
@[simp] theorem changePhase_time (p : Nat) : (s.changePhase p).time = s.time := rfl
@[simp] theorem changePhase_blot (p : Nat) : (s.changePhase p).blot = s.blot := rfl
@[simp] theorem changePhase_windows (p : Nat) : (s.changePhase p).windows = s.windows := rfl
@[simp] theorem changePhase_recQ (p : Nat) : (s.changePhase p).recQ = s.recQ := rfl
@[simp] theorem changePhase_unitFences (p : Nat) : (s.changePhase p).unitFences = s.unitFences := rfl
@[simp] theorem changePhase_granFences (p : Nat) : (s.changePhase p).granFences = s.granFences := rfl
@[simp] theorem changePhase_granHist (p : Nat) : (s.changePhase p).granHist = s.granHist := rfl
@[simp] theorem changePhase_unitHist (p : Nat) : (s.changePhase p).unitHist = s.unitHist := rfl
@[simp] theorem changePhase_ceWin (p : Nat) : (s.changePhase p).ceWin = s.ceWin := rfl
@[simp] theorem changePhase_heart (p : Nat) : (s.changePhase p).heart = s.heart := rfl
@[simp] theorem changePhase_base (p : Nat) : (s.changePhase p).base = s.base := rfl
@[simp] theorem changePhase_heartValid (p : Nat) : (s.changePhase p).heartValid = s.heartValid := rfl
@[simp] theorem changePhase_baseValid (p : Nat) : (s.changePhase p).baseValid = s.baseValid := rfl
@[simp] theorem changePhase_fills (p : Nat) : (s.changePhase p).fills = s.fills := rfl
@[simp] theorem changePhase_scrubL (p : Nat) : (s.changePhase p).scrubL = s.scrubL := rfl
@[simp] theorem changePhase_scrubPend (p : Nat) : (s.changePhase p).scrubPend = s.scrubPend := rfl
@[simp] theorem changePhase_wback (p : Nat) : (s.changePhase p).wback = s.wback := rfl
@[simp] theorem changePhase_chipGrants (p : Nat) : (s.changePhase p).chipGrants = s.chipGrants := rfl
@[simp] theorem changePhase_acc (p : Nat) : (s.changePhase p).acc = s.acc := rfl
@[simp] theorem changePhase_codec (p : Nat) : (s.changePhase p).codec = s.codec := rfl
@[simp] theorem changePhase_guard (p : Nat) : (s.changePhase p).guard = s.guard := rfl
@[simp] theorem changePhase_ctx (p : Nat) : (s.changePhase p).ctx = s.ctx := rfl
@[simp] theorem changePhase_cache (p : Nat) : (s.changePhase p).cache = s.cache := rfl
@[simp] theorem changePhase_marks (p : Nat) : (s.changePhase p).marks = s.marks := rfl
@[simp] theorem changePhase_heldCompl (p : Nat) : (s.changePhase p).heldCompl = s.heldCompl := rfl
@[simp] theorem changePhase_noseIn (p : Nat) : (s.changePhase p).noseIn = s.noseIn := rfl
@[simp] theorem changePhase_ports (p : Nat) : (s.changePhase p).ports = s.ports := rfl
@[simp] theorem changePhase_flows (p : Nat) : (s.changePhase p).flows = s.flows := rfl
@[simp] theorem changePhase_flowCache (p : Nat) : (s.changePhase p).flowCache = s.flowCache := rfl
@[simp] theorem changePhase_outbox (p : Nat) : (s.changePhase p).outbox = s.outbox := rfl
@[simp] theorem changePhase_inbox (p : Nat) : (s.changePhase p).inbox = s.inbox := rfl
@[simp] theorem changePhase_unacked (p : Nat) : (s.changePhase p).unacked = s.unacked := rfl
@[simp] theorem changePhase_bridge (p : Nat) : (s.changePhase p).bridge = s.bridge := rfl
@[simp] theorem changePhase_i3c (p : Nat) : (s.changePhase p).i3c = s.i3c := rfl
@[simp] theorem changePhase_mgmt (p : Nat) : (s.changePhase p).mgmt = s.mgmt := rfl
@[simp] theorem changePhase_wsets (p : Nat) : (s.changePhase p).wsets = s.wsets := rfl
@[simp] theorem changePhase_sec (p : Nat) : (s.changePhase p).sec = s.sec := rfl
@[simp] theorem changePhase_fw (p : Nat) : (s.changePhase p).fw = s.fw := rfl
@[simp] theorem changePhase_jobs (p : Nat) : (s.changePhase p).jobs = s.jobs := rfl
@[simp] theorem changePhase_odGet (p : Nat) (k1 : Nat) : (s.changePhase p).odGet k1 = s.odGet k1 := rfl
@[simp] theorem changePhase_odBits (p : Nat) (k1 h1 l1 : Nat) : (s.changePhase p).odBits k1 h1 l1 = s.odBits k1 h1 l1 := rfl
@[simp] theorem changePhase_odBit (p : Nat) (k1 b1 : Nat) : (s.changePhase p).odBit k1 b1 = s.odBit k1 b1 := rfl
@[simp] theorem changePhase_g (p : Nat) : (s.changePhase p).g = s.g := rfl
@[simp] theorem changePhase_ctxAt (p : Nat) (c1 : Nat) : (s.changePhase p).ctxAt c1 = s.ctxAt c1 := rfl
@[simp] theorem changePhase_guardAt (p : Nat) (p1 : Nat) : (s.changePhase p).guardAt p1 = s.guardAt p1 := rfl
@[simp] theorem changePhase_accAt (p : Nat) (a1 : Nat) : (s.changePhase p).accAt a1 = s.accAt a1 := rfl
@[simp] theorem changePhase_hasAccord (p : Nat) (a1 : Nat) : (s.changePhase p).hasAccord a1 = s.hasAccord a1 := rfl
@[simp] theorem changePhase_isBridge (p : Nat) : (s.changePhase p).isBridge = s.isBridge := rfl
@[simp] theorem changePhase_wsAt (p : Nat) (n1 : Nat) : (s.changePhase p).wsAt n1 = s.wsAt n1 := rfl
@[simp] theorem changePhase_portAt (p : Nat) (p1 : Nat) : (s.changePhase p).portAt p1 = s.portAt p1 := rfl
@[simp] theorem changePhase_stepOf (p : Nat) (c1 : Nat) : (s.changePhase p).stepOf c1 = s.stepOf c1 := rfl
@[simp] theorem changePhase_flowAt (p : Nat) (a1 : Nat) : (s.changePhase p).flowAt a1 = s.flowAt a1 := rfl

end Sys2Proof.Machine.State
end

