-- ==== Sys2Proof/Laws/Ops.lean ====
section
/-!
SUPPORT. What the shared operations do: reads of dictionary values, contexts, accords and guards after a write; what an
event, a counter and a status change leave alone; the outcome of an instruction's issue.
-/
namespace Sys2Proof.Machine

variable (s : State)

/-! ### Values read back -/

@[simp] theorem State.odGet_odSet_same (k v : Nat) : (s.odSet k v).odGet k = v := SMap.get_set_same _ _ _ _
theorem State.odGet_odSet_ne {k j : Nat} (v : Nat) (h : j ≠ k) : (s.odSet k v).odGet j = s.odGet j :=
  SMap.get_set_ne _ _ _ h
theorem State.odGet_odSet (k j v : Nat) : (s.odSet k v).odGet j = if j = k then v else s.odGet j := SMap.get_set _ _ _ _ _
@[simp] theorem State.ctxAt_setCtx_same (c : Nat) (x : Ctx) : (s.setCtx c x).ctxAt c = x := SMap.get_set_same _ _ _ _
theorem State.ctxAt_setCtx_ne {c d : Nat} (x : Ctx) (h : d ≠ c) : (s.setCtx c x).ctxAt d = s.ctxAt d :=
  SMap.get_set_ne _ _ _ h
@[simp] theorem State.ctxAt_modCtx_same (c : Nat) (f : Ctx → Ctx) : (s.modCtx c f).ctxAt c = f (s.ctxAt c) :=
  SMap.get_set_same _ _ _ _
theorem State.ctxAt_modCtx_ne {c d : Nat} (f : Ctx → Ctx) (h : d ≠ c) : (s.modCtx c f).ctxAt d = s.ctxAt d :=
  SMap.get_set_ne _ _ _ h
@[simp] theorem State.accAt_setAcc_same (a : Nat) (x : Accord) : (s.setAcc a x).accAt a = x := by
  simp [State.accAt, State.setAcc]
theorem State.accAt_setAcc_ne {a b : Nat} (x : Accord) (h : b % 16 ≠ a % 16) : (s.setAcc a x).accAt b = s.accAt b := by
  simp [State.accAt, State.setAcc, Ne.symm h]
@[simp] theorem State.accAt_modAcc_same (a : Nat) (f : Accord → Accord) : (s.modAcc a f).accAt a = f (s.accAt a) := by
  simp [State.modAcc]
theorem State.accAt_modAcc_ne {a b : Nat} (f : Accord → Accord) (h : b % 16 ≠ a % 16) : (s.modAcc a f).accAt b = s.accAt b := by
  simp [State.modAcc, State.accAt_setAcc_ne s _ h]
@[simp] theorem State.guardAt_setGuard_same (p : Nat) (x : Guard) : (s.setGuard p x).guardAt p = x := by
  simp [State.guardAt, State.setGuard]
theorem State.guardAt_setGuard_ne {p q : Nat} (x : Guard) (h : q % 16 ≠ p % 16) : (s.setGuard p x).guardAt q = s.guardAt q := by
  simp [State.guardAt, State.setGuard, Ne.symm h]
@[simp] theorem State.guardAt_modGuard_same (p : Nat) (f : Guard → Guard) : (s.modGuard p f).guardAt p = f (s.guardAt p) := by
  simp [State.modGuard]
@[simp] theorem State.veAt_modVe_same (a : Nat) (f : VecEngine → VecEngine) : (s.modVe a f).veAt a = f (s.veAt a) := by
  simp [State.modVe, State.veAt]
@[simp] theorem State.tokq_setTokq_same (a q : Nat) (x : TokQueue) : (s.setTokq a q x).tokq a q = x := by
  simp [State.tokq, State.setTokq]
@[simp] theorem State.wsAt_modWs_same (n : Nat) (f : WeightSet → WeightSet) : (s.modWs n f).wsAt n = f (s.wsAt n) := by
  simp [State.wsAt, State.modWs]
@[simp] theorem State.portAt_modPort_same (p : Nat) (f : Port → Port) : (s.modPort p f).portAt p = f (s.portAt p) := by
  simp [State.portAt, State.modPort]
theorem State.portAt_modPort_ne {p q : Nat} (f : Port → Port) (h : q % 16 ≠ p % 16) : (s.modPort p f).portAt q = s.portAt q := by
  simp [State.portAt, State.modPort, Ne.symm h]
@[simp] theorem State.flowAt_setFlow_same (f : Nat) (x : FlowCount) : (s.setFlow f x).flowAt f = x := SMap.get_set_same _ _ _ _

/-! ### Bit fields -/

/-- A field that was just written reads as what was written. -/
theorem bits_setBits_same (v hi lo x : Nat) (h : lo ≤ hi) : bits (setBits v hi lo x) hi lo = x % 2 ^ (hi + 1 - lo) := by
  unfold bits setBits
  have e : 2 ^ (hi + 1) = 2 ^ lo * 2 ^ (hi + 1 - lo) := by rw [← Nat.pow_add]; congr 1; omega
  rw [e, Nat.mul_assoc, Nat.add_assoc, ← Nat.mul_add, Nat.add_mul_div_left _ _ (Nat.two_pow_pos lo),
    Nat.div_eq_of_lt (Nat.mod_lt _ (Nat.two_pow_pos lo)), Nat.zero_add, Nat.add_mul_mod_self_left, Nat.mod_mod]
theorem bits_lt (v hi lo : Nat) : bits v hi lo < 2 ^ (hi + 1 - lo) := Nat.mod_lt _ (Nat.two_pow_pos _)

/-! ### Running only while live -/

theorem whenLive_of_live {s f : State} (h : s.live = true) : whenLive s f = f := by simp [whenLive, h]
theorem whenLive_of_not_live {s f : State} (h : s.live = false) : whenLive s f = s := by simp [whenLive, h]

/-! ### What an event leaves alone -/

theorem State.signalVector_only (v : Nat) : ∃ b, s.signalVector v = { s with bridge := b } := by
  unfold State.signalVector; simp only; (repeat' split) <;> exact ⟨_, rfl⟩
theorem State.raiseVector_only (v : Nat) : ∃ b o f, s.raiseVector v = { s with bridge := b, outbox := o, flows := f } := by
  unfold State.raiseVector
  split
  · obtain ⟨b, e⟩ := State.signalVector_only s v; rw [e]; exact ⟨_, _, _, rfl⟩
  · exact ⟨_, _, _, rfl⟩
theorem State.raiseIbi_only : ∃ m i, s.raiseIbi = { s with mgmt := m, i3c := i } := by
  unfold State.raiseIbi; simp only; (repeat' split) <;> exact ⟨_, _, rfl⟩
/-- An advance of EVENT_SEQ changes only the interrupt paths: vectors, packets to the bridge chip, in-band interrupts. -/
theorem State.eventAdvance_only : ∃ b o f m i, s.eventAdvance =
    { s with bridge := b, outbox := o, flows := f, mgmt := m, i3c := i } := by
  have h : ∃ b o f m, s.eventAdvance = ({ s with bridge := b, outbox := o, flows := f, mgmt := m } : State).raiseIbi := by
    unfold State.eventAdvance
    by_cases h1 : s.odBit kEventIrq 15 = true
    · by_cases h2 : s.mgmt.holdoff.isSome = true
      · simp only [h1, h2, if_true]; exact ⟨_, _, _, _, rfl⟩
      · simp only [h1, h2, if_true]
        obtain ⟨b, o, f, e⟩ := State.raiseVector_only s (s.odBits kEventIrq 10 0)
        simp only [e]; exact ⟨_, _, _, _, rfl⟩
    · simp only [h1]; exact ⟨_, _, _, _, rfl⟩
  obtain ⟨b, o, f, m, e⟩ := h
  obtain ⟨m', i, e'⟩ := State.raiseIbi_only { s with bridge := b, outbox := o, flows := f, mgmt := m }
  rw [e, e']; exact ⟨_, _, _, _, _, rfl⟩
/-- An event changes dictionary values and the interrupt paths (R377). -/
theorem State.event_only (a : Area) (n : Nat) : ∃ d b o f m i, s.event a n =
    { s with od := d, bridge := b, outbox := o, flows := f, mgmt := m, i3c := i } := by
  have h : ∃ d, s.event a n = ({ s with od := d } : State).eventAdvance := by
    simp only [State.event, State.odSet]; exact ⟨_, rfl⟩
  obtain ⟨d, e⟩ := h
  obtain ⟨b, o, f, m, i, e'⟩ := State.eventAdvance_only { s with od := d }
  rw [e, e']; exact ⟨_, _, _, _, _, _, rfl⟩
/-- A counter changes dictionary values, and the interrupt paths when it saturates. -/
theorem State.bump_only (k n : Nat) : ∃ d b o f m i, s.bump k n =
    { s with od := d, bridge := b, outbox := o, flows := f, mgmt := m, i3c := i } := by
  unfold State.bump
  simp only
  split
  · exact ⟨s.od, s.bridge, s.outbox, s.flows, s.mgmt, s.i3c, rfl⟩
  · split
    · exact ⟨_, s.bridge, s.outbox, s.flows, s.mgmt, s.i3c, rfl⟩
    · have h : ∃ d, (((s.odSet k (counterMax k)).odSet kLastSat (k / 256 * 2 ^ 16 + k % 256 * 2 ^ 8)).event .time 6) = ({ s with od := d } : State).event .time 6 := by
        simp only [State.odSet]; exact ⟨_, rfl⟩
      obtain ⟨d, e⟩ := h
      obtain ⟨d', b, o, f, m, i, e'⟩ := State.event_only { s with od := d } .time 6
      rw [e, e']; exact ⟨_, _, _, _, _, _, rfl⟩

@[simp] theorem State.event_pending (a : Area) (n : Nat) : (s.event a n).pending = s.pending := by
  obtain ⟨_, _, _, _, _, _, e⟩ := State.event_only s a n; rw [e]
@[simp] theorem State.event_free (a : Area) (n : Nat) : (s.event a n).free = s.free := by
  obtain ⟨_, _, _, _, _, _, e⟩ := State.event_only s a n; rw [e]
@[simp] theorem State.event_seqs (a : Area) (n : Nat) : (s.event a n).seqs = s.seqs := by
  obtain ⟨_, _, _, _, _, _, e⟩ := State.event_only s a n; rw [e]
@[simp] theorem State.event_time (a : Area) (n : Nat) : (s.event a n).time = s.time := by
  obtain ⟨_, _, _, _, _, _, e⟩ := State.event_only s a n; rw [e]
@[simp] theorem State.event_blot (a : Area) (n : Nat) : (s.event a n).blot = s.blot := by
  obtain ⟨_, _, _, _, _, _, e⟩ := State.event_only s a n; rw [e]
@[simp] theorem State.event_windows (a : Area) (n : Nat) : (s.event a n).windows = s.windows := by
  obtain ⟨_, _, _, _, _, _, e⟩ := State.event_only s a n; rw [e]
@[simp] theorem State.event_recQ (a : Area) (n : Nat) : (s.event a n).recQ = s.recQ := by
  obtain ⟨_, _, _, _, _, _, e⟩ := State.event_only s a n; rw [e]
@[simp] theorem State.event_unitFences (a : Area) (n : Nat) : (s.event a n).unitFences = s.unitFences := by
  obtain ⟨_, _, _, _, _, _, e⟩ := State.event_only s a n; rw [e]
@[simp] theorem State.event_granFences (a : Area) (n : Nat) : (s.event a n).granFences = s.granFences := by
  obtain ⟨_, _, _, _, _, _, e⟩ := State.event_only s a n; rw [e]
@[simp] theorem State.event_granHist (a : Area) (n : Nat) : (s.event a n).granHist = s.granHist := by
  obtain ⟨_, _, _, _, _, _, e⟩ := State.event_only s a n; rw [e]
@[simp] theorem State.event_unitHist (a : Area) (n : Nat) : (s.event a n).unitHist = s.unitHist := by
  obtain ⟨_, _, _, _, _, _, e⟩ := State.event_only s a n; rw [e]
@[simp] theorem State.event_ceWin (a : Area) (n : Nat) : (s.event a n).ceWin = s.ceWin := by
  obtain ⟨_, _, _, _, _, _, e⟩ := State.event_only s a n; rw [e]
@[simp] theorem State.event_heart (a : Area) (n : Nat) : (s.event a n).heart = s.heart := by
  obtain ⟨_, _, _, _, _, _, e⟩ := State.event_only s a n; rw [e]
@[simp] theorem State.event_base (a : Area) (n : Nat) : (s.event a n).base = s.base := by
  obtain ⟨_, _, _, _, _, _, e⟩ := State.event_only s a n; rw [e]
@[simp] theorem State.event_heartValid (a : Area) (n : Nat) : (s.event a n).heartValid = s.heartValid := by
  obtain ⟨_, _, _, _, _, _, e⟩ := State.event_only s a n; rw [e]
@[simp] theorem State.event_baseValid (a : Area) (n : Nat) : (s.event a n).baseValid = s.baseValid := by
  obtain ⟨_, _, _, _, _, _, e⟩ := State.event_only s a n; rw [e]
@[simp] theorem State.event_fills (a : Area) (n : Nat) : (s.event a n).fills = s.fills := by
  obtain ⟨_, _, _, _, _, _, e⟩ := State.event_only s a n; rw [e]
@[simp] theorem State.event_scrubL (a : Area) (n : Nat) : (s.event a n).scrubL = s.scrubL := by
  obtain ⟨_, _, _, _, _, _, e⟩ := State.event_only s a n; rw [e]
@[simp] theorem State.event_scrubPend (a : Area) (n : Nat) : (s.event a n).scrubPend = s.scrubPend := by
  obtain ⟨_, _, _, _, _, _, e⟩ := State.event_only s a n; rw [e]
@[simp] theorem State.event_wback (a : Area) (n : Nat) : (s.event a n).wback = s.wback := by
  obtain ⟨_, _, _, _, _, _, e⟩ := State.event_only s a n; rw [e]
@[simp] theorem State.event_chipGrants (a : Area) (n : Nat) : (s.event a n).chipGrants = s.chipGrants := by
  obtain ⟨_, _, _, _, _, _, e⟩ := State.event_only s a n; rw [e]
@[simp] theorem State.event_acc (a : Area) (n : Nat) : (s.event a n).acc = s.acc := by
  obtain ⟨_, _, _, _, _, _, e⟩ := State.event_only s a n; rw [e]
@[simp] theorem State.event_codec (a : Area) (n : Nat) : (s.event a n).codec = s.codec := by
  obtain ⟨_, _, _, _, _, _, e⟩ := State.event_only s a n; rw [e]
@[simp] theorem State.event_guard (a : Area) (n : Nat) : (s.event a n).guard = s.guard := by
  obtain ⟨_, _, _, _, _, _, e⟩ := State.event_only s a n; rw [e]
@[simp] theorem State.event_ctx (a : Area) (n : Nat) : (s.event a n).ctx = s.ctx := by
  obtain ⟨_, _, _, _, _, _, e⟩ := State.event_only s a n; rw [e]
@[simp] theorem State.event_cache (a : Area) (n : Nat) : (s.event a n).cache = s.cache := by
  obtain ⟨_, _, _, _, _, _, e⟩ := State.event_only s a n; rw [e]
@[simp] theorem State.event_marks (a : Area) (n : Nat) : (s.event a n).marks = s.marks := by
  obtain ⟨_, _, _, _, _, _, e⟩ := State.event_only s a n; rw [e]
@[simp] theorem State.event_heldCompl (a : Area) (n : Nat) : (s.event a n).heldCompl = s.heldCompl := by
  obtain ⟨_, _, _, _, _, _, e⟩ := State.event_only s a n; rw [e]
@[simp] theorem State.event_noseIn (a : Area) (n : Nat) : (s.event a n).noseIn = s.noseIn := by
  obtain ⟨_, _, _, _, _, _, e⟩ := State.event_only s a n; rw [e]
@[simp] theorem State.event_ports (a : Area) (n : Nat) : (s.event a n).ports = s.ports := by
  obtain ⟨_, _, _, _, _, _, e⟩ := State.event_only s a n; rw [e]
@[simp] theorem State.event_flowCache (a : Area) (n : Nat) : (s.event a n).flowCache = s.flowCache := by
  obtain ⟨_, _, _, _, _, _, e⟩ := State.event_only s a n; rw [e]
@[simp] theorem State.event_inbox (a : Area) (n : Nat) : (s.event a n).inbox = s.inbox := by
  obtain ⟨_, _, _, _, _, _, e⟩ := State.event_only s a n; rw [e]
@[simp] theorem State.event_unacked (a : Area) (n : Nat) : (s.event a n).unacked = s.unacked := by
  obtain ⟨_, _, _, _, _, _, e⟩ := State.event_only s a n; rw [e]
@[simp] theorem State.event_wsets (a : Area) (n : Nat) : (s.event a n).wsets = s.wsets := by
  obtain ⟨_, _, _, _, _, _, e⟩ := State.event_only s a n; rw [e]
@[simp] theorem State.event_sec (a : Area) (n : Nat) : (s.event a n).sec = s.sec := by
  obtain ⟨_, _, _, _, _, _, e⟩ := State.event_only s a n; rw [e]
@[simp] theorem State.event_fw (a : Area) (n : Nat) : (s.event a n).fw = s.fw := by
  obtain ⟨_, _, _, _, _, _, e⟩ := State.event_only s a n; rw [e]
@[simp] theorem State.event_pins (a : Area) (n : Nat) : (s.event a n).pins = s.pins := by
  obtain ⟨_, _, _, _, _, _, e⟩ := State.event_only s a n; rw [e]
@[simp] theorem State.event_jobs (a : Area) (n : Nat) : (s.event a n).jobs = s.jobs := by
  obtain ⟨_, _, _, _, _, _, e⟩ := State.event_only s a n; rw [e]
@[simp] theorem State.event_g (a : Area) (n : Nat) : (s.event a n).g = s.g := by
  simp [State.g]
@[simp] theorem State.event_ctxAt (a : Area) (n : Nat) (c1 : Nat): (s.event a n).ctxAt c1 = s.ctxAt c1 := by
  simp [State.ctxAt]
@[simp] theorem State.event_guardAt (a : Area) (n : Nat) (p1 : Nat): (s.event a n).guardAt p1 = s.guardAt p1 := by
  simp [State.guardAt]
@[simp] theorem State.event_accAt (a : Area) (n : Nat) (a1 : Nat): (s.event a n).accAt a1 = s.accAt a1 := by
  simp [State.accAt]
@[simp] theorem State.event_wsAt (a : Area) (n : Nat) (n1 : Nat): (s.event a n).wsAt n1 = s.wsAt n1 := by
  simp [State.wsAt]
@[simp] theorem State.event_portAt (a : Area) (n : Nat) (p1 : Nat): (s.event a n).portAt p1 = s.portAt p1 := by
  simp [State.portAt]
@[simp] theorem State.bump_pending (k n : Nat) : (s.bump k n).pending = s.pending := by
  obtain ⟨_, _, _, _, _, _, e⟩ := State.bump_only s k n; rw [e]
@[simp] theorem State.bump_free (k n : Nat) : (s.bump k n).free = s.free := by
  obtain ⟨_, _, _, _, _, _, e⟩ := State.bump_only s k n; rw [e]
@[simp] theorem State.bump_seqs (k n : Nat) : (s.bump k n).seqs = s.seqs := by
  obtain ⟨_, _, _, _, _, _, e⟩ := State.bump_only s k n; rw [e]
@[simp] theorem State.bump_time (k n : Nat) : (s.bump k n).time = s.time := by
  obtain ⟨_, _, _, _, _, _, e⟩ := State.bump_only s k n; rw [e]
@[simp] theorem State.bump_blot (k n : Nat) : (s.bump k n).blot = s.blot := by
  obtain ⟨_, _, _, _, _, _, e⟩ := State.bump_only s k n; rw [e]
@[simp] theorem State.bump_windows (k n : Nat) : (s.bump k n).windows = s.windows := by
  obtain ⟨_, _, _, _, _, _, e⟩ := State.bump_only s k n; rw [e]
@[simp] theorem State.bump_recQ (k n : Nat) : (s.bump k n).recQ = s.recQ := by
  obtain ⟨_, _, _, _, _, _, e⟩ := State.bump_only s k n; rw [e]
@[simp] theorem State.bump_unitFences (k n : Nat) : (s.bump k n).unitFences = s.unitFences := by
  obtain ⟨_, _, _, _, _, _, e⟩ := State.bump_only s k n; rw [e]
@[simp] theorem State.bump_granFences (k n : Nat) : (s.bump k n).granFences = s.granFences := by
  obtain ⟨_, _, _, _, _, _, e⟩ := State.bump_only s k n; rw [e]
@[simp] theorem State.bump_granHist (k n : Nat) : (s.bump k n).granHist = s.granHist := by
  obtain ⟨_, _, _, _, _, _, e⟩ := State.bump_only s k n; rw [e]
@[simp] theorem State.bump_unitHist (k n : Nat) : (s.bump k n).unitHist = s.unitHist := by
  obtain ⟨_, _, _, _, _, _, e⟩ := State.bump_only s k n; rw [e]
@[simp] theorem State.bump_ceWin (k n : Nat) : (s.bump k n).ceWin = s.ceWin := by
  obtain ⟨_, _, _, _, _, _, e⟩ := State.bump_only s k n; rw [e]
@[simp] theorem State.bump_heart (k n : Nat) : (s.bump k n).heart = s.heart := by
  obtain ⟨_, _, _, _, _, _, e⟩ := State.bump_only s k n; rw [e]
@[simp] theorem State.bump_base (k n : Nat) : (s.bump k n).base = s.base := by
  obtain ⟨_, _, _, _, _, _, e⟩ := State.bump_only s k n; rw [e]
@[simp] theorem State.bump_heartValid (k n : Nat) : (s.bump k n).heartValid = s.heartValid := by
  obtain ⟨_, _, _, _, _, _, e⟩ := State.bump_only s k n; rw [e]
@[simp] theorem State.bump_baseValid (k n : Nat) : (s.bump k n).baseValid = s.baseValid := by
  obtain ⟨_, _, _, _, _, _, e⟩ := State.bump_only s k n; rw [e]
@[simp] theorem State.bump_fills (k n : Nat) : (s.bump k n).fills = s.fills := by
  obtain ⟨_, _, _, _, _, _, e⟩ := State.bump_only s k n; rw [e]
@[simp] theorem State.bump_scrubL (k n : Nat) : (s.bump k n).scrubL = s.scrubL := by
  obtain ⟨_, _, _, _, _, _, e⟩ := State.bump_only s k n; rw [e]
@[simp] theorem State.bump_scrubPend (k n : Nat) : (s.bump k n).scrubPend = s.scrubPend := by
  obtain ⟨_, _, _, _, _, _, e⟩ := State.bump_only s k n; rw [e]
@[simp] theorem State.bump_wback (k n : Nat) : (s.bump k n).wback = s.wback := by
  obtain ⟨_, _, _, _, _, _, e⟩ := State.bump_only s k n; rw [e]
@[simp] theorem State.bump_chipGrants (k n : Nat) : (s.bump k n).chipGrants = s.chipGrants := by
  obtain ⟨_, _, _, _, _, _, e⟩ := State.bump_only s k n; rw [e]
@[simp] theorem State.bump_acc (k n : Nat) : (s.bump k n).acc = s.acc := by
  obtain ⟨_, _, _, _, _, _, e⟩ := State.bump_only s k n; rw [e]
@[simp] theorem State.bump_codec (k n : Nat) : (s.bump k n).codec = s.codec := by
  obtain ⟨_, _, _, _, _, _, e⟩ := State.bump_only s k n; rw [e]
@[simp] theorem State.bump_guard (k n : Nat) : (s.bump k n).guard = s.guard := by
  obtain ⟨_, _, _, _, _, _, e⟩ := State.bump_only s k n; rw [e]
@[simp] theorem State.bump_ctx (k n : Nat) : (s.bump k n).ctx = s.ctx := by
  obtain ⟨_, _, _, _, _, _, e⟩ := State.bump_only s k n; rw [e]
@[simp] theorem State.bump_cache (k n : Nat) : (s.bump k n).cache = s.cache := by
  obtain ⟨_, _, _, _, _, _, e⟩ := State.bump_only s k n; rw [e]
@[simp] theorem State.bump_marks (k n : Nat) : (s.bump k n).marks = s.marks := by
  obtain ⟨_, _, _, _, _, _, e⟩ := State.bump_only s k n; rw [e]
@[simp] theorem State.bump_heldCompl (k n : Nat) : (s.bump k n).heldCompl = s.heldCompl := by
  obtain ⟨_, _, _, _, _, _, e⟩ := State.bump_only s k n; rw [e]
@[simp] theorem State.bump_noseIn (k n : Nat) : (s.bump k n).noseIn = s.noseIn := by
  obtain ⟨_, _, _, _, _, _, e⟩ := State.bump_only s k n; rw [e]
@[simp] theorem State.bump_ports (k n : Nat) : (s.bump k n).ports = s.ports := by
  obtain ⟨_, _, _, _, _, _, e⟩ := State.bump_only s k n; rw [e]
@[simp] theorem State.bump_flowCache (k n : Nat) : (s.bump k n).flowCache = s.flowCache := by
  obtain ⟨_, _, _, _, _, _, e⟩ := State.bump_only s k n; rw [e]
@[simp] theorem State.bump_inbox (k n : Nat) : (s.bump k n).inbox = s.inbox := by
  obtain ⟨_, _, _, _, _, _, e⟩ := State.bump_only s k n; rw [e]
@[simp] theorem State.bump_unacked (k n : Nat) : (s.bump k n).unacked = s.unacked := by
  obtain ⟨_, _, _, _, _, _, e⟩ := State.bump_only s k n; rw [e]
@[simp] theorem State.bump_wsets (k n : Nat) : (s.bump k n).wsets = s.wsets := by
  obtain ⟨_, _, _, _, _, _, e⟩ := State.bump_only s k n; rw [e]
@[simp] theorem State.bump_sec (k n : Nat) : (s.bump k n).sec = s.sec := by
  obtain ⟨_, _, _, _, _, _, e⟩ := State.bump_only s k n; rw [e]
@[simp] theorem State.bump_fw (k n : Nat) : (s.bump k n).fw = s.fw := by
  obtain ⟨_, _, _, _, _, _, e⟩ := State.bump_only s k n; rw [e]
@[simp] theorem State.bump_pins (k n : Nat) : (s.bump k n).pins = s.pins := by
  obtain ⟨_, _, _, _, _, _, e⟩ := State.bump_only s k n; rw [e]
@[simp] theorem State.bump_jobs (k n : Nat) : (s.bump k n).jobs = s.jobs := by
  obtain ⟨_, _, _, _, _, _, e⟩ := State.bump_only s k n; rw [e]
@[simp] theorem State.bump_g (k n : Nat) : (s.bump k n).g = s.g := by
  simp [State.g]
@[simp] theorem State.bump_ctxAt (k n : Nat) (c1 : Nat): (s.bump k n).ctxAt c1 = s.ctxAt c1 := by
  simp [State.ctxAt]
@[simp] theorem State.bump_guardAt (k n : Nat) (p1 : Nat): (s.bump k n).guardAt p1 = s.guardAt p1 := by
  simp [State.guardAt]
@[simp] theorem State.bump_accAt (k n : Nat) (a1 : Nat): (s.bump k n).accAt a1 = s.accAt a1 := by
  simp [State.accAt]
@[simp] theorem State.bump_wsAt (k n : Nat) (n1 : Nat): (s.bump k n).wsAt n1 = s.wsAt n1 := by
  simp [State.wsAt]
@[simp] theorem State.bump_portAt (k n : Nat) (p1 : Nat): (s.bump k n).portAt p1 = s.portAt p1 := by
  simp [State.portAt]

/-! ### What an event and a counter do to the dictionary -/

theorem State.eventAdvance_odGet (k : Nat) : s.eventAdvance.odGet k = s.odGet k := by
  obtain ⟨_, _, _, _, _, e⟩ := State.eventAdvance_only s; rw [e]; rfl
/-- An event leaves every dictionary value alone but the area's ERR_STATUS and ERR_SEQ, EVENT_SEQ and EVENT_SUMMARY. -/
theorem State.event_odGet (a : Area) (n k : Nat) (h1 : k ≠ a.status) (h2 : k ≠ a.seq) (h3 : k ≠ kEventSeq)
    (h4 : k ≠ kEventSummary) : (s.event a n).odGet k = s.odGet k := by
  simp only [State.event, State.eventAdvance_odGet]
  rw [State.odGet_odSet_ne _ _ h4, State.odGet_odSet_ne _ _ h3, State.odGet_odSet_ne _ _ h2, State.odGet_odSet_ne _ _ h1]

/-! ### The issue of an instruction -/

/-- An instruction that meets no detection has its effect; the unit runs and schedule time is noted. -/
theorem issueBody_clear {x : IssueCtx} {unit instr : Nat} {dets : State → IssueCtx → List Det}
    {eff : State → IssueCtx → State} (h : dets s x = []) :
    issueBody x unit instr dets eff s = ((eff s x).setUnitState unit 1).noteTime x.part x.t := by
  simp [issueBody, h]
/-- An instruction that meets a detection has no effect of its own: the first detection ends its context. -/
theorem issueBody_detects {x : IssueCtx} {unit instr : Nat} {dets : State → IssueCtx → List Det}
    {eff : State → IssueCtx → State} {d : Det} {l : List Det} (h : dets s x = d :: l) :
    issueBody x unit instr dets eff s = s.detected x.ctx unit instr d := by
  simp [issueBody, h]
@[simp] theorem State.setUnitState_acc (u v : Nat) : (s.setUnitState u v).acc = s.acc := by
  unfold State.setUnitState; split <;> rfl

end Sys2Proof.Machine
end

