-- ==== Sys2Proof/Laws/Issue.lean ====
section
/-!
SUPPORT. What the issue of a compute-stream instruction comes to: corrected upsets change no store, an instruction without
a detection answers a next state, and an operation of the vector engine writes its registers and nothing else.
-/
namespace Sys2Proof.Machine

variable (s : State)

theorem State.blotAdd_only (r : Rec) : ∃ q d b o f m i, s.blotAdd r =
    { s with blot := q, od := d, bridge := b, outbox := o, flows := f, mgmt := m, i3c := i } := by
  unfold State.blotAdd
  split
  · obtain ⟨d, b, o, f, m, i, e⟩ := State.bump_only { s with blot := { s.blot with dropped := true } } kBlotterDropped 1
    rw [e]
    obtain ⟨d', b', o', f', m', i', e'⟩ := State.event_only { s with
      blot := { s.blot with dropped := true }, od := d, bridge := b, outbox := o, flows := f, mgmt := m, i3c := i } .blot 9
    rw [e']; exact ⟨_, _, _, _, _, _, _, rfl⟩
  · exact ⟨_, s.od, s.bridge, s.outbox, s.flows, s.mgmt, s.i3c, rfl⟩

/-- Corrected errors change dictionary values, the window of their unit, the blotter and the interrupt paths. -/
theorem State.corrected_only (k : MemKind) (a e n : Nat) : ∃ w q d b o f m i, s.corrected k a e n =
    { s with ceWin := w, blot := q, od := d, bridge := b, outbox := o, flows := f, mgmt := m, i3c := i } := by
  have h1 : ∀ u : State, (∃ d b o f m i, u = { s with od := d, bridge := b, outbox := o, flows := f, mgmt := m, i3c := i }) →
      ∀ cnt n, ∃ d b o f m i, u.bump cnt n = { s with od := d, bridge := b, outbox := o, flows := f, mgmt := m, i3c := i } := by
    rintro u ⟨d, b, o, f, m, i, rfl⟩ cnt n
    obtain ⟨d', b', o', f', m', i', e'⟩ := State.bump_only
      { s with od := d, bridge := b, outbox := o, flows := f, mgmt := m, i3c := i } cnt n
    rw [e']; exact ⟨_, _, _, _, _, _, rfl⟩
  have h0 : ∃ d b o f m i, s = { s with od := d, bridge := b, outbox := o, flows := f, mgmt := m, i3c := i } :=
    ⟨s.od, s.bridge, s.outbox, s.flows, s.mgmt, s.i3c, rfl⟩
  have h3 : ∀ v : State, (∃ d b o f m i, v = { s with od := d, bridge := b, outbox := o, flows := f, mgmt := m, i3c := i }) →
      ∀ (u thr bt : Nat) (ar : Area), ∃ w q d b o f m i,
      (if SMap.get (fun _ => 0) v.ceWin u
            < State.odGet { v with ceWin := SMap.set (fun _ => 0) v.ceWin u (SMap.get (fun _ => 0) v.ceWin u + n) } thr
          ∧ State.odGet { v with ceWin := SMap.set (fun _ => 0) v.ceWin u (SMap.get (fun _ => 0) v.ceWin u + n) } thr
            ≤ SMap.get (fun _ => 0) v.ceWin u + n then
        (State.event { v with ceWin := SMap.set (fun _ => 0) v.ceWin u (SMap.get (fun _ => 0) v.ceWin u + n) } ar bt).blotAdd
          (State.mkRec { v with ceWin := SMap.set (fun _ => 0) v.ceWin u (SMap.get (fun _ => 0) v.ceWin u + n) } 0 0 0 0 u
            none none 0 0 (leBytes 4 0 ++ leBytes 1 0 ++ leBytes 1 (memCode k)))
        else { v with ceWin := SMap.set (fun _ => 0) v.ceWin u (SMap.get (fun _ => 0) v.ceWin u + n) })
      = { s with ceWin := w, blot := q, od := d, bridge := b, outbox := o, flows := f, mgmt := m, i3c := i } := by
    rintro v ⟨d, b, o, f, m, i, rfl⟩ u thr bt ar
    generalize hw : SMap.set (fun _ => 0) _ u _ = w
    generalize hr : State.mkRec _ 0 0 0 0 u none none 0 0 _ = r
    split
    · obtain ⟨d', b', o', f', m', i', e'⟩ := State.event_only { s with
        od := d, bridge := b, outbox := o, flows := f, mgmt := m, i3c := i, ceWin := w } ar bt
      obtain ⟨q, d2, b2, o2, f2, m2, i2, e3⟩ := State.blotAdd_only { s with
        od := d', bridge := b', outbox := o', flows := f', mgmt := m', i3c := i', ceWin := w } r
      rw [e']
      exact ⟨_, _, _, _, _, _, _, _, e3⟩
    · exact ⟨w, s.blot, d, b, o, f, m, i, rfl⟩
  cases k <;> exact h3 _ (by first | exact h1 _ (h1 _ h0 _ _) _ _ | exact h1 _ h0 _ _) _ _ _ _

/-- What an instruction's reads report leaves its issue as it was: the state it sees differs from `s` in dictionary values
and reports only. -/
theorem engineIssue_clear {h : Issue} {e unit p c : Nat} {dets : State → IssueCtx → List Det}
    {eff : State → IssueCtx → State} (hi : s.issuesFor h p c)
    (hd : ∀ w q d b o f m i, dets
      { s with ceWin := w, blot := q, od := d, bridge := b, outbox := o, flows := f, mgmt := m, i3c := i }
      ⟨p, c, s.schedAt p h.cyc⟩ = []) :
    ∃ w q d b o f m i, engineIssue h e unit dets eff s = .next
      (((eff { s with ceWin := w, blot := q, od := d, bridge := b, outbox := o, flows := f, mgmt := m, i3c := i }
        ⟨p, c, s.schedAt p h.cyc⟩).setUnitState unit 1).noteTime p (s.schedAt p h.cyc)) := by
  obtain ⟨hs, hr⟩ := hi
  simp only [engineIssue, engineRun, hs, State.underUpset]
  cases hu : h.upset with
  | none =>
    refine ⟨s.ceWin, s.blot, s.od, s.bridge, s.outbox, s.flows, s.mgmt, s.i3c, ?_⟩
    simp only
    rw [issueBody_clear]
    exact hd s.ceWin s.blot s.od s.bridge s.outbox s.flows s.mgmt s.i3c
  | corrected k n =>
    obtain ⟨w, q, d, b, o, f, m, i, e1⟩ := State.corrected_only s k h.acc e n
    refine ⟨w, q, d, b, o, f, m, i, ?_⟩
    simp only [e1]
    rw [issueBody_clear]
    exact hd w q d b o f m i
  | uncorrectable k a y => exact absurd hu (hr k a y)

/-- Without an upset the instruction sees the state itself. -/
theorem engineIssue_plain {h : Issue} {e unit p c : Nat} {dets : State → IssueCtx → List Det}
    {eff : State → IssueCtx → State} (hs : s.issuer h.acc = some (p, c))
    (hu : h.upset = .none) (hd : dets s ⟨p, c, s.schedAt p h.cyc⟩ = []) :
    engineIssue h e unit dets eff s = .next
      (((eff s ⟨p, c, s.schedAt p h.cyc⟩).setUnitState unit 1).noteTime p (s.schedAt p h.cyc)) := by
  simp only [engineIssue, engineRun, hs, hu, State.underUpset]
  rw [issueBody_clear]
  exact hd

/-- The units' own entries and schedule time lie outside the accords, the tiers and the contexts. -/
theorem State.setUnitState_only (u v : Nat) : ∃ d, s.setUnitState u v = { s with od := d } := by
  unfold State.setUnitState; split <;> exact ⟨_, rfl⟩

@[simp] theorem State.setUnitState_heart (u v : Nat) : (s.setUnitState u v).heart = s.heart := by
  obtain ⟨_, e⟩ := State.setUnitState_only s u v; rw [e]
@[simp] theorem State.setUnitState_base (u v : Nat) : (s.setUnitState u v).base = s.base := by
  obtain ⟨_, e⟩ := State.setUnitState_only s u v; rw [e]
@[simp] theorem State.setUnitState_ctx (u v : Nat) : (s.setUnitState u v).ctx = s.ctx := by
  obtain ⟨_, e⟩ := State.setUnitState_only s u v; rw [e]
@[simp] theorem State.setUnitState_accAt (u v a : Nat) : (s.setUnitState u v).accAt a = s.accAt a := by
  obtain ⟨_, e⟩ := State.setUnitState_only s u v; rw [e]; rfl
@[simp] theorem State.noteTime_acc (p n : Nat) : (s.noteTime p n).acc = s.acc := rfl
@[simp] theorem State.noteTime_heart (p n : Nat) : (s.noteTime p n).heart = s.heart := rfl
@[simp] theorem State.noteTime_base (p n : Nat) : (s.noteTime p n).base = s.base := rfl
@[simp] theorem State.noteTime_ctx (p n : Nat) : (s.noteTime p n).ctx = s.ctx := rfl
@[simp] theorem State.noteTime_accAt (p n a : Nat) : (s.noteTime p n).accAt a = s.accAt a := rfl

theorem detIf_false {b : Bool} (h : b = false) (code val ctr : Nat) : detIf b code val ctr = [] := by simp [detIf, h]
theorem readyDets_clear {v : VecEngine} {t : Nat} {l : List Nat} (h : ∀ r ∈ l, v.landed r ≤ t) : readyDets v t l = [] := by
  unfold readyDets
  rw [List.flatMap_eq_nil_iff]
  intro r hr
  exact detIf_false (by simpa using h r hr) _ _ _
theorem landDets_clear {v : VecEngine} {t : Nat} {l : List Nat} (h : ∀ r ∈ l, v.landed r < t) : landDets v t l = [] := by
  unfold landDets
  rw [List.flatMap_eq_nil_iff]
  intro r hr
  exact detIf_false (by simpa using h r hr) _ _ _

@[simp] theorem VecEngine.noteLand_tile (v : VecEngine) (t a : Nat) (l : List Nat) (r : Nat) :
    (v.noteLand t a l).tile r = v.tile r := rfl
@[simp] theorem VecEngine.noteLand_mask (v : VecEngine) (t a : Nat) (l : List Nat) (r : Nat) :
    (v.noteLand t a l).mask r = v.mask r := rfl
@[simp] theorem VecEngine.tile_setTile_same (v : VecEngine) (r : Nat) (x : List W32) : (v.setTile r x).tile r = x :=
  SMap.get_set_same _ _ _ _
theorem VecEngine.tile_setTile_ne (v : VecEngine) {r q : Nat} (x : List W32) (h : q ≠ r) : (v.setTile r x).tile q = v.tile q :=
  SMap.get_set_ne _ _ _ h
@[simp] theorem VecEngine.mask_setMask_same (v : VecEngine) (r : Nat) (x : List Bool) : (v.setMask r x).mask r = x :=
  SMap.get_set_same _ _ _ _
theorem VecEngine.mask_setMask_ne (v : VecEngine) {r q : Nat} (x : List Bool) (h : q ≠ r) : (v.setMask r x).mask q = v.mask q :=
  SMap.get_set_ne _ _ _ h
@[simp] theorem VecEngine.scalar_setScalar_same (v : VecEngine) (r : Nat) (x : W32) : (v.setScalar r x).scalar r = x :=
  SMap.get_set_same _ _ _ _
theorem VecEngine.scalar_setScalar_ne (v : VecEngine) {r q : Nat} (x : W32) (h : q ≠ r) :
    (v.setScalar r x).scalar q = v.scalar q := SMap.get_set_ne _ _ _ h

/-- An operation that only changes the vector engine: it answers a next state in which nothing else of the accord, no other
accord, no tier and no context differs, and the engine is the changed one with the write recorded and the pipe taken. -/
theorem veOp_changes {h : Issue} {i p c : Nat} {reads writes : List Nat} {extra : State → IssueCtx → List Det}
    {eff : State → IssueCtx → State} (g : VecEngine → VecEngine) (hi : s.issuesFor h p c) (hf : s.veFree h p c i reads writes)
    (hx : ∀ u x, extra u x = []) (he : ∀ u x, eff u x = u.modVe h.acc g) (hw : twiceDets writes = [] := by rfl) :
    ∃ t, veOp h i reads writes extra eff s = .next t ∧ OnlyVe s t h.acc
      ∧ t.veAt h.acc = { (g (s.veAt h.acc)).noteLand (s.schedAt p h.cyc) (s.schedAt p h.cyc + s.opLat c i) writes with
          pipeFree := s.schedAt p h.cyc + s.opIssue c i } := by
  obtain ⟨hf1, hf2, hf3⟩ := hf
  unfold veOp
  have key := engineIssue_clear s (h := h) (e := 0) (unit := unitId 2 h.acc) (p := p) (c := c)
    (dets := fun s x => extra s x ++ detIf (decide (x.t < (s.veAt h.acc).pipeFree)) 6 0
      ++ readyDets (s.veAt h.acc) x.t reads ++ landDets (s.veAt h.acc) (x.t + s.opLat x.ctx i) writes ++ twiceDets writes)
    (eff := fun s x => ((eff s x).modVe h.acc fun v =>
        { v.noteLand x.t (x.t + s.opLat x.ctx i) writes with pipeFree := x.t + s.opIssue x.ctx i }).bump
        (kVeBusyEc h.acc) 1) hi (by
      intro w q d b o f m j
      simp only [hx, List.nil_append, List.append_eq_nil_iff]
      refine ⟨⟨⟨detIf_false ?_ _ _ _, readyDets_clear hf2⟩, landDets_clear hf3⟩, hw⟩
      exact decide_eq_false (Nat.not_lt.mpr hf1))
  obtain ⟨w, q, d, b, o, f, m, j, e⟩ := key
  refine ⟨_, e, ?_, ?_⟩
  · simp only [he]
    refine ⟨⟨fun b' hb => ?_, ⟨?_, ?_⟩, ?_⟩, ?_⟩
    · simp only [State.noteTime_accAt, State.setUnitState_accAt, State.bump_accAt, State.modVe]
      rw [State.accAt_modAcc_ne _ _ hb, State.accAt_modAcc_ne _ _ hb]; rfl
    · simp
    · simp
    · simp
    · simp only [State.noteTime_accAt, State.setUnitState_accAt, State.bump_accAt, State.modVe, State.veAt,
        State.accAt_modAcc_same]
      rfl
  · simp only [he, State.veAt, State.noteTime_accAt, State.setUnitState_accAt, State.bump_accAt, State.modVe,
      State.accAt_modAcc_same]
    rfl

/-- An operation whose result is one tile register writes that register and nothing else. -/
theorem veTile_writes {h : Issue} {i p c : Nat} {dst : Fin 64} {srcs : List VSrc} (f : VecEngine → List W32)
    (hi : s.issuesFor h p c) (hf : s.veFree h p c i (srcs.map srcReg) [dst.val]) :
    ∃ t, veTile h i dst srcs f s = .next t ∧ TileWritten s t h.acc dst (f (s.veAt h.acc)) := by
  obtain ⟨t, e, ho, hv⟩ := veOp_changes s (fun v => v.setTile dst (f v)) hi hf (fun _ _ => rfl)
    (extra := fun _ _ => []) (eff := fun s _ => s.modVe h.acc fun v => v.setTile dst (f v)) (fun _ _ => rfl)
  refine ⟨t, e, ho, ?_, ?_, ?_, ?_⟩
  · rw [hv]; exact VecEngine.tile_setTile_same _ _ _
  · intro r hr
    rw [hv]
    exact VecEngine.tile_setTile_ne _ _ (fun q => hr (Fin.ext q))
  · rw [hv]; rfl
  · rw [hv]; rfl

/-- What has landed touches its accord and nothing else. -/
@[simp] theorem State.settle_ctx (a t : Nat) : (s.settle a t).ctx = s.ctx := rfl
@[simp] theorem State.settle_heart (a t : Nat) : (s.settle a t).heart = s.heart := rfl
@[simp] theorem State.settle_base (a t : Nat) : (s.settle a t).base = s.base := rfl
@[simp] theorem State.settle_od (a t : Nat) : (s.settle a t).od = s.od := rfl
@[simp] theorem Accord.land_ve (A : Accord) (l : LandAct) : (A.land l).ve = A.ve := by cases l <;> rfl
theorem Accord.landAll_ve (l : List Landing) (A : Accord) : (l.foldl (fun B x => B.land x.act) A).ve = A.ve := by
  induction l generalizing A with
  | nil => rfl
  | cons x l ih => exact (ih _).trans (Accord.land_ve A x.act)
@[simp] theorem Accord.settle_ve (A : Accord) (t : Nat) : (A.settle t).ve = A.ve := by
  simp [Accord.settle, Accord.landAll_ve]
@[simp] theorem State.settle_veAt_same (a t : Nat) : (s.settle a t).veAt a = s.veAt a := by
  simp [State.settle, State.veAt, State.accAt_modAcc_same]

/-- The same without an upset, for an operation that reads more than the engine's registers: what is due has landed first. -/
theorem veOp_plain {h : Issue} {i p c : Nat} {reads writes : List Nat} {extra : State → IssueCtx → List Det}
    {eff : State → IssueCtx → State} (g : VecEngine → VecEngine) (hi : s.issuesClean h p c)
    (hf : s.veFree h p c i reads writes) (hx : extra s ⟨p, c, s.schedAt p h.cyc⟩ = [])
    (he : eff s ⟨p, c, s.schedAt p h.cyc⟩ = (s.settle h.acc (s.schedAt p h.cyc)).modVe h.acc g)
    (hw : twiceDets writes = [] := by rfl) :
    ∃ t, veOp h i reads writes extra eff s = .next t ∧ OnlyVe (s.settle h.acc (s.schedAt p h.cyc)) t h.acc
      ∧ t.veAt h.acc = { (g (s.veAt h.acc)).noteLand (s.schedAt p h.cyc) (s.schedAt p h.cyc + s.opLat c i) writes with
          pipeFree := s.schedAt p h.cyc + s.opIssue c i } := by
  obtain ⟨hs, hu⟩ := hi
  obtain ⟨hf1, hf2, hf3⟩ := hf
  unfold veOp
  rw [engineIssue_plain s hs hu (by
    simp only [hx, List.nil_append, List.append_eq_nil_iff]
    exact ⟨⟨⟨detIf_false (decide_eq_false (Nat.not_lt.mpr hf1)) _ _ _, readyDets_clear hf2⟩, landDets_clear hf3⟩, hw⟩)]
  refine ⟨_, rfl, ?_, ?_⟩
  · simp only [he]
    refine ⟨⟨fun b' hb => ?_, ⟨?_, ?_⟩, ?_⟩, ?_⟩
    · simp only [State.noteTime_accAt, State.setUnitState_accAt, State.bump_accAt, State.modVe]
      rw [State.accAt_modAcc_ne _ _ hb, State.accAt_modAcc_ne _ _ hb]
    · simp
    · simp
    · simp
    · simp only [State.noteTime_accAt, State.setUnitState_accAt, State.bump_accAt, State.modVe, State.veAt,
        State.accAt_modAcc_same]
  · rw [← State.settle_veAt_same s h.acc (s.schedAt p h.cyc)]
    simp only [he, State.veAt, State.noteTime_accAt, State.setUnitState_accAt, State.bump_accAt, State.modVe,
      State.accAt_modAcc_same]
theorem randDets_clear {h : Issue} {c : Nat} {r : RandInfo} (ht : s.tagsRead h c r) : s.randDets h c r = [] := by
  unfold State.randDets
  split
  · obtain ⟨h1, h2⟩ := ht _ ‹_›
    rw [h1, h2 _ (List.mem_singleton.mpr rfl)]; rfl
  · rfl

end Sys2Proof.Machine
end

