-- ==== Sys2Proof/Laws/PerInstr.lean ====
section
/-!
SUPPORT. Statements made for all instructions: LAWS.json names no family.
-/
end

