-- ==== Sys2Proof/WellFormed.lean ====
section
/-!
DEFINITION. Well-formed commands: every operand fits the field or the range that the manual gives it. A field value that fits
and that the device itself turns away (a reserved code, a packet that R242 calls malformed) is well formed here: turning it
away is the command's meaning.
-/
namespace Sys2Proof

/-- A number fits `w` bits. -/
def fits (w n : Nat) : Bool := decide (n < 2 ^ w)
/-- A number lies from `a` to `b`. -/
def within (a b n : Nat) : Bool := decide (a ≤ n ∧ n ≤ b)
/-- A height of a scale tile: 1, 2, 4, to 2,048 rows (Tables 3-1 and 3-3). -/
def heightOk (h : Nat) : Bool := (List.range 12).any fun i => h == 2 ^ i
/-- A table of segments: a local address and 1 to 256 entries (R64). -/
def segListOk : Option (Nat × Nat) → Bool
  | none => true
  | some (a, n) => fits 25 a && within 1 256 n
/-- What a memory reports names a local address of 25 bits (Table 6-6). -/
def upsetOk : Upset → Bool
  | .uncorrectable _ a _ => fits 25 a
  | _ => true
/-- An issue cycle fits the 40 bits of ISSUE (Table 6-6). -/
def issueOk (h : Issue) : Bool := fits 40 h.cyc && upsetOk h.upset
/-- Pass parameters in the ranges of Table 3-1. -/
def passOk (p : PassParams) : Bool :=
  within 1 2048 p.m && within 1 128 p.kact && within 1 128 p.ncols && decide (p.asmode ≤ 2)
    && (p.wsmode == 0 || p.wsmode == 2) && heightOk p.atileH && decide (p.accBase < 2048) && segListOk p.seglist
/-- Epilogue parameters in the ranges of Table 3-3. -/
def epiOk (p : EpiParams) : Bool :=
  decide (p.srcBase < 2048) && within 1 2048 p.m && (p.tsmode == 0 || p.tsmode == 2) && decide (p.sOut ≤ 0xFE)
    && heightOk p.tileH && p.fout != .e8m0 && fits 24 p.tensorId && segListOk p.compact
/-- The Philox fields of a random operation: domain and tensor id (R44). -/
def randOk (r : RandInfo) : Bool := fits 8 r.domain && fits 24 r.tensorId && r.tags.all fun t => fits 25 t.addr && fits 24 t.tensor
/-- Conversion parameters. -/
def cvtOk (c : CvtParams) : Bool := randOk c.rand
/-- The scales of a load: an E8M0 value, or a plane. -/
def vscaleOk : VScale → Bool
  | .value e => fits 8 e
  | .plane a _ => fits 25 a
/-- What is read back of a code word names at most the symbols of one code word, each once, in rising order (R152). -/
def obsOk : ReadObs → Bool
  | .symbols l => !l.isEmpty && (l.zip (l.drop 1)).all fun q => decide (q.1 < q.2)
  | _ => true
/-- What the memory controller sees of the code words of an access, each well formed. -/
def obsListOk (l : List ReadObs) : Bool := l.all obsOk
/-- A decoded instruction of a core: the number of a CSR, the element width and the register counts of a vector instruction. -/
def coreOpOk : CoreOp → Bool
  | .csr _ _ n _ _ => fits 12 n
  | .vload _ _ _ eew nf _ => [8, 16, 32, 64].contains eew && within 1 8 nf
  | .vstore _ _ _ eew nf _ => [8, 16, 32, 64].contains eew && within 1 8 nf
  | .vext _ frac .. => [2, 4, 8].contains frac
  | .vmvNr n .. => [1, 2, 4, 8].contains n
  | _ => true
/-- What a task executes is well formed. -/
def actsOk (l : List CoreAct) : Bool := l.all fun a => coreOpOk a.op && obsListOk a.obs
/-- A request of an arbiter names an address of 44 bits. -/
def arbReqOk (r : ArbReq) : Bool := fits 44 r.addr
/-- A task descriptor in the fields of Table 4-6. -/
def taskOk (d : TaskDesc) : Bool := fits 64 d.entry && fits 64 d.arg && fits 64 d.stack && fits 32 d.budget && fits 32 d.taskSeq
/-- A codec job in the fields of Table 8-3. -/
def jobOk (j : CodecJob) : Bool :=
  fits 2 j.fmt && fits 2 j.stier && fits 44 j.saddr && fits 2 j.dtier && fits 44 j.daddr && fits 24 j.poolM1
    && fits 32 j.nblkM1 && fits 44 j.handle
/-- An access-stream instruction in the fields of Table 6-6. -/
def accessOk (i : AccessInstr) : Bool := fits 2 i.tier && fits 25 i.top && fits 44 i.taddr && fits 20 i.lenM1
/-- A write of a sequence stays in a DOMAIN's 32-bit offsets (R363). -/
def seqWriteOk (w : SeqWrite) : Bool := fits 32 w.off && fits 32 w.data.length
/-- A packet in the fields of Table 11-2; its payload has the length that LEN gives. -/
def packetOk (p : Packet) : Bool :=
  fits 42 p.addr && fits 2 p.tier && fits 16 p.epoch && fits 4 p.opcode && fits 13 p.len && fits 4 p.cls && fits 7 p.rtag
    && fits 20 p.flow && fits 14 p.dstQueue && fits 16 p.dstChip && fits 16 p.srcChip && p.payload.length == p.len
/-- A packet that may be absent. -/
def viaOk : Option Packet → Bool
  | none => true
  | some p => packetOk p
/-- An acknowledgement names a 12-bit sequence number (R239). -/
def linkAckOk : LinkAck → Bool
  | .none => true
  | .ack n => fits 12 n
  | .nak n => fits 12 n
/-- A frame: 12-bit sequence numbers, and its packet (R239). -/
def frameOk (f : Frame) : Bool := fits 12 f.lseq && linkAckOk f.ack && viaOk f.pkt
/-- A requester's record word. -/
def requesterOk : Requester → Bool
  | .context _ n => fits 32 n
  | _ => true
/-- A dictionary address: a flow of 20 bits, a 16-bit index, an 8-bit subindex, a 32-bit offset; the carrying packet only
in band (R371, R373). -/
def odAddrOk (a : OdAddr) : Bool :=
  fits 20 a.flow && fits 5 a.inst && fits 16 a.index && fits 8 a.sub && fits 32 a.off && viaOk a.via
    && (a.path == .inBand || a.via.isNone)
/-- A list of sixteen sensors, in degrees times eight, of 12 signed bits (R230, R395). -/
def sensorsOk (l : List Int) : Bool := l.length == 16 && l.all fun t => decide (-2048 ≤ t ∧ t < 2048)
/-- Failing-unit masks of 16 bits. -/
def maskOk (m : Nat) : Bool := fits 16 m
/-- Rail readings in millivolts of 16 bits. -/
def railsOk (l : List Nat) : Bool := l.all (fits 16)
/-- A channel of a DMA section: one of eight, a configuration word, at most 8 KiB of program (R135). -/
def dmaSectionOk (d : DmaSection) : Bool := decide (d.chan < 8) && fits 32 d.cfg && decide (d.program.length ≤ 8192)
/-- A slot image names an arbiter or a port that Tables 6-4, 6-5 and 11-6 know. -/
def slotTargetOk : SlotTarget → Bool
  | .accordArb _ k => decide (k < 26)
  | .chipArb k => decide (k < 82)
  | .port p => decide (p < 16)
/-- A fold variant in the widths of a directory entry and of CTX_CFG. -/
def variantBodyOk (v : VariantBody) : Bool :=
  fits 8 v.fold && fits 16 v.nmb && fits 16 v.rows && fits 8 v.segs && v.dma.all dmaSectionOk && v.slots.all fun q => slotTargetOk q.1
/-- A launch request in the fields of Table 10-2. -/
def launchReqOk (r : LaunchReq) : Bool := fits 4 r.action && fits 64 r.offset && fits 64 r.period && fits 4 r.gen
/-- What the sections of a binary hold for which the manual has no layout. -/
def binImageOk (b : BinImage) : Bool :=
  b.variants.all variantBodyOk && b.launch.all launchReqOk
    && b.flows.all fun q => fits 20 q.1 && fits 128 q.2
/-- A DIMM: rates of 14 bits, a capacity of 14 bits (Table 7-9). -/
def dimmOk (d : Dimm) : Bool := d.rates.all (fits 14) && fits 14 d.capacity
/-- What a start shows: sixteen masks, ports and DIMMs at most, error counts up to the saturation of Table 7-8, and PCIe numbers of one
byte. -/
def envOk (e : StartEnv) : Bool :=
  decide (e.testMasks.length ≤ 16 ∧ e.ports.length ≤ 16) && e.loopErrors.all (fun n => decide (n ≤ 65536))
    && e.ports.all (fun p => fits 16 p.flight) && e.testMasks.all maskOk && fits 8 e.pcieWidth && fits 8 e.pcieRate
    && decide (e.dimms.length ≤ 16) && (e.dimms.filterMap id).all dimmOk
/-- An access of the host to the endpoint: within BAR0's 1 MiB or configuration space's 4 KiB, a write to BAR0 within one block
of 64 bytes (Tables 11-9 and 11-10). -/
def hostAccessOk : HostAccess → Bool
  | .barWrite off d => !d.isEmpty && decide (off % 64 + d.length ≤ 64) && fits 20 off
  | .barRead off n => decide (off + n ≤ 2 ^ 20)
  | .cfgWrite off d => !d.isEmpty && decide (off + d.length ≤ 4096)
  | .cfgRead off n => decide (off + n ≤ 4096)
/-- A nonce of 32 bytes (R334). -/
def nonceOk (l : List Byte) : Bool := l.length == 32

/-- A command is well formed: each of its operands is. -/
def Instr.wellFormed : Instr → Bool
  | .pass h _ p => issueOk h && passOk p
  | .epilogue h _ p => issueOk h && epiOk p
  | .veLoad h _ addr _ _ _ scale _ tensor => issueOk h && fits 25 addr && vscaleOk scale && fits 24 tensor
  | .veStore h _ addr _ cv .. => issueOk h && fits 25 addr && cvtOk cv
  | .add h .. => issueOk h
  | .sub h .. => issueOk h
  | .mul h .. => issueOk h
  | .fma h .. => issueOk h
  | .div h .. => issueOk h
  | .sqrt h .. => issueOk h
  | .min h .. => issueOk h
  | .max h .. => issueOk h
  | .abs h .. => issueOk h
  | .neg h .. => issueOk h
  | .cmp h .. => issueOk h
  | .sel h .. => issueOk h
  | .intAdd h .. => issueOk h
  | .intSub h .. => issueOk h
  | .intMul h .. => issueOk h
  | .shl h .. => issueOk h
  | .shr h .. => issueOk h
  | .sra h .. => issueOk h
  | .and h .. => issueOk h
  | .or h .. => issueOk h
  | .xor h .. => issueOk h
  | .cvt h _ _ _ cv => issueOk h && cvtOk cv
  | .exp h .. => issueOk h
  | .log h .. => issueOk h
  | .rsqrt h .. => issueOk h
  | .rcp h .. => issueOk h
  | .tanh h .. => issueOk h
  | .erf h .. => issueOk h
  | .rand h _ r => issueOk h && randOk r
  | .dropout h _ _ r => issueOk h && randOk r
  | .rowsumSeq h .. => issueOk h
  | .rowsumTree h .. => issueOk h
  | .colsumSeq h .. => issueOk h
  | .rowmax h .. => issueOk h
  | .rowamax h .. => issueOk h
  | .colmax h .. => issueOk h
  | .colamax h .. => issueOk h
  | .mov h .. => issueOk h
  | .bcast h .. => issueOk h
  | .transpose h .. => issueOk h
  | .scatterAdd h addr _ _ _ tensor => issueOk h && fits 25 addr && fits 24 tensor
  | .entropy h .. => issueOk h
  | .taskPush h d => issueOk h && taskOk d
  | .taskDispatch _ cyc => fits 40 cyc
  | .taskEnd _ _ cyc acts => fits 40 cyc && actsOk acts
  | .taskTrap _ _ cyc acts .. => fits 40 cyc && actsOk acts
  | .taskBudgetOverrun _ _ cyc acts => fits 40 cyc && actsOk acts
  | .tokenPush h .. => issueOk h
  | .tokenPop h .. => issueOk h
  | .phaseEnd h .. => issueOk h
  | .code _ _ job obs => jobOk job && obsListOk obs
  | .codeMx8 _ _ job obs => jobOk job && obsListOk obs
  | .decode _ _ job obs => jobOk job && obsListOk obs
  | .flowData _ obs => obsListOk obs
  | .codecJobDone _ cyc => fits 40 cyc
  | .tolerantFreeze _ cyc .. => fits 40 cyc
  | .arbiterGrant _ cyc reqs up => fits 40 cyc && reqs.all arbReqOk && upsetOk up
  | .arbShadow _ _ w => seqWriteOk w
  | .chipArbShadow _ w => seqWriteOk w
  | .accessRead _ _ cyc _ ins obs => fits 40 cyc && accessOk ins && obsListOk obs
  | .accessWrite _ _ cyc _ ins up => fits 40 cyc && accessOk ins && upsetOk up
  | .accessSignal _ _ cyc _ ins => fits 40 cyc && accessOk ins
  | .accessWait _ _ cyc _ ins up => fits 40 cyc && accessOk ins && upsetOk up
  | .accessPhaseEnd _ _ cyc .. => fits 40 cyc
  | .readLanded _ _ cyc => fits 40 cyc
  | .writeVisible _ _ cyc => fits 40 cyc
  | .move _ _ cyc up obs => fits 40 cyc && upsetOk up && obsListOk obs
  | .loop _ _ cyc up => fits 40 cyc && upsetOk up
  | .dmaWait _ _ cyc up => fits 40 cyc && upsetOk up
  | .dmaSignal _ _ cyc up => fits 40 cyc && upsetOk up
  | .dmaEnd _ _ cyc up => fits 40 cyc && upsetOk up
  | .dmaWaitEnd _ _ cyc up => fits 40 cyc && upsetOk up
  | .lateOperandResume _ _ up => upsetOk up
  | .saveComplete _ ups => ups.all fun u => upsetOk u.2.2
  | .dmaResume _ _ cyc => fits 40 cyc
  | .tierRead _ _ who obs => requesterOk who && obsOk obs
  | .tierWrite _ _ _ who obs => requesterOk who && obsListOk obs
  | .scrubVisit _ _ _ obs => obsListOk obs
  | .ctxCfg _ w => seqWriteOk w
  | .launchEntry _ _ via => viaOk via
  | .holdWrite _ via => viaOk via
  | .timeBeacon _ stampEc master hops => fits 64 stampEc && fits 16 master && fits 8 hops
  | .sensorRead temps => sensorsOk temps
  | .frameReceive _ f => frameOk f
  | .negativeAck _ lseq => fits 12 lseq
  | .write pkt _ obs => packetOk pkt && obsListOk obs
  | .readReq pkt obs => packetOk pkt && obsListOk obs
  | .readRsp pkt => packetOk pkt
  | .queuePush pkt => packetOk pkt
  | .odRead pkt .. => packetOk pkt
  | .treeReduce pkt obs => packetOk pkt && obsListOk obs
  | .flowDigest pkt obs => packetOk pkt && obsListOk obs
  | .verdict pkt obs => packetOk pkt && obsListOk obs
  | .closure _ pkt obs => packetOk pkt && obsListOk obs
  | .closureEnd _ pkt obs => packetOk pkt && obsListOk obs
  | .slotShadow _ w => seqWriteOk w
  | .flowFetch flow => fits 20 flow
  | .linkTraining _ _ flight => fits 16 flight
  | .hostTransmit _ pkt host => packetOk pkt && host.all hostAccessOk
  | .rxRingTail _ _ host => host.all hostAccessOk
  | .configSweep _ mirror => upsetOk mirror
  | .fwNop _ env | .unload _ env | .fwStage _ env _ | .fwActivate _ env _ _ | .restart _ env | .fwMalformedCommand _ env => upsetOk env.sram
  | .recovery masks => masks.all maskOk
  | .unfenceTestDone mask => maskOk mask
  | .accordTestDone _ mask => maskOk mask
  | .flaconLoad _ layer => fits 12 layer
  | .layerCopyDone _ obs => obsOk obs
  | .keyslotWrite w => seqWriteOk w
  | .attestReq nonce => nonceOk nonce
  | .load _ env bin fallback peers => upsetOk env.sram && binImageOk bin && fallback.all binImageOk && peers.all (fits 5)
  | .startUp env => envOk env
  | .entryWrite a .. => odAddrOk a
  | .oobRead a .. => odAddrOk a
  | .busyTimeout a .. => odAddrOk a
  | .railRead mv => railsOk mv
  | .freezeEnd .. | .lateLimit .. | .chipImageSwap .. | .arbFreeze .. | .arbUnfreeze .. | .dmaDisable ..
  | .dmaDrained .. | .dmaEnable .. | .qreset .. | .fillComplete .. | .bucketLeak .. | .correctedWriteBack ..
  | .vmapDiscard .. | .memoryLoopback .. | .memoryLoopbackDone .. | .monCfg .. | .partMask .. | .tctData ..
  | .tctDataRead .. | .queueTailWrite .. | .queueHeadWrite .. | .completionRelease .. | .preempt ..
  | .resume .. | .restoreComplete .. | .teardown .. | .abortReq .. | .start .. | .stop ..
  | .drydown .. | .snapshot .. | .testWindow .. | .switchWeights .. | .launchLate .. | .selfLaunch ..
  | .counterClear .. | .syncPulse .. | .beaconSend .. | .syncHoldover .. | .syncLost .. | .grandmasterFailover ..
  | .thermalReport .. | .clockRestored .. | .xchTimeout .. | .commit .. | .cmpTimeout .. | .digestSeal ..
  | .scheduledSlot .. | .slotImageSwap .. | .portLoopback .. | .portLoopbackDone .. | .hostReceive ..
  | .msixRaise .. | .functionLevelReset .. | .xcheckRelease .. | .xcheckReport .. | .auditReq ..
  | .auditDone .. | .checkpointCopyDone .. | .blotterAppend .. | .recoveryWindowEnd .. | .fenceReq ..
  | .unfenceReq .. | .testReq .. | .accordTestDue .. | .testForced .. | .verify .. | .seal .. | .sealDone ..
  | .decant .. | .decantCopyStart .. | .gateLimit .. | .release .. | .epochPending .. | .attestDone ..
  | .taskFault .. | .kernelFault .. | .watchdogExpiry ..
  | .flashWindowOpen .. | .flashWindowClose .. | .statusWriteDone .. | .startLimit .. | .configCommit ..
  | .errStatusClear .. | .eventIrqHoldoff .. | .setEndpointId .. | .getEndpointId ..
  | .getMctpVersionSupport .. | .getMessageTypeSupport .. | .getVendorDefinedMsgSupport .. | .rstdaa .. | .entdaa ..
  | .setdasa .. | .setaasa .. | .enec .. | .disec .. | .rstact .. | .setmwl .. | .getmwl .. | .setmrl .. | .getmrl ..
  | .resetAssert .. | .strapLatch .. | .phaseSwitch .. | .phaseDrive .. | .syncOutPulse .. | .heartbeat ..
  | .dumpCycle .. | .d2dLoopback .. | .d2dLoopbackDone .. | .portDown .. | .freeWireTime .. | .launchRepeat ..
  | .d2dTraining .. | .verifyDone .. | .vmapDiscardDone .. | .dramTemperatureReport .. | .ceWindowExpiry ..
  | .pcieLinkDown .. | .perstN .. | .getpid .. | .getbcr .. | .getdcr .. | .getstatus ..
  | .getmxds .. => true

end Sys2Proof
end

