-- ==== Sys2Proof/Tests/Slice0.lean ====
section
/-!
SUPPORT. Tests: ill-formed commands that the well-formedness check refuses, small tests whose values come from the manual's tables
and worked examples, and for each statement states and operands that meet its hypotheses, clause by clause.
-/
namespace Sys2Proof.Tests
open Sys2Proof Sys2Proof.Machine

-- The kernel checks these theorems one after the other: none waits on a thread of its own.
set_option Elab.async false

/-! ### States for the tests -/

/-- The state after reset, in RUN (log entry 4), with values in entries. -/
def having (l : List (Nat × Nat)) : State := l.foldl (fun s q => s.odSet q.1 q.2) State.reset
/-- Context 0 as `x`, on partition 0, which is accord 0 alone. -/
def onPart (s : State) (x : Ctx) : State := ((s.odSet (kPartState 0) 1).odSet (kPartMask 0) 1).setCtx 0 x
/-- A context RUNNING in a step. -/
def running : Ctx := { Ctx.empty with st := .running, inStep := true }
/-- The chip with that context. -/
def ran : State := onPart State.reset running
/-- The issue of an instruction on accord 0 in cycle 9. -/
def iss : Issue := ⟨0, 9, 0, false, .none⟩
/-- A launch entry value. -/
def entry (count period group target action : Nat) : Nat :=
  count * 2 ^ 64 + period * 2 ^ 24 + group * 2 ^ 18 + target * 2 ^ 10 + action * 2 ^ 6 + 1
/-- The next state of an outcome; `s` where there is none. -/
def nx (i : Instr) (s : State) : State :=
  match exec i s with
  | .next t => t
  | _ => s

/-! ### The step -/

theorem witness_StepRunsFrontCommand : ({ State.reset with pending := [.setaasa] } : State).pending = .setaasa :: [] := rfl
theorem witness_EmptyQueueTicks : (State.reset.pending = [] ∧ State.reset.live = true)
    ∧ ((having [(kPhase, 0)]).pending = [] ∧ (having [(kPhase, 0)]).live = false ∧ (having [(kPhase, 0)]).odGet kPhase = 0)
    ∧ (having [(kPhase, 1)]).pending = [] ∧ (having [(kPhase, 1)]).live = false ∧ (having [(kPhase, 1)]).odGet kPhase ≠ 0 := by
  decide +kernel
/-- Entries: a one-shot START and a periodic DRYDOWN whose counts have come, a DRYDOWN for later. -/
def table : State := having [(kLaunchEntry 0, entry 0 0 0 0 1), (kLaunchEntry 1, entry 0 50 3 0 4), (kLaunchEntry 2, entry 500000 50 3 0 4)]
theorem witness_LaunchTableFires : table.pending = [] ∧ table.live = true ∧ (∀ e < 3, table.launch e < 2 ^ 128)
    ∧ (armed (table.launch 0) = true ∧ lCount (table.launch 0) ≤ table.tick.g ∧ lAction (table.launch 0) = 1 ∧ lPeriod (table.launch 0) = 0)
    ∧ (armed (table.launch 1) = true ∧ lCount (table.launch 1) ≤ table.tick.g ∧ lAction (table.launch 1) = 4 ∧ lPeriod (table.launch 1) ≠ 0
      ∧ lCount (table.launch 1) + lPeriod (table.launch 1) + table.holdExtra 1 < 2 ^ 64)
    ∧ table.tick.g < lCount (table.launch 2) := by decide +kernel
theorem witness_CommandsKeepQueue : exec .phaseSwitch State.reset = .next State.reset := by rfl

/-! ### Vector engine -/

/-- The vector engine of accord 0 is idle: rows of Table 4-2 may issue, whatever they read and write. -/
theorem ve_idle (i : Nat) (reads writes : List Nat) : ran.issuesClean iss 0 0 ∧ ran.issuesFor iss 0 0
    ∧ ran.veFree iss 0 0 i reads writes := by
  have hl : ∀ r, (ran.veAt iss.acc).landed r = 0 := fun r => by
    have : (ran.veAt iss.acc).land = [] := by decide +kernel
    simp [VecEngine.landed, this, landDefault]
  have ht : ran.schedAt 0 iss.cyc = 9 := by decide +kernel
  have hp : (ran.veAt iss.acc).pipeFree = 0 := by decide +kernel
  have hs : ran.issuer iss.acc = some (0, 0) := by decide +kernel
  exact ⟨⟨hs, rfl⟩, ⟨hs, by simp [readsWell, iss]⟩, by
    refine ⟨by omega, fun r _ => by rw [hl, ht]; omega, fun r _ => by rw [hl, ht]; omega⟩⟩
theorem witness_VectorArithmetic : ran.issuesFor iss 0 0 ∧ ran.veFree iss 0 0 0 [0, 64] [5] ∧ ran.veFree iss 0 0 1 [0, 64, 1] [5]
    ∧ ran.veFree iss 0 0 2 [0, 64] [5] ∧ ran.veFree iss 0 0 3 [0, 64] [5] ∧ ran.veFree iss 0 0 5 [0, 64] [5]
    ∧ ran.veFree iss 0 0 9 [0] [5] :=
  ⟨(ve_idle 0 [] []).2.1, (ve_idle 0 _ _).2.2, (ve_idle 1 _ _).2.2, (ve_idle 2 _ _).2.2,
    (ve_idle 3 _ _).2.2, (ve_idle 5 _ _).2.2, (ve_idle 9 _ _).2.2⟩
theorem witness_ShiftsByWholeAmount : ran.issuesFor iss 0 0 ∧ ran.veFree iss 0 0 5 [0, 64] [5] := (ve_idle 5 _ _).2
theorem witness_VectorReductionsAndCopies : ran.issuesFor iss 0 0 ∧ ran.veFree iss 0 0 12 [0, 1] [5] ∧ ran.veFree iss 0 0 13 [0] [5]
    ∧ ran.veFree iss 0 0 14 [0, 1] [5] ∧ ran.veFree iss 0 0 15 [0] [5] ∧ ran.veFree iss 0 0 4 [0, 1] [maskReg 2]
    ∧ ran.veFree iss 0 0 4 [0, 1, maskReg 2] [5] ∧ ran.veFree iss 0 0 16 [0] [5] ∧ ran.veFree iss 0 0 16 [0] [70] :=
  ⟨(ve_idle 0 [] []).2.1, (ve_idle 12 _ _).2.2, (ve_idle 13 _ _).2.2, (ve_idle 14 _ _).2.2,
    (ve_idle 15 _ _).2.2, (ve_idle 4 _ _).2.2, (ve_idle 4 _ _).2.2, (ve_idle 16 _ _).2.2,
    (ve_idle 16 _ _).2.2⟩
/-- A random operation without a table, and one whose table lies at the start of the scratchpad. -/
def draw (tags : Option TagTable) : RandInfo := ⟨1, 2, tags, 3, 4⟩
/-- A conversion, rounding to nearest or stochastically. -/
def conv (src tgt : Fmt) (rnd : Round) : CvtParams := ⟨src, tgt, rnd, false, true, draw (some ⟨64, 0, 0⟩)⟩
theorem witness_VectorRandomAndUnordered : ran.issuesClean iss 0 0 ∧ ran.tagsRead iss 0 (draw none)
    ∧ (ran.settle 0 9).tagsRead iss 0 (draw (some ⟨64, 0, 0⟩))
    ∧ (cvtIllegal (conv .fp32 .bf16 .sr) = false ∧ fmtMx (conv .fp32 .bf16 .sr).tgt = false)
    ∧ (cvtIllegal (conv .fp32 .e2m1 .rne) = false ∧ fmtMx (conv .fp32 .e2m1 .rne).tgt = true ∧ (5 : Fin 64) ≠ 6)
    ∧ (∀ i ∈ (ran.veAt 0).src (.scalar 0), inSp (128 + 4 * i.toNat) 4 = true) ∧ ran.topQuiet 0 ∧ ran.ownTags 0 = false := by
  refine ⟨(ve_idle 0 [] []).1, ?_, ?_, by decide +kernel, by decide +kernel, ?_, ?_, by decide +kernel⟩
  · intro q h; simp [draw] at h
  · intro q h; simp only [draw, Option.some.injEq] at h; subst h; simp only [State.marksMatch]; decide +kernel
  · intro i h; rw [List.eq_of_mem_replicate h]; decide +kernel
  · simp only [State.topQuiet]; decide +kernel
theorem witness_VectorLoadsAndStores : ran.issuesClean iss 0 0
    ∧ (∀ q ∈ loadRanges 4096 128 .fp32 none (.value 127), inTop q.1 q.2 = true)
    ∧ (∀ q ∈ loadRanges 4096 64 .e4m3 (some .fp32) (.plane 0 4), inTop q.1 q.2 = true)
    ∧ (loadScaleOk .e4m3 (.plane 0 4) = true ∧ widenOk .e4m3 .fp32 = true)
    ∧ (ran.veAt 0).loadFree ≤ ran.schedAt 0 9 ∧ (ran.veAt 0).landed 5 < ran.schedAt 0 9 + ran.portTime 0 (rowRanges 4096 128 .fp32)
    ∧ (ran.settle 0 9).marksMatch iss 0 (loadRanges 4096 128 .fp32 none (.value 127)) 0 0
    ∧ (∀ q ∈ storeRanges 4096 128 (conv .fp32 .bf16 .rne) (0, 4) (some 64), inTop q.1 q.2 = true)
    ∧ (narrows (conv .fp32 .bf16 .rne) = true ∧ cvtIllegal (conv .fp32 .bf16 .rne) = false)
    ∧ (ran.veAt 0).storeFree ≤ ran.schedAt 0 9 ∧ (ran.settle 0 9).topQuiet 0
    ∧ (fmtMx (conv .fp32 .fp32 .rne).tgt = false ∧ rowBytes .fp32 32 ≤ 128) := by
  refine ⟨(ve_idle 0 [] []).1, ?_⟩
  simp only [State.marksMatch, State.topQuiet]
  decide +kernel

/-! ### Matrix engines -/

/-- The issue of a pass and an epilogue in cycle 500. -/
def issM : Issue := { iss with cyc := 500 }
/-- A pass over two rows and four columns of BF16, and one of two segments over two row segments. -/
def pp : PassParams := ⟨0, 2, 32, 4, .bf16, .bf16, 0, 127, 1, 0, 127, 4096, false, 0, false, 0, 8192, none⟩
/-- An epilogue of two rows to BF16. -/
def ep : EpiParams := ⟨0, 2, .none, 0, .fp32, 0, 127, .bf16, 127, 1, .rne, false, 65536, 64, none, 1, 0, 0, 0, 0, 0, 0⟩
/-- An epilogue that adds a tensor. -/
def ep2 : EpiParams := { ep with op := .add, tsrc := 131072 }
theorem witness_MatrixPassesAndEpilogues : ran.issuesClean issM 0 0 ∧ passDets 0 1 pp (ran.settle 0 500) ⟨0, 0, 500⟩ = []
    ∧ (pp.seglist = none ∧ pp.wtrans = false ∧ 1 < pp.m ∧ 3 < pp.ncols) ∧ epiDets 0 1 issM ep (ran.settle 0 500) ⟨0, 0, 500⟩ = []
    ∧ epiDets 0 1 issM ep2 (ran.settle 0 500) ⟨0, 0, 500⟩ = [] ∧ ep2.op ≠ .none
    ∧ apart ep.dst (epiBytes ep) ep.status (16 * (ep.m / ep.tileH)) := by
  refine ⟨⟨by decide +kernel, rfl⟩, ?_⟩
  simp only [apart]
  decide +kernel
theorem witness_IssueGate : ran.issuer 9 = none ∧ (having [(kGrade, 1)]).hasAccord 12 = false ∧ (having [(kGrade, 1)]).odGet kGrade = 1
    ∧ (having [(kPhase, 0)]).live = false ∧ ran.issuer 0 = some (0, 0) := by decide +kernel
theorem witness_DetectionStopsContext : ran.issuesClean iss 0 0 ∧ (ran.ctxAt 0).st ≠ .free
    ∧ (∃ r, passDets 0 1 { pp with m := 0 } ran ⟨0, 0, 9⟩ = ⟨1, 0, 0⟩ :: r) ∧ ran.blot.staging.length < 64 ∧ ran.recQ = [] :=
  ⟨(ve_idle 0 [] []).1, by decide +kernel, ⟨[], by decide +kernel⟩, by decide +kernel, by decide +kernel⟩
theorem witness_MemoryErrorsAtIssue : ran.issuer 0 ≠ none ∧ (ran.ctxAt 0).st ≠ .free ∧ ran.blot.staging.length < 64
    ∧ ran.odGet (ceEntries .registers 0 0).1 ≤ counterMax (ceEntries .registers 0 0).1 := by decide +kernel

/-! ### Tasks, tokens, freezes, phases -/

/-! ### Tasks, tokens, freezes, phases -/

/-- A variant of two phases with a compute stream and a stream of access engine 1, and one completion in cycle 5 of phase 0 that
ME_ISSUE governs. -/
def variant : Variant :=
  ⟨0, [20, 20], [], 65536, 65536, 0, 0, 0, [[], []], [(0, [])], [(0, 1, [])], [], [], [], 40, [(0, 5, [0x0101])]⟩
/-- A binary of it, whose manifest holds 0 for that entry. -/
def binary : Binary :=
  ⟨0, 0, 0, 7, 1, 1, 4, 1, 0, true, 0, 0, 0, 0, 0, [], [(0x0101, 0, 0)], [], [], [variant], [], []⟩
/-- A context that runs it, with windows of 1 MiB in both tiers. -/
def programmed : Ctx :=
  { running with prog := some binary, heartBase := 0x40000000, heartSize := 0x100000, baseBase := 0x40000000, baseSize := 0x100000 }
/-- The chip with that context. -/
def progRan : State := onPart State.reset programmed
/-- The same in tolerant mode. -/
def tolRan : State := progRan.odSet (kCtxMode 0) 2
/-- A task of 100 cycles that pushes to queue 3. -/
def task : TaskDesc := ⟨coreCode, 0, coreSp, 100, 7, 0, 3, none⟩
/-- The task waits on accord 0. -/
def queued : State := ran.modAcc 0 fun A => { A with tasks := [(task, 1)] }
/-- The task runs on core 1, dispatched in cycle 2. -/
def busy : State := progRan.modCore 0 1 fun _ => Core.start task 2 (0x100000, 0x100000)
/-- It stores eight bytes of the stack pointer's register at the start of its stack. -/
def stored : CoreAct := ⟨.store 2 2 0 3, false, false, false, [], .none⟩
theorem witness_TasksOfTheCores : ran.issuesClean iss 0 0 ∧ ran.taskOcc 0 9 < 16
    ∧ (queued.coreHost 0 3 = some (0, 0) ∧ queued.dispatchedAt 0 9 = false ∧ (queued.accAt 0).tasks = [(task, 1)] ∧ queued.taskOn 0 0 = none
      ∧ queued.coreFenced 0 0 = false)
    ∧ (let r : Running := ⟨task, 2⟩
       let x := busy.coreAt 0 1
       busy.coreHost 0 r.task.tokq = some (0, 0) ∧ busy.taskOn 0 1 = some r ∧ (busy.schedAt 0 90 : Int) ≤ 2 + task.budget
       ∧ busy.tokFull 0 3 90 = false ∧ task.out = none ∧ busy.endsFrom 0 1 90 r [] ≤ 90 ∧ busy.endsFrom 0 1 90 r [stored] ≤ 90
       ∧ coreCode ≤ x.pc ∧ x.pc < coreCode + 2 ^ 28 ∧ wrapInt 64 ((x.getX 2 : Int) + 0) = coreSp ∧ coreSp + accSize 3 ≤ coreSp + spSize
       ∧ x.pmpOk false x.pc 2 2 = true ∧ x.pmpOk x.dataMode coreSp (accSize 3) 1 = true ∧ busy.ownTags r.task.ctx = false)
    ∧ (busy.ctxAt 0).st ≠ .free ∧ (2 + task.budget : Int) ≤ busy.schedAt 0 102 ∧ busy.blot.staging.length < 64 :=
  ⟨(ve_idle 0 [] []).1, by decide +kernel⟩
/-- Two tokens wait in queue 3. -/
def tokens : State := ran.setTokq 0 3 ⟨[⟨5, none, 0⟩, ⟨6, some 2, 0⟩], 0, 0⟩
/-- The context has waited for one of them since count 0. -/
def late : State := tokens.modGuard 0 fun g => { g with lateFrozen := true, waiting := [(0, 3, 1)] }
/-- The clock of `s` at `n`. -/
def at_ (s : State) (n : Nat) : State := { s with time := { s.time with g := n } }
theorem witness_TokensMoveInOrder : tokens.issuesClean iss 0 0 ∧ tokens.tokFull 0 3 9 = false ∧ tokens.tokReady 0 0 3 9 1 = true
    ∧ tokens.tokReady 0 0 3 9 3 = false ∧ (State.reset.hasAccord 2 = true ∧ State.reset.ctxOn 2 = none)
    ∧ (late.runningOn 0 = some 0 ∧ (late.guardAt 0).lateFrozen = true ∧ (late.guardAt 0).waiting = [(0, 3, 1)]
      ∧ late.tokReady 0 0 3 ((late.guardAt 0).now + 40) 1 = true) :=
  ⟨⟨by decide +kernel, rfl⟩, by decide +kernel⟩
theorem witness_FreezesOfTheGuard : (tolRan.runningOn 0 = some 0 ∧ tolRan.live = true ∧ (tolRan.ctxAt 0).inStep = true ∧ tolRan.tolerant 0 = true
      ∧ tolRan.lateExcess 0 (tolRan.guardAt 0).phase 5 = 1 ∧ (tolRan.guardAt 0).lateFrozen = false
      ∧ tolRan.odGet (kCtxFreezeEc 0) ≤ counterMax (kCtxFreezeEc 0) ∧ (tolRan.guardAt 0).tolWritten = false
      ∧ tolRan.blot.staging.length < 64)
    ∧ ((at_ late (10 ^ 12)).runningOn 0 = some 0 ∧ ((at_ late (10 ^ 12)).guardAt 0).lateFrozen = true
      ∧ ((at_ late (10 ^ 12)).guardAt 0).frozenAt + (at_ late (10 ^ 12)).odGet kLateLimit ≤ (at_ late (10 ^ 12)).g
      ∧ ((at_ late (10 ^ 12)).ctxAt 0).st ≠ .free)
    ∧ late.g < (late.guardAt 0).frozenAt + late.odGet kLateLimit := by decide +kernel
theorem witness_PhaseEnds : progRan.issuesClean iss 0 0 ∧ progRan.streamOpen 0 0 0 0 (computeCode 0)
    ∧ progRan.accessIssues 0 0 0 ∧ progRan.streamOpen 0 0 0 0 (accessCode 0 1) ∧ (progRan.accessAt 0 1).free ≤ progRan.schedAt 0 9 := by
  simp only [State.issuesClean, State.streamOpen, State.accessIssues]
  decide +kernel

/-! ### Access engines, DMA channels and the codec -/

/-- A READ of 64 B from the heart window to the scratchpad, a WRITE, a SIGNAL of 7 to queue 3, a WAIT for one token of it. -/
def accRead : AccessInstr := ⟨1, 0, 4096, 128, 0, 3, 7, 0, false, false, 0⟩
/-- The WRITE. -/
def accWrite : AccessInstr := { accRead with op := 2 }
/-- The SIGNAL. -/
def accSignal : AccessInstr := { accRead with op := 3 }
/-- The WAIT. -/
def accWait : AccessInstr := { accRead with op := 4, value := 1 }
/-- What is in flight on engine 1. -/
def flying (l : List InFlight) : State := progRan.setAccess 0 1 ⟨0, l⟩
theorem witness_AccessTransfers : progRan.accessIssues 0 0 0
    ∧ (transferDets 0 1 accRead false (progRan.settle 0 9) ⟨0, 0, 9⟩ = [] ∧ progRan.window 0 false 128 64 false = some 0x40000080
      ∧ progRan.rangeFenced false 0x40000080 64 = false)
    ∧ (transferDets 0 1 accWrite true (progRan.settle 0 9) ⟨0, 0, 9⟩ = [] ∧ progRan.window 0 false 128 64 true = some 0x40000080
      ∧ progRan.unfenced false 0x40000080 64 ∧ progRan.narrowHit 0 false 0x40000080 (((progRan.settle 0 9).accAt 0).top.readN 4096 64) = none)
    ∧ ((progRan.accessAt 0 1).free ≤ 9 ∧ (progRan.accessAt 0 1).flight = [] ∧ accSignal.op = 3 ∧ progRan.tokFull 0 3 9 = false)
    ∧ (flying [.write 4 accWrite 8]).accessIssues 0 0 0
    ∧ (accWait.op = 4 ∧ accWait.value.toNat % 64 = 1 ∧ tokens.accessIssues 0 0 0 ∧ tokens.tokReady 0 0 3 9 1 = true)
    ∧ ((flying [.read 4 accRead [1, 2] false 8]).live = true ∧ (flying [.read 4 accRead [1, 2] false 8]).partOf 0 = some 0
      ∧ (flying [.read 4 accRead [1, 2] false 8]).schedAt 0 9 = 9 ∧ progRan.ownTags 0 = false
      ∧ (flying [.read 4 accRead [1, 2] false 8]).ctxOn 0 = some 0 ∧ accRead.tok = false)
    ∧ (flying [.write 4 accWrite 8, .signal 5 accSignal]).tokFull 0 3 9 = false := by
  simp only [State.accessIssues, State.unfenced]
  decide +kernel
/-- A MOVE of 64 B between spaces: scratchpad 0, heart 1, base 2. -/
def moveWord (sp dp src dst : Nat) : Nat := 1 * 2 ^ 252 + sp * 2 ^ 249 + dp * 2 ^ 246 + src * 2 ^ 200 + dst * 2 ^ 156
/-- Channel 2 of accord 0 in state `st` at instruction 0, which is `v`, with configuration word `cfg`. -/
def chan (st v cfg : Nat) : State :=
  (((progRan.odSet (kDmaCtrl 0 2) (st * 2 ^ 26)).odSet (kDmaProgram 0 2) v).odSet (kDmaCfg 0 2) cfg).setTokq 0 3 ⟨[⟨5, none, 0⟩], 0, 0⟩
/-- The channel's first instruction waits for a write that lands in cycle 40. -/
def owing (s : State) : State := s.modChan 0 2 fun x => { x with outstanding := [40] }
/-- Flow 9 in the cache: context 0 sends on it to chip 2 and receives on it in its heart window. -/
def flow9 : Nat := 2 * 2 ^ 112 + 0x1000 * 2 ^ 32 + 2 ^ 4 + 2 ^ 3
/-- A state with flow entries. -/
def flowing (s : State) (l : List (Nat × Nat)) : State := { s with flowCache := l }
/-- A WAIT, SIGNAL, END or LOOP word with queue 3. -/
def waitWord (op n v : Nat) : Nat := op * 2 ^ 252 + 3 * 2 ^ 247 + n * 2 ^ 240 + v * 2 ^ 208
theorem witness_DmaMoveCopies :
    ((chan 3 (moveWord 0 1 0 64) (2 ^ 4 + 3 * 2 ^ 27)).chanAtOp 0 2 0 0 1 ∧ (chan 3 (moveWord 0 1 0 64) (2 ^ 4 + 3 * 2 ^ 27)).pauseCond 0 2 9 = true)
    ∧ (let s := chan 3 (moveWord 1 0 0 64) 0
       s.chanAtOp 0 2 0 0 1 ∧ s.pauseCond 0 2 9 = false ∧ moveMalformed (s.chanAt 0 2) (s.chanInstr 0 2) = false
       ∧ (s.moveRange 0 1 0 64 false).toOption = some 0x40000000 ∧ s.rangeFenced false 0x40000000 64 = false ∧ s.chanPc 0 2 ≠ 255
       ∧ (s.moveRange 0 0 64 64 true).toOption = some 64 ∧ (s.settle 0 9).topQuiet 0 ∧ s.ownTags 0 = false)
    ∧ (let s := chan 3 (moveWord 0 2 0 64) 0
       s.chanAtOp 0 2 0 0 1 ∧ s.pauseCond 0 2 9 = false ∧ moveMalformed (s.chanAt 0 2) (s.chanInstr 0 2) = false
       ∧ (s.moveRange 0 0 0 64 false).toOption = some 0 ∧ (s.settle 0 9).marksMatch ⟨0, 0, 0, false, .none⟩ 0 [(0, 64)] 0 0
       ∧ (s.moveRange 0 2 64 64 true).toOption = some 0x40000040 ∧ s.unfenced true 0x40000040 64)
    ∧ (let s := flowing (chan 3 (moveWord 0 3 0 0 + 9 * 2 ^ 180) 0) [(9, flow9)]
       s.chanAtOp 0 2 0 0 1 ∧ moveMalformed (s.chanAt 0 2) (s.chanInstr 0 2) = false ∧ s.fabMalformed 0 (s.chanInstr 0 2) = false
       ∧ 0 < s.sendMax 0 9) := by
  simp only [State.chanAtOp, State.topQuiet, State.unfenced, State.marksMatch]
  decide +kernel
theorem witness_DmaControl :
    (let s := (chan 3 (2 ^ 256 * (2 * 2 ^ 252 + 2 * 2 ^ 208)) 0).setChanPc 0 2 1
     s.chanAtOp 0 2 0 0 2 ∧ bits (s.chanInstr 0 2) 239 208 = 2 ∧ bits (s.chanInstr 0 2) 247 240 < s.chanPc 0 2 ∧ s.chanPc 0 2 ≠ 255)
    ∧ (let s := chan 3 (waitWord 3 1 0) 0
       s.chanAtOp 0 2 0 0 3 ∧ s.tokReady 0 0 3 9 1 = true ∧ s.chanPc 0 2 ≠ 255)
    ∧ ((chan 3 (waitWord 3 9 0) 0).chanAtOp 0 2 0 0 3 ∧ (chan 3 (waitWord 3 9 0) 0).tokReady 0 0 3 9 9 = false)
    ∧ (let s := chan 3 (waitWord 4 0 8) 0
       s.chanAtOp 0 2 0 0 4 ∧ s.chanDrained 0 2 9 = true ∧ (owing s).chanDrained 0 2 9 = false ∧ s.tokFull 0 3 9 = false)
    ∧ (let s := chan 3 (waitWord 5 64 8) 0
       s.chanAtOp 0 2 0 0 5 ∧ s.chanDrained 0 2 9 = true ∧ (owing s).chanDrained 0 2 9 = false ∧ bit (s.chanInstr 0 2) 246 = true)
    ∧ (let s := chan 5 (waitWord 3 1 0) 0
       s.issuer 0 = some (0, 0) ∧ s.chanState 0 2 = .waiting ∧ chanOp (s.chanInstr 0 2) = 3 ∧ s.tokReady 0 0 3 9 1 = true)
    ∧ ((chan 5 (waitWord 4 0 8) 0).chanState 0 2 = .waiting ∧ (owing (chan 5 (waitWord 4 0 8) 0)).chanDrained 0 2 40 = true)
    ∧ ((chan 5 (waitWord 5 0 8) 0).chanState 0 2 = .waiting ∧ bit ((chan 5 (waitWord 5 0 8) 0).chanInstr 0 2) 246 = false)
    ∧ (let s := chan 4 0 (2 ^ 26 + 3 * 2 ^ 27 + 2 ^ 19)
       s.chanState 0 2 = .paced ∧ s.runCond 0 2 9 = true)
    ∧ (let s := chan 1 0 0
       s.odBit (kDmaCtrl 0 2) 31 = false ∧ s.chanState 0 2 = .idle ∧ s.ctxOn 0 = some 0 ∧ (s.ctxAt 0).st ≠ .free
       ∧ (having [(kDmaCtrl 0 2, 2 ^ 26)]).hasAccord 0 = true ∧ (having [(kDmaCtrl 0 2, 2 ^ 26)]).chanState 0 2 = .idle
       ∧ (having [(kDmaCtrl 0 2, 2 ^ 26)]).ctxOn 0 = none)
    ∧ (having [(kDmaCtrl 0 2, 2 ^ 31)]).odBit (kDmaCtrl 0 2) 31 = true := by
  simp only [State.chanAtOp]
  decide +kernel
/-- A CODE of one block of BF16 from the heart window to a pool in the base window. -/
def job : CodecJob := ⟨0, 3, 5, 0, 0, 1, 0, 0, 0, 0x8000⟩
/-- The task of core 1 runs in a programmed context. -/
def coder : State := progRan.modCore 0 1 fun _ => Core.start task 2 (0x100000, 0x100000)
/-- The handle and the coded block of 256 zeros: its header, and 256 bytes of signs and mantissas. -/
def coded : State :=
  (coder.devWrite false 0x40008000 (leBytes 8 0 ++ leBytes 4 258 ++ leBytes 4 0)).devWrite false 0x40000000 (List.replicate 258 0)
theorem witness_CodecRestoresAndJobs : (List.replicate 512 (0 : Byte)).length = 1 * rawBlock .bf16
    ∧ (coder.taskOn 0 1 = some ⟨task, 2⟩ ∧ coder.coreHost 0 task.tokq = some (0, 0) ∧ Machine.jobOk 1 job = true ∧ Machine.jobOk 2 job = true ∧ coder.fillsOk
      ∧ coder.mayRead 0 0 0 512 0x40000000 ∧ (codeTensor .bf16 false 1 (coder.tierBytes false 0x40000000 512)).2.length = 258
      ∧ coder.mayWrite 0 1 0 (List.replicate 320 0) 0x40000000 ∧ coder.mayWrite 0 0 0x8000 (List.replicate 16 0) 0x40008000
      ∧ coder.offMap true 0x40000000 320 ∧ coder.offMap false 0x40008000 16)
    ∧ (Machine.jobOk 3 job = true ∧ coded.mayRead 0 0 0x8000 16 0x40008000
      ∧ field (coded.tierBytes false 0x40008000 16) 8 4 = 258 ∧ field (coded.tierBytes false 0x40008000 16) 12 1 = 0
      ∧ coded.mayRead 0 0 0 258 0x40000000
      ∧ decodeTensor .bf16 1 (coded.tierBytes false 0x40000000 258) = some (List.replicate 512 0)
      ∧ coded.mayWrite 0 1 0 (List.replicate 512 0) 0x40000000)
    ∧ (let s : State := { coder with codec := [⟨0, 1, job⟩] }
       s.coreHost 0 job.tokq = some (0, 0) ∧ s.tokFull 0 job.tokq 9 = false) := by
  simp only [State.fillsOk, State.mayRead, State.mayWrite, State.unfenced, State.offMap]
  decide +kernel

/-! ### Memory tiers -/

/-- One byte of the heart window has been written. -/
def wrote : State := progRan.devWrite false 0x40000000 [1]
theorem witness_TierWritesAndReads : (ran.rangeOk false 0x40000000 3 = true ∧ ran.live = true ∧ ran.writable false 0x40000000 [1, 2, 3] (.context 0 9))
    ∧ (([1, 2, 3] : List Byte) ≠ [] ∧ ran.rangeOk true (2 ^ 43) 3 = false ∧ (∀ c i, Requester.host ≠ .context c i) ∧ (ran.ctxAt 0).st ≠ .free
      ∧ ran.blot.staging.length < 64)
    ∧ ran.memOk
    ∧ (ran.addrOk true (2 ^ 43) = false ∧ ran.addrOk false 0x40000000 = true ∧ ran.rangeFenced false 0x40000000 1 = false)
    ∧ readKind false .clean = .clean
    ∧ (readKind false (.symbols [4, 5]) ≠ .mapError ∧ ran.cwZero false 0x40000000 = true)
    ∧ (readKind false (.symbols [4, 5]) = .corrected ∧ wrote.cwZero false 0x40000000 = false
      ∧ wrote.odGet (ceKey false (wrote.place false 0x40000000).chan) + 1 < counterMax (ceKey false (wrote.place false 0x40000000).chan))
    ∧ (readKind false (.symbols [0, 71]) = .uncorrectable
      ∧ wrote.odGet (uceKey false (wrote.place false 0x40000000).chan) + 1 < counterMax (uceKey false (wrote.place false 0x40000000).chan)
      ∧ (wrote.ctxAt 0).st = .running ∧ wrote.ctx.map Prod.fst = [0]) := by
  refine ⟨?_, ⟨by decide, by decide +kernel, nofun, by decide +kernel, by decide +kernel⟩, ?_⟩
  · refine ⟨by decide +kernel, by decide +kernel, ?_, fun c h => ?_⟩
    · simp only [State.unfenced]; decide +kernel
    · have : c = 0 := by simpa [State.userOf] using h.symm
      subst this; decide +kernel
  · simp only [State.memOk]
    decide +kernel
/-- VMAP_DISCARD of two granules of the base tier. -/
def discardWord : W64 := BitVec.ofNat 64 (2 ^ 63 + 0x9000 * 2 ^ 32 + 2)
/-- A loop-back control: start, channel 5, mode 1. -/
def loopWord : W32 := 0x80050001
theorem witness_TierHousekeepingAndLoopBacks : wrote.live = true ∧ wrote.fillOf false 0x4000 = some ⟨false, 0x4000, [0]⟩
    ∧ wrote.chanOk false 5 = true
    ∧ (State.reset.jobs.discard = none ∧ 1 ≤ bits discardWord.toNat 26 0 ∧ bits discardWord.toNat 26 0 ≤ 2 ^ 26
      ∧ State.reset.discardable (bit discardWord.toNat 63) (bits discardWord.toNat 57 32) (bits discardWord.toNat 26 0) = true
      ∧ State.reset.meeting (bit discardWord.toNat 63) (bits discardWord.toNat 57 32 * 65536) (bits discardWord.toNat 26 0 * 65536) = [])
    ∧ (nx (.vmapDiscard discardWord) State.reset).jobs.discard = some discardWord.toNat
    ∧ State.reset.odBit kHeartPositions 7 = true
    ∧ (bit loopWord.toNat 31 = true ∧ State.reset.odBit kMemLoopbackCtrl 30 = false ∧ State.reset.allFree = true
      ∧ State.reset.chanOk (decide (3 ≤ loopWord.toNat % 16)) (bits loopWord.toNat 23 16) = true)
    ∧ progRan.allFree = false ∧ (nx (.memoryLoopback loopWord) State.reset).odBit kMemLoopbackCtrl 30 = true
    ∧ (State.reset.odBit (kFabricLoopbackCtrl 3) 30 = false ∧ State.reset.odGet (kPortState 3) ≤ 2 ∧ State.reset.portOwned 3 = false
      ∧ loopWord.toNat % 8 = 1)
    ∧ (nx (.portLoopback 3 loopWord) State.reset).odBit (kFabricLoopbackCtrl 3) 30 = true := by decide +kernel

/-! ### Time base -/

theorem witness_SynchronisationAndBeacons : State.reset.live = true
    ∧ (let s := having [(kSyncRole, 0), (kSyncState, 1), (kSyncHops, 6)]
       s.odGet kSyncRole = 0 ∧ s.odGet kSyncState = 1 ∧ (-4 : Int).natAbs ≤ 4 ∧ s.odGet kSyncHops ≤ 6)
    ∧ (let s := at_ (having [(kSyncRole, 0), (kSyncState, 2)]) 65
       s.odGet kSyncRole = 0 ∧ s.odGet kSyncState = 2 ∧ 64 < s.g % 2 ^ 20 ∧ s.g % 2 ^ 20 < 2 ^ 20 - 64
       ∧ s.odGet kSyncSpurious + 1 < counterMax kSyncSpurious)
    ∧ (let s := having [(kSyncState, 0), (kSyncUpstream, 4), (kSyncRole, 1)]
       s.odGet kSyncUpstream = 4 ∧ s.odGet kSyncRole ≠ 2 ∧ s.odGet kSyncState = 0 ∧ s.mayAcquire = true)
    ∧ (let s := having [(kSyncState, 2), (kSyncRole, 1), (kMasterPriority, 1)]
       s.odGet kSyncState = 2 ∧ s.loadedCtxs = [] ∧ s.blot.staging.length < 64 ∧ s.odGet kSyncRole = 1 ∧ s.odGet kMasterPriority ≠ 0)
    ∧ (let s := (having [(kSyncRole, 1), (kPortState 3, 2)]).modPort 3 fun y => { y with cfg := 2 ^ 8 }
       s.odGet kSyncRole ≠ 0 ∧ s.g % 4096 = 0 ∧ bit (s.portAt 3).cfg 8 = true ∧ s.portUp 3 = true ∧ s.portUp 4 = false) := by
  decide +kernel
theorem witness_SensorsAndClocks : (List.replicate 16 (400 : Int)).length = 16 ∧ (∀ x ∈ List.replicate 16 (400 : Int), x < 880)
    ∧ (∀ x ∈ List.replicate 16 (400 : Int), x < (8 * State.reset.odGet kTripTemp : Nat))
    ∧ ((∃ x ∈ List.replicate 16 (880 : Int), 880 ≤ x) ∧ State.reset.dumping = false)
    ∧ ((∃ x ∈ List.replicate 16 (879 : Int), (8 * State.reset.odGet kTripTemp : Nat) ≤ x) ∧ State.reset.odBit kClockState 0 = false
      ∧ State.reset.ctx = [] ∧ State.reset.blot.staging.length < 64)
    ∧ (let s := { at_ (having [(kClockState, 1)]) 47500000 with time := { (at_ (having [(kClockState, 1)]) 47500000).time with coolSince := some 0 } }
       s.time.coolSince = some 0 ∧ s.odBit kClockState 0 = true ∧ 0 + 47500000 ≤ s.g)
    ∧ ((having [(kSyncRole, 1)]).odGet kSyncRole ≠ 0 ∧ reportTemp 100 < (8 * (having [(kSyncRole, 1)]).odGet kHoldEnter : Nat)
      ∧ (3 : Fin 16).val ∉ (having [(kSyncRole, 1)]).time.hot)
    ∧ (having [(kSyncRole, 0)]).odGet kSyncRole = 0 := by decide +kernel

/-! ### Fabric -/

/-- A WRITE of four bytes on flow 0 to heart address 0x40000000 from chip 2. -/
def pkt : Packet :=
  pktSeal ⟨0, 5, 0, 0x40000000, 0, 0, 1, 4, 0, false, false, true, true, 0, 0, 0, 0xFFFF, 2, [1, 2, 3, 4], false, 0xFF, 0⟩
/-- Port 3 is up; its active image gives every slot of number 0 to flow 9 of this chip. -/
def linked : State := having [(kPortState 3, 2), (kSlotActive 3, 2 ^ 31 + 16 * 2 ^ 26 + 9)]
/-- A packet waits on it. -/
def queuedPkt (sched : Bool) : State :=
  linked.modPort 3 fun y => if sched then { y with sched := [⟨0, 16, { pkt with flow := 9 }⟩] } else { y with waiting := [⟨0, 16, pkt⟩], credits := List.replicate 8 64 }
theorem witness_LinksAndFrames :
    (let s := having [(kPortCfg 3, 2 ^ 30), (kPortState 3, 1)]
     s.odBits (kPortCfg 3) 31 30 = 1 ∧ s.odGet (kPortState 3) ≤ 2 ∧ s.odGet (kPortState 3) = 1 ∧ s.dumping = false)
    ∧ (linked.odGet (kPortState 3) = 2 ∧ linked.outbox = [] ∧ linked.g % 16 = 0 ∧ slotOwned (linked.slotAt 3 (slotNo linked.g)) = true
      ∧ slotSrc (linked.slotAt 3 (slotNo linked.g)) = 16 ∧ (linked.portAt 3).readySched (slotFlow (linked.slotAt 3 (slotNo linked.g))) = none
      ∧ linked.odGet (kSchedMiss 3) + 1 < counterMax (kSchedMiss 3))
    ∧ (((queuedPkt true).portAt 3).readySched (slotFlow ((queuedPkt true).slotAt 3 (slotNo (queuedPkt true).g)))
        = some ⟨0, 16, { pkt with flow := 9 }⟩ ∧ pkt.opcode ≠ 9)
    ∧ (let s := (queuedPkt false).odSet (kSlotActive 3) 0
       s.odGet (kPortState 3) = 2 ∧ s.outbox = [] ∧ (s.portAt 3).busyUntil ≤ s.g ∧ (s.portAt 3).sched = [] ∧ s.chooseOut 3 = some ⟨0, 16, pkt⟩)
    ∧ (linked.chooseOut 3 = none ∧ (linked.portAt 3).busyUntil ≤ linked.g ∧ (linked.portAt 3).sched = [])
    ∧ (pkt.crc = BitVec.ofNat 32 (pktCrc pkt) ∧ pkt.mcast = false ∧ pkt.dstChip = 0xFFFF ∧ linked.isBridge = false ∧ (linked.portAt 3).rxSeq = 0
      ∧ pkt.cls ≠ 8 ∧ linked.schedHeld 3 < 4)
    ∧ (let s := linked.modPort 3 fun y => { y with replay := [⟨7, pkt, .ack 5, none⟩] }
       ⟨7, pkt, .ack 5, none⟩ ∈ (s.portAt 3).replay ∧ (s.portAt 3).naks = 0 ∧ 2 ≤ s.odGet (kReplayLimit 3)) := by decide +kernel

/-- The sequences open in band: the slot image of port 3 and the images of accord arbiter 2 and chip arbiter 9, but for their
last byte. -/
def opening : State :=
  { State.reset with seqs := [⟨kSlotShadow 3, .inBand, List.replicate 16383 0⟩, ⟨kArbShadow 0 2, .inBand, 4 :: List.replicate 94 0⟩,
      ⟨kChipArbShadow 9, .inBand, 4 :: List.replicate 94 0⟩] }
/-- A ready shadow image of 16 entries whose entry 0 belongs to input 1. -/
def image : Nat := 4 + (128 + 1) * 2 ^ 640
theorem witness_ImagesAndArbiters :
    (opening.seqEnds (kSlotShadow 3) .inBand (List.replicate 16383 0) ∧ (List.replicate 16383 (0 : Byte)).length + [(0 : Byte)].length = 16384)
    ∧ (opening.hasAccord 0 = true ∧ opening.seqEnds (kArbShadow 0 2) .inBand (4 :: List.replicate 94 0)
      ∧ (4 :: List.replicate 94 (0 : Byte)).length + [(0 : Byte)].length = imageBytes (4 :: List.replicate 94 0))
    ∧ (opening.hasChipArb 9 = true ∧ opening.seqEnds (kChipArbShadow 9) .inBand (4 :: List.replicate 94 0))
    ∧ (let s := at_ (having [(kSlotSwapCount 3, 5), (kSlotCtrl 3, 2 ^ 29)]) 5
       s.odGet (kSlotSwapCount 3) ≠ 0 ∧ s.odGet (kSlotSwapCount 3) ≤ s.g ∧ s.odBit (kSlotCtrl 3) 29 = true)
    ∧ (let s := at_ (having [(kSlotSwapCount 3, 5)]) 5
       s.odBit (kSlotCtrl 3) 29 = false ∧ s.odBits (kSlotCtrl 3) 15 0 < 65535)
    ∧ (let s := at_ (having [(kSwapCount, 5), (kChipArbCtrl 9, 2 ^ 29), (kChipArbShadow 9, image)]) 5
       s.live = true ∧ s.odGet kSwapCount ≠ 0 ∧ s.odGet kSwapCount ≤ s.g ∧ s.odBit (kChipArbCtrl 9) 29 = true
       ∧ imageOk true (chipInput 9) (s.odGet (kChipArbShadow 9)) = true)
    ∧ (let s := having [(kChipArbActive 9, image)]
       s.hasChipArb 9 = true ∧ SMap.get grantDefault s.chipGrants 9 = none ∧ s.odBit (kChipArbCtrl 9) 31 = false
       ∧ slotOwner (s.odGet (kChipArbActive 9)) (2 * s.g + 16 % 2) = some 1 ∧ slotOwner (s.odGet (kChipArbActive 9)) (2 * s.g + 17 % 2) = none)
    ∧ (ran.hasAccord 0 = true ∧ ran.partOf 0 = some 0 ∧ (ran.guardAt 0).lateFrozen = false ∧ (ran.guardAt 0).tolFrozen = false
      ∧ SMap.get grantDefault (ran.accAt 0).grants 2 = none ∧ ran.odBit (kArbCtrl 0 2) 31 = false) := by
  refine ⟨⟨⟨rfl, by decide +kernel⟩, by rw [List.length_replicate]; rfl⟩, ⟨by decide +kernel, ⟨rfl, by decide +kernel⟩, by decide +kernel⟩,
    ⟨by decide +kernel, rfl, by decide +kernel⟩, ?_⟩
  decide +kernel

/-! ### Packets -/

/-- A packet on flow 9 of opcode `op` that asks for no answer. -/
def onFlow (op : Nat) : Packet := pktSeal { pkt with opcode := op, flow := 9, addr := 0, ackreq := false }
/-- The chip where context 0 receives on flow 9 in its heart window at 4096; with EPCHK, and below a region of 64 KiB. -/
def receiving : State := flowing progRan [(9, flow9)]
/-- The same with EPCHK. -/
def receivingEp : State := flowing progRan [(9, flow9 + 2)]
/-- A packet waits, and one of the same flow and source with FENCE comes. -/
def arrived : State := { State.reset with inbox := [pkt] }
theorem witness_PacketWrites : State.reset.live = true ∧ State.reset.pktMalformed pkt = false
    ∧ arrived.fencedBy { pkt with fence := true, seq := 6 } = true ∧ arrived.fencedBy pkt = false ∧ State.reset.fencedBy pkt = false
    ∧ (having [(kWsetCfg 3, 0x40000000 + 65536 * 2 ^ 64)]).fencedBy pkt = false ∧ receiving.fencedBy (onFlow 1) = false
    ∧ receiving.fencedBy (onFlow 7) = false ∧ receivingEp.fencedBy (onFlow 1) = false
    ∧ (pkt.opcode = 1 ∧ pkt.len ≠ 0 ∧ pkt.flow = 0 ∧ pkt.suspect = false ∧ State.reset.physOk pkt pkt.len = true
      ∧ State.reset.hostMayWrite (pktBase pkt) pkt.addr pkt.len = true
      ∧ State.reset.setWrite true (pktBase pkt) pkt.addr pkt.len = .outside ∧ State.reset.unfenced (pktBase pkt) pkt.addr pkt.len)
    ∧ (State.reset.physOk { pkt with addr := State.reset.resBase } 4 = true ∧ State.reset.hostMayWrite false State.reset.resBase 4 = false)
    ∧ (let s := having [(kWsetCfg 3, 0x40000000 + 65536 * 2 ^ 64)]
       s.physOk pkt pkt.len = true ∧ s.setWrite true (pktBase pkt) pkt.addr pkt.len = .discard)
    ∧ (receiving.pktMalformed (onFlow 1) = false ∧ receiving.pktMalformed (onFlow 7) = false ∧ flowRecvEn (receiving.flowEnt 9) = true
      ∧ flowEpchk (receiving.flowEnt 9) = false ∧ (onFlow 1).addr + (onFlow 1).len ≤ flowSize (receiving.flowEnt 9)
      ∧ receiving.window 0 false (4096 + 0) 4 true = some 0x40001000 ∧ receiving.unfenced false 0x40001000 4
      ∧ receiving.narrowHit 0 false 0x40001000 [1, 2, 3, 4] = none)
    ∧ (flowEpchk (receivingEp.flowEnt 9) = true ∧ receivingEp.stepTag 0 ≠ 7 ∧ receivingEp.odGet kStaleDrop + 1 < counterMax kStaleDrop)
    ∧ (flowSize (receiving.flowEnt 9) < 65536 + 4 ∧ (receiving.ctxAt 0).st = .running) := by
  simp only [State.unfenced]
  decide +kernel
/-- A READ_REQ of 64 bytes, an answer, a push into command queue 5. -/
def reqPkt : Packet := pktSeal { pkt with opcode := 2, aux := 64, len := 0, payload := [] }
/-- The answer. -/
def rspPkt : Packet := pktSeal { pkt with opcode := 3, ackreq := false }
/-- The push. -/
def pushPkt : Packet := pktSeal { pkt with opcode := 4, ackreq := false, len := 64, payload := List.replicate 64 3, dstQueue := 5 }
/-- Command queue 5 of depth 4 with `n` entries, at heart address 0x50000000. -/
def withQueue (n : Nat) : State := having [(kQueueDesc 5, 0x50000000 / 64 * 2 ^ 222 + 2 * 2 ^ 217 + 2 ^ 208 + n)]
theorem witness_PacketReadsAndFlowTable : State.reset.live = true
    ∧ (∀ k ∈ [reqPkt, rspPkt], State.reset.fencedBy k = false) ∧ (withQueue 3).fencedBy pushPkt = false
    ∧ (withQueue 4).fencedBy pushPkt = false ∧ receivingEp.fencedBy { reqPkt with flow := 9, epoch := 7 } = false
    ∧ (State.reset.pktMalformed reqPkt = false ∧ reqPkt.flow = 0 ∧ reqPkt.opcode = 2 ∧ reqBytes reqPkt = 64
      ∧ State.reset.physOk reqPkt 64 = true ∧ State.reset.rangeFenced (pktBase reqPkt) reqPkt.addr 64 = false)
    ∧ (State.reset.pktMalformed rspPkt = false ∧ rspPkt.opcode = 3 ∧ rspPkt.suspect = false)
    ∧ ((withQueue 3).pktMalformed pushPkt = false ∧ pushPkt.opcode = 4 ∧ pushPkt.payload.length = 64 ∧ pushPkt.dstQueue < 16384
      ∧ (withQueue 3).qIsCompletion 5 = false ∧ dist32 ((withQueue 3).qTail 5 + 1) ((withQueue 3).qHead 5) ≤ (withQueue 3).qDepth 5
      ∧ (withQueue 3).unfenced false ((withQueue 3).qAddr 5 3) 64)
    ∧ ((withQueue 4).qDepth 5 < dist32 ((withQueue 4).qTail 5 + 1) ((withQueue 4).qHead 5)
      ∧ (withQueue 4).odGet kQueueOverflow + 1 < counterMax kQueueOverflow)
    ∧ (receivingEp.pktMalformed { reqPkt with flow := 9, epoch := 7 } = false ∧ flowRecvEn (receivingEp.flowEnt 9) = true
      ∧ flowEpchk (receivingEp.flowEnt 9) = true ∧ receivingEp.stepTag (flowRecv (receivingEp.flowEnt 9)) ≠ 7)
    ∧ ((having [(kFlowSelect, 0)]).odGet kFlowSelect = 0 ∧ (flowing (having [(kFlowSelect, 9)]) [(9, 4)]).odGet kFlowSelect = 9
      ∧ flowPin ((flowing (having [(kFlowSelect, 9)]) [(9, 4)]).flowEnt 9) = true ∧ flowPin ((having [(kFlowSelect, 9)]).flowEnt 9) = false
      ∧ (having [(kFlowSelect, 9)]).unfenced false ((having [(kFlowSelect, 9)]).odGet kFlowBase + 16 * 9) 16)
    ∧ ((∀ e ∈ State.reset.flowCache, e.1 ≠ 9) ∧ State.reset.odGet kFlowMisses + 1 < counterMax kFlowMisses) := by
  simp only [State.unfenced]
  decide +kernel

/-! ### Host bridge -/

/-- A bridge chip with ring 2 in service at host address 0x10000, depth 16, HEAD `h` and TAIL `t`, in both directions. -/
def bridged (h t : Nat) : State :=
  let s := having [(kBridgeEnabled, 1)]
  (s.setTx 2 ⟨0x10000, 4, 2 ^ 31, h, t, 0⟩).setRx 2 ⟨0x10000, 4, 2 ^ 31, h, t, 0⟩
/-- A packet held for ring 2 on flow 9, which is a flow of the host. -/
def heldOn (s : State) (ep : Nat) : State :=
  let f := flowing s [(9, 2 ^ 5 + 2 * 2 ^ 6 + 2 ^ 4 + ep)]
  { f with bridge := { f.bridge with held := [⟨2, 16, { onFlow 1 with epoch := 7 }, false⟩] } }
theorem witness_HostRings :
    ((bridged 0 3).isBridge = true ∧ (bridged 0 3).live = true ∧ (bridged 0 3).outbox = [] ∧ ((bridged 0 3).txRing 2).posted = true
      ∧ ((bridged 0 3).txRing 2).on = true ∧ ((bridged 0 3).txRing 3).on = false ∧ ((bridged 3 3).txRing 2).posted = false
      ∧ (bridged 0 3).bridge.power = 0
      ∧ ({ bridged 0 3 with bridge := { (bridged 0 3).bridge with power := 3 } } : State).bridge.power ≠ 0)
    ∧ ((bridged 0 3).txStatus 2 { onFlow 6 with cls := 8 } ≠ 0 ∧ (bridged 0 3).txStatus 2 { pkt with dstChip := 0 } = 1
      ∧ (bridged 0 3).txStatus 2 (pktSeal { pkt with dstChip := 0 }) = 0 ∧ pkt.mcast = false ∧ (bridged 0 3).odGet kChipId = 0
      ∧ (bridged 0 3).hostRingOf ((bridged 0 3).injected 2 (pktSeal { pkt with dstChip := 0 })) = none)
    ∧ (let s := heldOn (bridged 0 3) 0
       s.bridge.held.find? (fun y => y.ring == 2) = some ⟨2, 16, { onFlow 1 with epoch := 7 }, false⟩ ∧ flowRecvEn (s.flowEnt 9) = true
       ∧ flowEpchk (s.flowEnt 9) = false ∧ (s.rxRing 2).posted = true ∧ (onFlow 1).suspect = false ∧ (onFlow 1).ackreq = false)
    ∧ (let s := heldOn (bridged 3 3) 0
       (s.rxRing 2).posted = false ∧ s.odGet kHostRxStalls + 1 < counterMax kHostRxStalls)
    ∧ (let s := heldOn (bridged 0 3) 2
       flowEpchk (s.flowEnt 9) = true ∧ (s.ctxAt 0).inStep = false ∧ s.odGet kStaleDrop + 1 < counterMax kStaleDrop)
    ∧ (∀ h ∈ (bridged 0 3).bridge.held, h.ring = 2 → h.stalled = false) := by decide +kernel
theorem witness_BridgeVectorsAndResets : (bridged 0 3).isBridge = true ∧ (7 : BitVec 16).toNat < 2048
    ∧ (bridged 0 3).bridge.msixOpen 7 = false
    ∧ (let s := { bridged 0 3 with bridge := { (bridged 0 3).bridge with msixTable := [(7, 5)], msixCtl := 2 ^ 15 } }
       s.bridge.msixOpen 7 = true ∧ s.bridge.msixOpen 8 = false) := by decide +kernel

/-! ### Contexts, queues and the launch table -/

theorem witness_PartitionsAndContextConfiguration :
    (let l := (List.range 16).filter fun a => bit (6 : BitVec 16).toNat a
     l.length ∈ [1, 2, 4, 8, 16] ∧ (∀ a ∈ l, State.reset.hasAccord a = true ∧ State.reset.accordFenced a = false
       ∧ ∀ q, q < 16 → q ≠ 4 → State.reset.formed q = true → State.reset.inPart q a = false) ∧ State.reset.holding 4 = [])
    ∧ ran.holding 0 ≠ []
    ∧ (State.reset.seqOf (kCtxCfg 5) .outOfBand = none ∧ (State.reset.ctxAt 5).st = .free)
    ∧ ((ran.ctxAt 0).st ≠ .free ∧ (ran.ctxAt 0).st ≠ .loaded ∧ (List.replicate 32 (1 : Byte)).length = 32
      ∧ setBits (setBits (leNat (List.replicate 32 (1 : Byte))) 63 48 0) 39 0 (ran.odGet (kCtxCfg 0)) ≠ ran.odGet (kCtxCfg 0)) := by
  decide +kernel

/-- Context 0 of that binary, whose flags are `f`. -/
def withFlags (f : Nat) (x : Ctx) : Ctx := { x with prog := some { binary with flags := f } }
/-- The chip with context 0 as `x`, whose heart window is at 0x40000000. -/
def ctx0 (x : Ctx) : State := onPart State.reset x
/-- SAVE_BASE of context 0 is 0x50000000. -/
def saving : State := (ctx0 { programmed with st := .saving, savePhase := 0xFFFFFFFF, inStep := false, prog := some { binary with
  variants := [{ variant with live := [[], [], [(4096, 64)]] }] } }).odSet (kCtxCfg 0) (0x50000000 * 2 ^ 128)
theorem witness_ContextsChangePlaces : State.reset.live = true
    ∧ ((ran.ctxAt 0).st = .running ∧ (ran.guardAt 0).gateWait = false ∧ (ran.ctxAt 0).inStep = true ∧ (ran.ctxAt 0).flag 0 = false)
    ∧ ((ctx0 (withFlags 1 programmed)).ctxAt 0).flag 0 = true
    ∧ (let s := ctx0 { running with inStep := false }
       (s.ctxAt 0).st = .running ∧ (s.ctxAt 0).dry = .none ∧ (s.ctxAt 0).flag 0 = false ∧ s.deadBetween 0 = false)
    ∧ ((saving.ctxAt 0).st = .saving ∧ saving.readyOf 0 = [] ∧ saving.jobs.forced = [] ∧ saving.fillsOk
      ∧ saving.offMap false (saving.saveBase 0) (4096 + (saving.accordsOf 0).length * (accordImage + 32768))
      ∧ saving.unfenced false (saving.saveBase 0) (4096 + (saving.accordsOf 0).length * (accordImage + 32768))
      ∧ saving.accordsOf 0 = [0] ∧ (saving.ctxAt 0).liveAt (saving.ctxAt 0).savePhase = [(4096, 64)] ∧ (saving.ctxAt 0).savePtr = false)
    ∧ (((ctx0 { programmed with st := .saved }).ctxAt 0).st = .saved ∧ (ctx0 { programmed with st := .saved }).partFree 0 = true)
    ∧ (let s := ctx0 { programmed with st := .restoring, inStep := false }
       (s.ctxAt 0).st = .restoring ∧ s.testing 0 = false ∧ s.forcing 0 = false
       ∧ ({ s with jobs := { s.jobs with tests := [(0, .scheduled, 0)] } } : State).testing 0 = true)
    ∧ (let s := ctx0 { programmed with st := .restoring, savePhase := 1 }
       s.testing 0 = false ∧ s.forcing 0 = false ∧ (s.ctxAt 0).inStep = true ∧ (s.ctxAt 0).savePhase ≠ 0xFFFFFFFF)
    ∧ ((ran.ctxAt 0).st ≠ .free ∧ (ran.ctxAt 0).st ≠ .stopped ∧ ran.recQ = [])
    ∧ (State.reset.ctxAt 0).st = .free := by
  simp only [State.unfenced, State.offMap, State.fillsOk]
  decide +kernel
/-- Completion queue 6 of depth 4, in service, with `n` entries not yet read. -/
def complQueue (n : Nat) : State := having [(kQueueDesc 6, 0x50000000 / 64 * 2 ^ 222 + 2 * 2 ^ 217 + 2 ^ 208 + 2 ^ 207 + n)]
/-- Entry 5 of the tenant context table is selected, and bound in context 0 where `b` is set. -/
def tenant (b : Bool) : State :=
  (if b then onPart State.reset { running with slots := [⟨0, 5⟩] } else State.reset).odSet kTctSelect 5
/-- A command of tenant 9 in queue 5 at ring index 2, admitted. -/
def cmd : OpenCmd :=
  ⟨5, 2, 2, 5, 9, 0, none, 1, 1, 0, 1, 0, 0, 0, 4, 1, 1, 0, 1, false, false, false, false, false, false, false, false, 0, 0, 0, 0, 0⟩
theorem witness_QueuesAndTenantTable :
    ((withQueue 3).qIsCompletion 5 = false ∧ dist32 (4 : W32).toNat ((withQueue 3).qHead 5) ≤ (withQueue 3).qDepth 5
      ∧ (withQueue 3).qDepth 5 < dist32 (5 : W32).toNat ((withQueue 3).qHead 5) ∧ (withQueue 3).odGet kQueueOverflow + 1 < counterMax kQueueOverflow)
    ∧ ((complQueue 3).qIsCompletion 6 = true ∧ (complQueue 3).live = true ∧ (complQueue 3).cqRoom 6 = true ∧ (complQueue 4).cqRoom 6 = false
      ∧ ({ complQueue 3 with heldCompl := [(6, [1, 2])] } : State).heldCompl = [(6, [1, 2])]
      ∧ (complQueue 3).unfenced false ((complQueue 3).qAddr 6 ((complQueue 3).qTail 6)) 2)
    ∧ ((List.replicate 128 (1 : Byte)).length = 128 ∧ (tenant false).odGet kTctSelect = 5 ∧ (tenant false).tctBound 5 = false
      ∧ (tenant false).unfenced true ((tenant false).tctAddr 5) 128 ∧ (tenant false).fillsOk
      ∧ (tenant true).tctBound 5 = true
      ∧ changesMore ((tenant true).tctBytes 5) (tctClean (List.replicate 128 1)) = true
      ∧ 2 ^ 20 ≤ (having [(kTctSelect, 2 ^ 20)]).odGet kTctSelect)
    ∧ (let v : W64 := BitVec.ofNat 64 (5 * 2 ^ 32 + 2)
       ((onPart (withQueue 3) { running with cmds := [cmd] }).ctxAt (bits v.toNat 63 56)).cmds.any
          (fun m => m.queue == bits v.toNat 45 32 && m.seq == bits v.toNat 31 0) = true
       ∧ ((withQueue 3).ctxAt (bits v.toNat 63 56)).cmds = [] ∧ dist32 (bits v.toNat 31 0) ((withQueue 3).qHead 5) < 2 ^ 31
       ∧ (withQueue 3).marks.length < 64
       ∧ 64 ≤ ({ withQueue 3 with marks := List.replicate 64 (1, 1, 1) } : State).marks.length
       ∧ ({ withQueue 3 with marks := List.replicate 64 (1, 1, 1) } : State).marks.contains (0, 5, 2) = false
       ∧ 2 ^ 31 ≤ dist32 2 (((withQueue 3).setQHead 5 3).qHead 5)) := by
  simp only [State.unfenced, State.fillsOk]
  decide +kernel
/-- Context 0 between two steps. -/
def between : Ctx := { running with inStep := false }
/-- START waits. -/
def waitingFor (n : Nat) (x : Ctx) : Ctx := { x with launchWait := [n] }
theorem witness_LaunchActions :
    ((ctx0 between).canStart 0 = true ∧ (ctx0 between).stepOf 0 + 1 < 2 ^ 48 ∧ ((ctx0 between).ctxAt 0).doRollback = []
      ∧ (ctx0 (waitingFor 1 between)).waits 0 1 = true ∧ (ctx0 (waitingFor 1 between)).canStart 0 = true
      ∧ (ctx0 between).waits 0 1 = false
      ∧ (ctx0 between).launchesItself 0 = true ∧ ((ctx0 between).ctxAt 0).started = false)
    ∧ (ran.canStart 0 = false ∧ (ran.ctxAt 0).st ≠ .free ∧ ran.odGet kLaunchLate + 1 < counterMax kLaunchLate)
    ∧ (let x := { running with phasesDone := true }
       ((ctx0 x).ctxAt 0).phasesDone = true ∧ ((ctx0 x).ctxAt 0).dry = .none ∧ (ctx0 (waitingFor 4 x)).waits 0 4 = true)
    ∧ (ran.ctxAt 0).phasesDone = false
    ∧ ((ran.ctxAt 0).st ≠ .stopped ∧ (ran.ctxAt 0).revert = false)
    ∧ (ran.odGet (kCkptState 0) = 0
      ∧ (onPart (having [(kCkptState 0, 2 ^ 56)]) running).odGet (kCkptState 0) ≠ 0 ∧ (onPart (having [(kCkptState 0, 2 ^ 56)]) running).ckptState 0 ≤ 1)
    ∧ (ran.ctxAt 0).inStep = true
    ∧ (let s := onPart { having [(kLaunchEntry 0, entry (10 ^ 15) 50 0 0 1)] with jobs := { State.reset.jobs with due := [(0, 1)] } } between
       (s.ctxAt 0).inStep = false ∧ s.nextStart 0 = some (10 ^ 15) ∧ s.g + (s.odGet kTestTime + s.odGet kTestMargin + 2 * s.saveTk 0) ≤ 10 ^ 15
       ∧ (s.ctxAt 0).liveAt 0xFFFFFFFF = []
       ∧ Ctx.liveAt { between with prog := some { binary with variants := [{ variant with live := [[], [], [(4096, 64)]] }] } } 0xFFFFFFFF ≠ []
       ∧ (s.jobs.due.map Prod.fst).filter (fun a => s.inPart (s.ctxAt 0).part a) = [0]) := by decide +kernel
/-- A LAUNCH packet with `e` for entry 7. -/
def launchPkt (e : Nat) : Packet := pktSeal { pkt with opcode := 10, aux := 1 + 7 * 256, len := 16, payload := leBytes 16 e }
/-- START and DRYDOWN entries of group 3, and one of group 4. -/
def grouped : State := having [(kLaunchEntry 0, entry 600000 50 3 0 1), (kLaunchEntry 1, entry 500000 50 3 0 4), (kLaunchEntry 2, entry 500000 50 4 0 4)]
/-- A hold of group 3 from count 400000 on for two steps. -/
def holdWord : W128 := BitVec.ofNat 128 (400000 * 2 ^ 64 + 2 * 2 ^ 8 + 3)
theorem witness_LaunchTableWrites :
    (let v : W128 := BitVec.ofNat 128 (entry 500000 50 3 0 4)
     (1 ≤ lAction v.toNat ∧ lAction v.toNat ≤ 6) ∧ armed (State.reset.launch 7) = false ∧ State.reset.g + State.reset.odGet kLaunchGuard ≤ lCount v.toNat
     ∧ State.reset.odGet kLaunchRefused + 1 < counterMax kLaunchRefused
     ∧ State.reset.pktMalformed (launchPkt v.toNat) = false ∧ (launchPkt v.toNat).opcode = 10 ∧ (launchPkt v.toNat).ackreq = true
     ∧ (launchPkt v.toNat).aux.toNat % 16 = 1 ∧ bits (launchPkt v.toNat).aux.toNat 13 8 = 7
     ∧ leNat ((launchPkt v.toNat).payload.take 16) = v.toNat)
    ∧ (let v : W128 := BitVec.ofNat 128 (entry 5 50 3 0 4)
       armed v.toNat = true ∧ lCount v.toNat < State.reset.g + State.reset.odGet kLaunchGuard)
    ∧ (let at_ := bits holdWord.toNat 127 64
       grouped.g + grouped.odGet kLaunchGuard ≤ at_ ∧ bits holdWord.toNat 5 0 = 3 ∧ grouped.holdDrydowns 3 = [1]
       ∧ (grouped.holdDrydowns 3).find? (fun e => grouped.firing_ at_ e == 500000) = some 1
       ∧ (∀ e ∈ grouped.holdDrydowns 3, 500000 ≤ grouped.firing_ at_ e)
       ∧ (∀ e ∈ grouped.groupEntries 3, 500000 ≤ lCount (grouped.launch e)
          → lCount (grouped.launch e) + lPeriod (grouped.launch e) + grouped.holdExtra e + bits holdWord.toNat 15 8 * lPeriod (grouped.launch 1) < 2 ^ 64)
       ∧ 0 ∈ grouped.groupEntries 3 ∧ 500000 < lCount (grouped.launch 0) ∧ lCount (grouped.launch 1) = 500000
       ∧ grouped.odGet kHolds + 1 < counterMax kHolds ∧ State.reset.holdDrydowns 3 = [])
    ∧ (State.reset.isCounter (bits (BitVec.ofNat 32 (kLaunchRefused / 256 * 2 ^ 16 + kLaunchRefused % 256 * 2 ^ 8)).toNat 31 16)
          (bits (BitVec.ofNat 32 (kLaunchRefused / 256 * 2 ^ 16 + kLaunchRefused % 256 * 2 ^ 8)).toNat 15 8) = true
      ∧ State.reset.isCounter 0x1F00 0x0C = false) := by decide +kernel

/-! ### Sillage, checkpoints and audits -/

/-- Context 0 in its drydown, DRYDOWN having taken effect at count 0; now is 100. -/
def drying (x : Ctx) (d : Dry) : State := at_ (ctx0 { x with inStep := true, phasesDone := true, dry := d }) 100
/-- A region of 64 bytes that closes at every commit, of which `n` blocks were written. -/
def region (n : Nat) : Region := ⟨3, false, 0, 64, 0, 9, 0, 64, 1, 0, n⟩
/-- Context 0 receives on flow 9, which the binary names and which has EPCHK; its digest has not the value of what arrived. -/
def digested : State :=
  let x := { programmed with dry := .flow, sealed_ := true, flowGot := [(9, 1)] }
  flowing (at_ (ctx0 { x with prog := some { binary with flows := [(9, 0)] } }) (10 ^ 9)) [(9, flow9 - 2 * 2 ^ 112 + 2)]
theorem witness_DrydownsSealAndCommit : State.reset.live = true
    ∧ (let s := drying { running with regions := [region 4] } .flow
       (s.ctxAt 0).dry = .flow ∧ (s.ctxAt 0).sealed_ = false ∧ (s.ctxAt 0).flag 0 = false ∧ (s.ctxAt 0).dryAt + 24 ≤ s.g
       ∧ (s.closing 0).map Region.blocks = [4] ∧ (∀ r ∈ s.closing 0, r.blocks = r.size / 16) ∧ s.recvFlows 0 = [])
    ∧ (let s := drying { running with regions := [region 3] } .flow
       (s.closing 0).find? (fun q => q.blocks != q.size / 16) = some (region 3) ∧ (s.ctxAt 0).st ≠ .free ∧ s.blot.staging.length < 64)
    ∧ (let s := drying running .commit
       (s.ctxAt 0).st = .running ∧ (s.ctxAt 0).dry = .commit ∧ s.stepOf 0 < 2 ^ 48)
    ∧ ((digested.ctxAt 0).dry = .flow ∧ (digested.ctxAt 0).sealed_ = true ∧ (digested.ctxAt 0).flag 0 = false
      ∧ digested.xchLatest 0 .flow ≤ digested.g ∧ digested.recvFlows 0 = [9] ∧ digested.flowMatches 0 9 = false)
    ∧ (let s := at_ (drying running .verdict) (10 ^ 9)
       (s.ctxAt 0).dry = .verdict ∧ s.xchLatest 0 .verdict ≤ s.g)
    ∧ ((drying running .flow).ctxAt 0).dry ≠ .verdict ∧ ((drying running .verdict).ctxAt 0).dry ≠ .flow
    ∧ (at_ (drying running .flow) 9).g < ((drying running .flow).ctxAt 0).dryAt + 24
    ∧ (∀ row, (drying running .flow).g < (drying running .flow).xchLatest 0 row) := by
  refine ⟨by decide +kernel, by decide +kernel, by decide +kernel, by decide +kernel, by decide +kernel, by decide +kernel,
    by decide +kernel, by decide +kernel, by decide +kernel, fun row => ?_⟩
  cases row <;> decide +kernel
/-- A DIGEST_XCH of kind `kind` on flow 9 at offset `a`. -/
def xch (kind a : Nat) (bs : List Byte) : Packet :=
  pktSeal { pkt with opcode := 8, flow := 9, addr := a, ackreq := false, aux := BitVec.ofNat 32 kind, len := bs.length, payload := bs }
/-- Context 0 as `x` receives digests on flow 9, whose receive region is 1 MiB. -/
def exchanging (x : Ctx) : State := flowing (ctx0 x) [(9, flow9 + 15 * 2 ^ 12)]
/-- A VERDICT for step 0 by virtual chip `i`. -/
def verdictPkt (i pass : Nat) : Packet := xch 2 (0x10000 + 16 * i) (leBytes 6 0 ++ leBytes 1 pass ++ List.replicate 9 0)
/-- A run of two chips whose verdict of chip 0 is in. -/
def judging (pass : Bool) : Ctx :=
  { programmed with prog := some { binary with vchips := 2 }, dry := .verdict, phasesDone := true, verdicts := [⟨0, 0, pass, true, false⟩] }
/-- A CLOSURE entry of replica 1. -/
def closurePkt : Packet := xch 3 0x30000 (leBytes 3 9 ++ [1] ++ leBytes 8 4 ++ List.replicate 20 7)
/-- A group of two replicas whose comparison is open. -/
def comparing : Ctx := { programmed with liveMask := 3, cmpOpen := true }
theorem witness_ExchangesAndReplicas : State.reset.live = true
    ∧ (let s := exchanging programmed
       s.xchLands 1 (xch 1 64 (List.replicate 32 5)) 0 0x40001040 ∧ (s.ctxAt 0).dry ≠ .flow
       ∧ s.xchLands 2 (verdictPkt 1 1) 0 0x40011010 ∧ s.stepOf 0 ≤ (verdictIn (verdictPkt 1 1)).step ∧ (s.ctxAt 0).dry ≠ .verdict)
    ∧ (let s := exchanging (judging true)
       s.xchLands 2 (verdictPkt 1 1) 0 0x40011010 ∧ (s.ctxAt 0).dry = .verdict ∧ (verdictIn (verdictPkt 1 1)).vchip < (s.ctxAt 0).vchips
       ∧ (verdictIn (verdictPkt 1 1)).step = s.stepOf 0
       ∧ (∀ i, i < (s.ctxAt 0).vchips → i ≠ (verdictIn (verdictPkt 1 1)).vchip → ((s.ctxAt 0).verdictOf (s.stepOf 0) i).isSome = true)
       ∧ (∀ w ∈ (s.ctxAt 0).verdicts ++ [verdictIn (verdictPkt 1 1)], w.pass = true))
    ∧ (let s := exchanging (judging false)
       s.xchLands 2 (verdictPkt 1 0) 0 0x40011010
       ∧ (∀ w ∈ (s.ctxAt 0).verdicts ++ [verdictIn (verdictPkt 1 0)], w.pass = false) ∧ (s.ctxAt 0).inStep = true)
    ∧ (let s := exchanging comparing
       s.xchLands 3 closurePkt 0 0x40031000 ∧ (s.ctxAt 0).expelled = false ∧ s.ofDiscarded 0 closurePkt.payload = false
       ∧ (s.ctxAt 0).closures = [] ∧ (s.ctxAt 0).cmds = []
       ∧ s.xchLands 4 (xch 4 0x30000 [1, 2, 3, 4]) 0 0x40031000
       ∧ (∀ i ∈ (s.ctxAt 0).liveList, i = s.repIndex 0
          ∨ ∃ q ∈ [(closureReplica (xch 4 0x30000 [1, 2, 3, 4]), field (xch 4 0x30000 [1, 2, 3, 4]).payload 0 4)], q.1 = i ∧ (s.ctxAt 0).cmpNo ≤ q.2))
    ∧ (let s := at_ (exchanging comparing) (10 ^ 9)
       (s.ctxAt 0).cmpOpen = true ∧ (s.ctxAt 0).cmpAt + s.odGet kCmpTimeout ≤ s.g
       ∧ (s.ctxAt 0).liveList.filter (fun i => i != s.repIndex 0 && !(s.ctxAt 0).ends.any fun e => e.1 == i && decide ((s.ctxAt 0).cmpNo ≤ e.2)) = [1]
       ∧ (s.ctxAt 0).silent = [] ∧ (s.ctxAt 0).closures = [] ∧ (s.ctxAt 0).cmds = [])
    ∧ (∃ e ∈ ((exchanging { comparing with silent := [(1, 1)] }).ctxAt 0).silent, e.1 = 1)
    ∧ ((exchanging programmed).ctxAt 0).cmpOpen = false := by
  simp only [State.xchLands, State.unfenced]
  and_intros <;> decide +kernel
/-- An AUDIT_REQ of 64 bytes at the start of context 0's heart window. -/
def auditWords (off : Nat) : List Byte := leBytes 8 0 ++ leBytes 8 off ++ leBytes 8 64 ++ List.replicate 8 0
/-- A checkpoint of context 0 is being copied, slot base 0x60000000, with keys `l` to come. -/
def copying (l : List (Nat × Nat × Nat)) : State :=
  onPart (having [(kCkptState 0, 5), (kCkptCfg 0, 0x60000000)]) { programmed with ckpt := l }
theorem witness_ChecksAuditsAndCheckpoints : ((List.replicate 32 (1 : Byte)).length = 32 ∧ State.reset.blot.staging.length < 64)
    ∧ ([] : List Byte).length ≠ 32
    ∧ ((auditWords 0).length = 32 ∧ progRan.jobs.audit = none ∧ (progRan.ctxAt (field (auditWords 0) 0 1)).st ≠ .free ∧ field (auditWords 0) 1 1 ≤ 1
      ∧ progRan.window 0 false (field (auditWords 0) 8 8) (field (auditWords 0) 16 8) false = some 0x40000000
      ∧ progRan.window 0 false (field (auditWords (2 ^ 30)) 8 8) (field (auditWords (2 ^ 30)) 16 8) false = none)
    ∧ ({ progRan with jobs := { progRan.jobs with audit := some (auditWords 0) } } : State).jobs.audit = some (auditWords 0)
    ∧ ((copying []).live = true ∧ (copying []).ckptState 0 = 0 ∧ (copying []).odGet (kCkptState 0) ≠ 0
      ∧ (copying []).unfenced true ((copying []).odBits (kCkptCfg 0) 63 0 + 2) 1
      ∧ ((copying [(3, 1, 0), (4, 0, 0)]).ctxAt 0).ckpt.filter (fun q => q.2.1 != 0) = [(3, 1, 0)]) := by
  simp only [State.unfenced]
  decide +kernel

/-! ### Recovery, fencing and tests -/

/-- A record. -/
def rec1 : Rec := ⟨3, 1, 2, 0, 0, 7, 0, 0, 0, 0, 0, 0, 0, 0, 0, List.replicate 24 0⟩
/-- The recovery queue holds `k`. -/
def recovering (k : RecoveryKind) : State := { ran with recQ := [⟨3, 0, k, 0⟩] }
theorem witness_BlotterAndRecoveries :
    (let s := { State.reset with blot := ⟨[rec1], false, 3⟩ }
     s.blot.staging = rec1 :: [] ∧ s.unfenced false (s.fwBase + 64 * ((rec1.seq - 1) % 16384)) rec1.bytes.length)
    ∧ (State.reset.blot.staging = [] ∧ State.reset.openWindow 4 = none)
    ∧ ({ State.reset with windows := [(4, some ⟨2, 500, 3⟩)] } : State).openWindow 4 ≠ none
    ∧ (ran.live = true ∧ (recovering (.teardown 0)).recQ = ⟨3, 0, .teardown 0, 0⟩ :: [] ∧ (ran.ctxAt 0).st ≠ .free ∧ ran.readyOf 0 = []
      ∧ ran.accordsOf 0 = [0]) := by
  simp only [State.unfenced]
  decide +kernel
/-- Matrix engine 1 of accord 2, fenced. -/
def fencedUnit : State := { State.reset with unitFences := [unitId 1 9] }
theorem witness_FencesSetAndLift : State.reset.live = true
    ∧ (unitId 1 9 < 2 ^ 16 ∧ State.reset.odGet kFenceStatus ≠ 1 ∧ State.reset.fenceable (unitId 1 9) = true
      ∧ State.reset.isFenced (unitId 1 9) = false)
    ∧ (fencedUnit.fenceable (unitId 1 9) = true ∧ fencedUnit.isFenced (unitId 1 9) = true ∧ fencedUnit.unitInUse (unitId 1 9) = false
      ∧ fencedUnit.odGet kFenceStatus ≠ 1)
    ∧ State.reset.fenceable 0xFFFF = false
    ∧ (let s := onPart { fencedUnit with unitFences := [unitId 1 0] } running
       s.fenceable (unitId 1 0) = true ∧ s.isFenced (unitId 1 0) = true ∧ s.unitInUse (unitId 1 0) = true)
    ∧ ({ fencedUnit with jobs := { fencedUnit.jobs with unfence := some (unitId 1 9) } } : State).jobs.unfence = some (unitId 1 9) := by
  decide +kernel
/-- Accord 0 is due since count 0, or under test. -/
def dueAt (n : Nat) (s : State) : State := { at_ s n with jobs := { s.jobs with due := [(0, 0)] } }
/-- The test. -/
def testing (n : Nat) (s : State) : State := { at_ s n with jobs := { s.jobs with tests := [(0, .scheduled, 0)] } }
theorem witness_AccordTestsRun : ran.live = true ∧ ran.hasAccord 0 = true
    ∧ (State.reset.partOf 0 = none ∧ ran.partOf 0 = some 0 ∧ (∀ q, q < 16 → ran.inPart q 0 = true → q = 0) ∧ ran.runningOn 0 = some 0
      ∧ (ran.guardAt 0).window = false ∧ (ctx0 { running with st := .saved }).runningOn 0 = none)
    ∧ ((ran.partOf 0).any ran.savingOn = false ∧ (saving.partOf 0).any saving.savingOn = true)
    ∧ (ran.accordFenced 0 = false ∧ ran.jobs.tests = [] ∧ bit (1 : BitVec 16).toNat 0 = true
      ∧ (at_ ran (10 ^ 15)).odGet (kTestLast 0) + (at_ ran (10 ^ 15)).odGet kTestInterval ≤ (at_ ran (10 ^ 15)).g)
    ∧ ran.g < ran.odGet (kTestLast 0) + ran.odGet kTestInterval
    ∧ (let s := dueAt (10 ^ 15) ran
       s.jobs.due.find? (fun q => q.1 == 0) = some (0, 0) ∧ s.partOf 0 = some 0 ∧ 0 + s.odGet kTestGrace ≤ s.g
       ∧ s.jobs.forced.contains 0 = false ∧ s.odGet kTestsForced + 1 < counterMax kTestsForced ∧ s.blot.staging.length < 64)
    ∧ (∀ e ∈ (testing 5 State.reset).jobs.tests, e.1 = 0 → (testing 5 State.reset).g < e.2.2 + (testing 5 State.reset).odGet kTestTime)
    ∧ (∃ e ∈ (testing (10 ^ 15) State.reset).jobs.tests, e.1 = 0
      ∧ e.2.2 + (testing (10 ^ 15) State.reset).odGet kTestTime ≤ (testing (10 ^ 15) State.reset).g)
    ∧ (testing (10 ^ 15) State.reset).blot.staging.length < 64 := by decide +kernel

/-! ### Flacons, keys and attestation -/

/-- Weight set 3 in state `st` at version 1, staged version 2, as `w`: heart range at 0x40000000 of 64 KiB, staging range in the
base tier at 0x20000000, manifest area at 0x48000000. -/
def wset (st : Nat) (w : WeightSet) : State :=
  { having [(kWsetState 3, st + 2 ^ 64 + 2 * 2 ^ 128), (kWsetCfg 3, 0x40000000 + 65536 * 2 ^ 64 + (2 ^ 63 + 0x20000000) * 2 ^ 128 + 0x48000000 * 2 ^ 192)]
    with wsets := State.reset.wsets.set 3 w }
/-- A manifest of version `v` with one layer of `n` bytes in tiles of 64 bytes, with digests `epoch`, `sil` and `root`. -/
def manifest (v n epoch sil : Nat) (root : List Byte) : List Byte :=
  leBytes 4 0x31464C46 ++ leBytes 2 1 ++ leBytes 2 0 ++ [1, 16] ++ leBytes 2 0 ++ leBytes 4 1 ++ leBytes 8 v ++ leBytes 8 65536
    ++ leBytes 8 131072 ++ beBytes 16 epoch ++ leBytes 8 256 ++ List.replicate 64 0
    ++ (leBytes 8 0 ++ leBytes 8 n ++ leBytes 4 64 ++ leBytes 4 0 ++ leBytes 4 1 ++ leBytes 4 0 ++ beBytes 16 sil ++ root ++ List.replicate 16 0)
/-- The digests of one layer of 64 bytes of zeros at version `v`. -/
def silOf (v : Nat) : Nat := closeFold (epochKey 0xFFFFFF v) 64 1 0
/-- The manifest with them. -/
def sealable (v : Nat) : List Byte :=
  manifest v 64 (manEpoch (manifest v 64 0 (silOf v) [])) (silOf v) (hashRoot 65536 (List.replicate 64 0))
/-- LOADING, STAGING or decanting that manifest, its layer complete and armed. -/
def layered (st : Nat) : State :=
  let m := sealable (if st = 1 then 1 else 2)
  (wset st ⟨if st = 1 then m else [], if st = 1 then [] else m, none, [⟨0, 0, 4⟩], true, st == 5, 0, false, 0, false, [], false⟩).odSet (kLayerState 3) 1
/-- A verification in progress of a manifest, key slot 1 having been written. -/
def verifying (st v : Nat) : State :=
  (wset st { WeightSet.reset with verifying := some (manifest v 65536 0 0 (List.replicate 32 0)) }).odSet kKeyslots (2 ^ (8 * 448))
/-- The area holds no signatures. That two right ones pass is no witness here: it takes the kernel some thousand hashes to see. -/
theorem witness_FlaconsVerifyLoadSeal : State.reset.live = true
    ∧ (having [(kFlaconStatus, 1)]).flaconBusy = true
    ∧ (State.reset.flaconBusy = false ∧ (wset 0 WeightSet.reset).wsState 3 = 0 ∧ (wset 0 WeightSet.reset).wsCfg 3 1 ≠ 0
      ∧ (wset 1 WeightSet.reset).wsState 3 = 1 ∧ (wset 3 WeightSet.reset).wsState 3 = 3 ∧ (wset 2 WeightSet.reset).wsState 3 = 2
      ∧ (wset 2 WeightSet.reset).namesSet 3 = false ∧ (wset 6 WeightSet.reset).wsState 3 = 6)
    ∧ ((layered 1).takesLayers 3 = true ∧ 0 < manLayers ((layered 1).wsManifest 3) ∧ (wset 2 WeightSet.reset).takesLayers 3 = false)
    ∧ (let m := manifest 2 65536 0 0 (List.replicate 32 0)
       ((verifying 0 2).wsAt 3).verifying = some m ∧ field m 0 4 = 0x31464C46 ∧ field m 4 2 = 1 ∧ manOk m ((verifying 0 2).wsCfg 3 1) = true
       ∧ slotEmpty ((verifying 0 2).keySlot (field m 8 1)) = false
       ∧ (sigsOk ((verifying 0 2).keySlot (field m 8 1)) m (List.replicate 384 0) (List.replicate 16224 0)).1 = false
       ∧ (verifying 0 2).wsState 3 ≠ 2
       ∧ (verifying 2 2).wsState 3 = 2 ∧ (verifying 2 2).wsVersion 3 < manVersion m ∧ manVersion m ≤ 2
       ∧ (verifying 0 2).odGet kSigFailures + 1 < counterMax kSigFailures)
    ∧ (manVersion (manifest 1 65536 0 0 (List.replicate 32 0)) ≤ (verifying 2 1).wsVersion 3)
    ∧ field (List.replicate 128 (0 : Byte)) 0 4 ≠ 0x31464C46 := by decide +kernel
theorem witness_LayersSeal : (∀ st, st = 1 ∨ st = 3 → let s := layered st
    (s.wsAt 3).sealing = true ∧ s.wsState 3 = st ∧ (∀ i < manLayers (s.wsManifest 3), s.layerSt 3 i = 1)
    ∧ (∀ i < manLayers (s.wsManifest 3), s.layerPasses 3 i = true)
    ∧ manEpoch (s.wsManifest 3) = beNat (((s.wsManifest 3).drop 40).take 16))
    ∧ (let s := (layered 1).devWrite false 0x40000000 [1]
       (∀ i < manLayers (s.wsManifest 3), s.layerSt 3 i = 1) ∧ 0 < manLayers (s.wsManifest 3) ∧ s.layerPasses 3 0 = false) := by
  refine ⟨?_, by decide +kernel⟩
  rintro st (rfl | rfl) <;> decide +kernel
theorem witness_DecantsSwitchEpochs : State.reset.live = true
    ∧ (State.reset.flaconBusy = false ∧ (wset 4 WeightSet.reset).wsState 3 = 4 ∧ (wset 4 WeightSet.reset).allMarked 3 = true
      ∧ (wset 2 WeightSet.reset).wsState 3 = 2)
    ∧ ((wset 5 WeightSet.reset).wsState 3 = 5 ∧ ((wset 5 WeightSet.reset).wsAt 3).copying = false
      ∧ (wset 5 WeightSet.reset).drainsOld 3 = [])
    ∧ (let s := layered 5
       let m := (s.wsAt 3).staged
       let l := manLayer m 0
       let src := bits (s.wsCfg 3 2) 41 0 + l.off
       s.wsState 3 = 5 ∧ (s.wsAt 3).copying = true ∧ (s.wsAt 3).copyNext = 0 ∧ 0 + 1 = manLayers m
       ∧ s.rangeFenced (bit (s.wsCfg 3 2) 63) src 1 = false ∧ s.rangeFenced (bit (s.wsCfg 3 2) 63) src l.size = false
       ∧ s.unfenced false (s.wsCfg 3 0 + l.off) l.size
       ∧ closeFold (manKey m) l.tile (l.size / l.tile)
           (foldAt (manKey m) l.tile 0 (blocks (s.tierBytes (bit (s.wsCfg 3 2) 63) src l.size)) 0) = l.sil
       ∧ (let t := s.devWrite true 0x20000000 [1]
          closeFold (manKey m) l.tile (l.size / l.tile)
           (foldAt (manKey m) l.tile 0 (blocks (t.tierBytes (bit (s.wsCfg 3 2) 63) src l.size)) 0) ≠ l.sil)
       ∧ 0 + 1 < manLayers (m.take 12 ++ leBytes 4 2 ++ m.drop 16)
       ∧ (s.wsAt 3).copyRetry = false ∧ (s.wsAt 3).copyBegan + (at_ s (10 ^ 15)).odGet kGateLimit ≤ (at_ s (10 ^ 15)).g
       ∧ s.g < (s.wsAt 3).copyBegan + s.odGet kGateLimit)
    ∧ (let q := leBytes 32 (3 + 2 ^ 64)
       q.length = 32 ∧ (epochPtr (leNat q)).set < 16 ∧ (wset 2 WeightSet.reset).pendingRefusal 0 (epochPtr (leNat q)) = 0
       ∧ State.reset.pendingRefusal 0 (epochPtr (leNat q)) ≠ 0) := by
  simp only [State.unfenced]
  decide +kernel
/-- A KEYSLOT_WRITE of slot `i` with counter 5 and exponent `e`, but for its last byte. -/
def keyMsg (i e : Nat) : List Byte :=
  leBytes 8 i ++ leBytes 8 5 ++ (List.replicate 384 3 ++ leBytes 4 e ++ List.replicate 48 7 ++ List.replicate 12 0) ++ List.replicate 16607 1
/-- The chip with that sequence open, slot 0 empty (`k` = 0) or not, at counter `c`. -/
def keying (i e k c : Nat) : State :=
  { having [(kKeyslots, k)] with seqs := [⟨kKeyslotWrite, .inBand, keyMsg i e⟩], sec := { State.reset.sec with counter := c } }
/-- The first write of slot 0 needs no signature; that of another is a free value (log entry 11). -/
theorem witness_KeysAndAttestation :
    (let s := keying 0 65537 0 0
     let d := keyMsg 0 65537 ++ [1]
     s.seqOf kKeyslotWrite .inBand = some ⟨kKeyslotWrite, .inBand, keyMsg 0 65537⟩ ∧ s.seqOf kKeyslotWrite .outOfBand = none
     ∧ ([1] : List Byte) ≠ [] ∧ (keyMsg 0 65537).length + ([1] : List Byte).length = 17072 ∧ s.odGet kKeyslotStatus ≠ 1
     ∧ field d 0 1 = 0 ∧ slotEmpty (s.keySlot 0) = true ∧ s.sec.banks = [] ∧ allZero ((d.drop 1).take 7) = true
     ∧ allZero (((d.drop 16).take 448).drop 436) = true ∧ field ((d.drop 16).take 448) 384 4 = 65537 ∧ s.sec.counter < field d 8 8)
    ∧ field (((keyMsg 1 65537 ++ [1]).drop 16).take 448) 384 4 = 65537 ∧ slotEmpty ((keying 1 65537 1 0).keySlot 0) = false
    ∧ field (keyMsg 1 65537 ++ [1]) 8 8 ≤ (keying 1 65537 1 9).sec.counter
    ∧ field (((keyMsg 1 3 ++ [1]).drop 16).take 448) 384 4 ≠ 65537
    ∧ ((List.replicate 32 (1 : Byte)).length = 32 ∧ State.reset.sec.nonce = none ∧ State.reset.sec.locked = false) := by
  have h : ∀ e, (keyMsg 0 e).length = 17071 := fun e => by
    simp only [keyMsg, List.length_append, List.length_replicate, length_leBytes]
  refine ⟨⟨rfl, rfl, by decide, ?_, by decide +kernel, by decide +kernel, by decide +kernel, by decide +kernel, by decide +kernel, by decide +kernel, by decide +kernel, by decide +kernel⟩, ?_⟩
  · rw [h]; rfl
  · decide +kernel

/-! ### Firmware -/

/-- Partition 0 is accord 0; every trace point is logged; the command `e` waits at HEAD of ring 2. -/
def ring (s : State) (e : List Byte) : State :=
  let s1 := ((s.odSet (kPartState 0) 1).odSet (kPartMask 0) 1).odSet kTraceMask 0xFFFFFFFF
  (s1.odSet (kFwRing 2) 1).devWrite false (s.fwBase + 0x2E0000 + 16384 * 2) e
/-- An entry of operation `op` with three arguments, the first at offset 8. -/
def fwCmd (op a0 a1 : Nat) : List Byte := leBytes 8 op ++ leBytes 8 a0 ++ leBytes 8 a1 ++ leBytes 8 0 ++ leBytes 32 0
/-- The MANIFEST section that this chip meets. -/
def manifestSection : List Byte :=
  let m := State.reset.chipManifest []
  leBytes 8 0 ++ leBytes 4 m.length ++ leBytes 4 0 ++ m.flatMap fun e => leBytes 8 (e.1 * 2 ^ 48 + e.2.1 * 2 ^ 46 + e.2.2)
/-- A COMPUTE section of one instruction: the end of the phase in its cycle 0. -/
def computeSection : List Byte := leBytes 8 (7 * 2 ^ 20 + 2 ^ 8) ++ leBytes 8 0
/-- Its body. -/
def phaseEnd : StreamBody := ⟨.plain, [], false⟩
/-- The sections of the image: type, fold, virtual accord, bytes. -/
def sections : List (Nat × Nat × Nat × List Byte) :=
  [(1, 0xFF, 0xFF, manifestSection), (2, 0xFF, 0xFF, []), (3, 0xFF, 0xFF, []), (4, 0, 0xFF, []), (5, 0, 0xFF, []), (6, 0, 0, computeSection),
    (10, 0, 0xFF, [])]
/-- The directory from offset `o` on. -/
def directory : Nat → List (Nat × Nat × Nat × List Byte) → List Byte
  | _, [] => []
  | o, e :: r => leBytes 2 e.1 ++ leBytes 1 e.2.1 ++ leBytes 1 e.2.2.1 ++ leBytes 4 0 ++ leBytes 4 o ++ leBytes 4 e.2.2.2.length
      ++ directory (o + e.2.2.2.length) r
/-- SHA3-256 of no bytes (FIPS 202). -/
def emptyHash : List Byte :=
  [0xA7, 0xFF, 0xC6, 0xF8, 0xBF, 0x1E, 0xD7, 0x66, 0x51, 0xC1, 0x47, 0x56, 0xA0, 0x61, 0xD6, 0x62, 0xF5, 0x80, 0xFF, 0x4D,
    0xE4, 0x3B, 0x49, 0xFA, 0x82, 0xD8, 0x0A, 0x4B, 0x80, 0xF8, 0x43, 0x4A]
/-- SHA3-256 of the image with a digest of zeros, computed outside the model. -/
def imageHash : List Byte :=
  [0x95, 0x4C, 0xFE, 0x00, 0x14, 0x30, 0xAA, 0xE9, 0xE0, 0x4E, 0x43, 0x5C, 0xA8, 0x33, 0x2F, 0xA1, 0x88, 0x78, 0x6C, 0xF4,
    0xC1, 0x2A, 0xA1, 0xF2, 0xB1, 0xCC, 0x76, 0x45, 0xDC, 0x0E, 0xAC, 0x3B]
/-- The image with IMAGE_DIGEST `d`. -/
def imageOf (d : List Byte) : List Byte :=
  leBytes 4 0x314B5356 ++ leBytes 2 0x0100 ++ leBytes 2 0 ++ leBytes 8 7 ++ leBytes 2 1 ++ [1, 1, 1, 0, 0, 0] ++ leBytes 4 7 ++ leBytes 4 0
    ++ emptyHash ++ d ++ directory (96 + 16 * 7) sections ++ sections.flatMap fun e => e.2.2.2
/-- The image of a binary of one phase that ends at once, and uses no memory. -/
def binImage : List Byte := imageOf imageHash
/-- What the sections of it hold besides. -/
def loadable : BinImage :=
  ⟨[(0, [streamOp (7 * 2 ^ 20 + 2 ^ 8) phaseEnd])], [], [⟨0, [20], [], 0, 0, 0, 0, 0, [[], []], [(0, [phaseEnd])], [], [], 20, []⟩], [], []⟩
/-- LOAD of the image at the start of the heart tier into context 5 on partition 0. The heart's slices are all fenced, so that the free
bytes of the log do not reach it. -/
def loading : State :=
  let s := (ring State.reset (fwCmd 1 0 5)).touch false 0 binImage.length
  let cells : Memory := binImage.zipIdx.filterMap fun (e : Byte × Nat) => if e.1 = 0 then none else some (e.2, e.1)
  { s with heart := cells ++ s.heart }.odSet kHeartFencedSlices 0xFFFFFFFF
/-- A ring is served while the SRAM reports nothing and no response ring is full. -/
def calm : FwEnv := ⟨.none, []⟩
/-- What the loader checks when it serves the command. -/
def tracedLoad : State := loading.fwServed 2
/-- The only variant of the binary. -/
def loadableVariant : Variant := readVariant binImage (imageDir binImage) 1 ⟨0, [20], [], 0, 0, 0, 0, 0, [[], []], [(0, [phaseEnd])], [], [], 20, []⟩
/-- The command's arguments. -/
def loadA : LoadArgs := loadArgs (loading.fwEntry 2)
/-- The loader reads the image where ARG0 says it lies. -/
theorem load_binary_lies : tracedLoad.imageIn loadA.image = binImage := by decide +kernel
/-- The binary that the loader reads. -/
def loadedBin : Binary := readBinary binImage loadable
/-- An image without a header. -/
def noBinary : Binary := readBinary (List.replicate 96 0) loadable
theorem load_binary_fits : tracedLoad.staticRefusal loadA (some 0) loadedBin = none := by decide +kernel
theorem load_binary_runs : tracedLoad.unlistedRefusal loadA loadedBin loadableVariant none = false := by decide +kernel
theorem load_binary_variant : variantFor loadedBin (some 0) = some loadableVariant := by decide +kernel
theorem load_binary_refused : tracedLoad.staticRefusal loadA (foldOf noBinary [] 1) noBinary ≠ none := by decide +kernel
theorem load_binary_places (w : Windows) : tracedLoad.crossOk (tracedLoad.accordsOf 0) loadableVariant w = true := by
  have h : loadableVariant.access = [] := by decide +kernel
  simp only [State.crossOk, h]; rfl
theorem load_command : loading.fwCommand 2 calm 1 ∧ loadA.ctx = 5 ∧ (loading.ctxAt 5).st = .free ∧ loading.formed 0 = true
    ∧ loadA.part = 0 ∧ loadA.withFallback = false ∧ foldOf loadedBin [] (tracedLoad.accordsOf 0).length = some 0
    ∧ needOf Variant.heartWin loadableVariant none = 0 ∧ needOf Variant.baseWin loadableVariant none = 0
    ∧ loadableVariant.slots.all (tracedLoad.slotClaimOk (tracedLoad.accordsOf 0) 0) = true
    ∧ (loadRequests loadA loadedBin).length ≤ tracedLoad.unarmed.length := by
  simp only [State.fwCommand, State.fwReady]
  decide +kernel
theorem load_others : State.reset.live = true
    ∧ ((ring State.reset (fwCmd 0 0 0)).fwCommand 2 calm 0 ∧ (ring State.reset (fwCmd 0 0 0)).odGet kSramCeCount + 3 < counterMax kSramCeCount)
    ∧ ((ring State.reset (fwCmd 9 0 0)).fwReady 2 calm
      ∧ fwEntryOk ((ring State.reset (fwCmd 9 0 0)).fwHead 2) ((ring State.reset (fwCmd 9 0 0)).fwEntry 2) = false)
    ∧ (loading.formed 1 = false ∧ (loadArgs ((ring State.reset (fwCmd 1 0 (5 + 256))).fwEntry 2)).part = 1)
    ∧ ((ring (ctx0 { programmed with st := .loaded }) (fwCmd 2 0 0)).fwCommand 2 calm 2 ∧ CtxSt.unloads .loaded = true
      ∧ CtxSt.unloads .running = false) := by
  simp only [State.fwCommand, State.fwReady]
  decide +kernel
/-- What the LOAD's clauses suppose, of one command, and what the others do. -/
theorem witness_ProgramsLoadAndUnload :
    (loading.fwCommand 2 calm 1 ∧ tracedLoad.imageIn loadA.image = binImage ∧ (loading.ctxAt loadA.ctx).st = .free
      ∧ loading.formed loadA.part = true ∧ loadA.withFallback = false
      ∧ tracedLoad.staticRefusal loadA (some 0) loadedBin = none ∧ variantFor loadedBin (some 0) = some loadableVariant
      ∧ tracedLoad.unlistedRefusal loadA loadedBin loadableVariant none = false
      ∧ ∀ w, tracedLoad.crossOk (tracedLoad.accordsOf 0) loadableVariant w = true)
    ∧ tracedLoad.staticRefusal loadA (foldOf noBinary [] 1) noBinary ≠ none
    ∧ (ring State.reset (fwCmd 0 0 0)).fwCommand 2 calm 0 ∧ (ring State.reset (fwCmd 9 0 0)).fwReady 2 calm
    ∧ (ring (ctx0 { programmed with st := .loaded }) (fwCmd 2 0 0)).fwCommand 2 calm 2 :=
  ⟨⟨load_command.1, load_binary_lies, by rw [load_command.2.1]; exact load_command.2.2.1,
      by rw [load_command.2.2.2.2.1]; exact load_command.2.2.2.1, load_command.2.2.2.2.2.1, load_binary_fits, load_binary_variant,
      load_binary_runs, load_binary_places⟩, load_binary_refused, load_others.2.1.1, load_others.2.2.1.1, load_others.2.2.2.2.1⟩

/-- A heart whose slices are all fenced, so that the free bytes of the log do not reach it, with a staged image of a body of 64
bytes; a flash window is open. That an image is accepted is no witness here: Pormen's root keys are not given (log entry 6). -/
def staging : State :=
  let img := leBytes 4 0x31574654 ++ leBytes 2 1 ++ leBytes 10 0 ++ leBytes 4 64 ++ List.replicate 108 0
  let s := (ring State.reset (fwCmd 3 16800 0)).devWrite false (State.reset.fwBase + 0x400000) img
  { s.odSet kHeartFencedSlices 0xFFFFFFFF with pins := { s.pins with window := some 5 } }
/-- The images of both SRAM slots have the schema 1, which the second reads. -/
def schemas (known : Nat) : Memory :=
  (Memory.writeN [] 4 [1, 0, 0, 1]).writeN (sramSlot 1 + 4) ([1, 0, 0, 1] ++ leBytes 4 5 ++ leBytes 4 known)
/-- A staged image in the other slot, and FW_ACTIVATE. -/
def activating (known : Nat) : State :=
  let s := ring (having [(kFwSlots, 4)]) (fwCmd 4 0 0)
  { s with fw := { s.fw with sram := schemas known } }
/-- RESTART, warm where `w` is 1. -/
def restarting (w : Nat) : State := ring State.reset (fwCmd 5 0 w)
theorem witness_ImagesUpdateAndRestart : State.reset.live = true
    ∧ (staging.fwCommand 2 calm 3 ∧ imgHeaderOk ((staging.fwServed 2).fwGet 0x400000 128) = true ∧ staging.pins.window.isSome = true
      ∧ imgSize ((staging.fwServed 2).fwGet 0x400000 128) ≤ field (staging.fwEntry 2) 8 8 ∧ field (staging.fwEntry 2) 8 8 ≤ 0x200000
      ∧ imgHeaderOk ((ring State.reset (fwCmd 3 16800 0)).fwGet 0x400000 128) = false)
    ∧ ((activating 2).fwCommand 2 calm 4 ∧ ((activating 2).fwServed 2).mayActivate = true
      ∧ (let u := (activating 2).fwServed 2
         bit (field (u.slotHeader (1 - u.runSlot)) 12 4) (field (u.slotHeader u.runSlot) 6 2 / 256) = true)
      ∧ (let u := (activating 0).fwServed 2
         bit (field (u.slotHeader (1 - u.runSlot)) 12 4) (field (u.slotHeader u.runSlot) 6 2 / 256) = false)
      ∧ ((ring State.reset (fwCmd 4 0 0)).fwServed 2).mayActivate = false)
    ∧ ((restarting 0).fwCommand 2 calm 5 ∧ bit (field ((restarting 0).fwEntry 2) 16 8) 0 = false)
    ∧ ((restarting 1).fwCommand 2 calm 5 ∧ bit (field ((restarting 1).fwEntry 2) 16 8) 0 = true ∧ ((restarting 1).fwServed 2).mayRestartWarm = true
      ∧ ((ring ran (fwCmd 5 0 1)).fwServed 2).mayRestartWarm = false) := by
  simp only [State.fwCommand, State.fwReady]
  decide +kernel
/-- A task has faulted at count 0. -/
def faulted : State := { State.reset with fw := { State.reset.fw with taskFaults := [(4, 0)] } }
theorem witness_FirmwareFaults : State.reset.live = true ∧ State.reset.dumping = false ∧ State.reset.taskFatal = false
    ∧ State.reset.blot.staging.length < 64 ∧ faulted.taskFatal = true ∧ faulted.live = true ∧ faulted.dumping = false
    ∧ (ran.ctxAt 0).st ≠ .free := by decide +kernel
/-- A status write that keeps a fence waits; a flash window opened at count 5. -/
def keeping : State :=
  { State.reset with fw := { State.reset.fw with jobs := [.fence (unitId 1 9)] }, jobs := { State.reset.jobs with fencing := some (unitId 1 9) },
                     pins := { State.reset.pins with window := some 5 } }
theorem witness_StatusWritesAndWindows : (keeping.live = true ∧ keeping.pins.window.isSome = true ∧ keeping.fw.jobs = .fence (unitId 1 9) :: []
      ∧ keeping.jobs.fencing = some (unitId 1 9))
    ∧ State.reset.fw.jobs = []
    ∧ ((at_ State.reset 47500).windowAllowed 475 false = true ∧ State.reset.odGet kFlashWindows + 1 < counterMax kFlashWindows
      ∧ State.reset.windowAllowed 475 false = false)
    ∧ (let s := { State.reset with pins := { State.reset.pins with window := some 5 } }
       s.pins.window = some 5 ∧ s.pins.change = none)
    ∧ State.reset.pins.window = none := by decide +kernel
/-- The straps phase. -/
def strapping : State := { having [(kPhase, 0)] with pins := { State.reset.pins with strapped := false } }
theorem witness_ResetsStrapsAndPhases : (strapping.odGet kPhase = 0 ∧ strapping.pins.strapped = false ∧ strapping.dumping = false)
    ∧ (strapping.badStraps (0x0023 : BitVec 16).toNat = false ∧ bits (0x0023 : BitVec 16).toNat 7 6 ≠ 2)
    ∧ (strapping.badStraps (0x0083 : BitVec 16).toNat = false ∧ bits (0x0083 : BitVec 16).toNat 7 6 = 2)
    ∧ strapping.badStraps (0x00C0 : BitVec 16).toNat = true
    ∧ State.reset.odGet kPhase ≠ 0 ∧ State.reset.pins.change = none
    ∧ ({ State.reset with pins := { State.reset.pins with change := some (1, false) } } : State).pins.change = some (1, false) := by
  decide +kernel
/-- In BOOT after straps, at count `n`. -/
def booting (straps n : Nat) : State :=
  { at_ (having [(kPhase, 1), (kStraps, straps)]) n with pins := { State.reset.pins with strapped := true, change := none, window := none } }
/-- Neither the record that a start reads nor the check of its key slots touches the straps or the persistent area. -/
theorem startChoice_straps (s : State) (b : List Byte) : ((s.readRecord b).checkKeys b).odGet kStraps = s.odGet kStraps
    ∧ ((s.readRecord b).checkKeys b).fw.persist = s.fw.persist := by
  have same : ∀ (u : State) k v, kStraps ≠ k → (u.odSet k v).odGet kStraps = u.odGet kStraps ∧ (u.odSet k v).fw.persist = u.fw.persist :=
    fun u k v h => ⟨State.odGet_odSet_ne _ _ h, rfl⟩
  have bits : ∀ (u : State) k hi lo v, kStraps ≠ k → (u.odSetBits k hi lo v).odGet kStraps = u.odGet kStraps
      ∧ (u.odSetBits k hi lo v).fw.persist = u.fw.persist := fun u k hi lo v h => same u k _ h
  have hr : (s.readRecord b).odGet kStraps = s.odGet kStraps ∧ (s.readRecord b).fw.persist = s.fw.persist := by
    rw [State.readRecord]
    refine ⟨?_, rfl⟩
    rw [(same _ _ _ (by decide)).1, (same _ _ _ (by decide)).1, (same _ _ _ (by decide)).1, (same _ _ _ (by decide)).1,
      (bits _ _ _ _ _ (by decide)).1]
    simp only [State.odGet]
  rw [State.checkKeys]
  generalize s.readRecord b = r at hr ⊢
  have h1 : ∀ c : Bool, (if c then r else r.odSet kKeyslots 0).odGet kStraps = s.odGet kStraps
      ∧ (if c then r else r.odSet kKeyslots 0).fw.persist = s.fw.persist := fun c => by
    have h2 := same r kKeyslots 0 (by decide)
    cases c
    · exact ⟨h2.1.trans hr.1, h2.2.trans hr.2⟩
    · exact hr
  have h := h1 (slotsSigned b)
  generalize (if slotsSigned b then r else r.odSet kKeyslots 0) = q at h ⊢
  split
  · exact h
  · split
    · exact ⟨(same q _ _ (by decide)).1.trans h.1, h.2⟩
    · exact ⟨(bits q _ _ _ _ (by decide)).1.trans h.1, h.2⟩
theorem witness_StartsReachRun : (booting 0x40 5).mayStartUp = true ∧ State.reset.mayStartUp = false
    ∧ (∀ p, ((booting 0x40 5).startChoice p).2 = some (2, true)) ∧ (∀ p, ((booting 0x40 (10 ^ 15)).startChoice p).2 = some (2, true))
    ∧ (booting 0x40 5).startLate 2 = false ∧ (booting 0x40 (10 ^ 15)).mayStartUp = true ∧ (booting 0x40 (10 ^ 15)).startLate 2 = true := by
  have h : ∀ n p, ((booting 0x40 n).startChoice p).2 = some (2, true) := fun n p => by
    have hk := (startChoice_straps (booting 0x40 n) (booting 0x40 n).bootRecord).1
    have hs : (booting 0x40 n).odGet kStraps = 0x40 := rfl
    simp only [State.startChoice, State.chooseStart, State.odBits, hk, hs]
    rfl
  exact ⟨by decide +kernel, by decide +kernel, h 5, h _, by decide +kernel, by decide +kernel, by decide +kernel⟩
/-- Counters at their end, in the record that a start reads, leave no start. -/
theorem witness_NoStartLeft : (booting 0 5).mayStartUp = true ∧ ∀ b, settled b = (0, 3, 3) →
    (((booting 0 5).readRecord b).checkKeys b).chooseStart b true = none := by
  refine ⟨by decide +kernel, fun b h => ?_⟩
  obtain ⟨hk, hp⟩ := startChoice_straps (booting 0 5) b
  have hs : (booting 0 5).odGet kStraps = 0 := rfl
  have hv : (booting 0 5).fw.persist.valid = false := rfl
  simp [State.chooseStart, State.odBits, State.odBit, hk, hp, hs, hv, h, bits]

/-! ### The object dictionary and the management bus -/

/-- An access to LAUNCH_GUARD (`key`), or another entry, over a path. -/
def access (path : Path) (key : Nat) : OdAddr := ⟨path, 0, none, 0, true, key / 256, key % 256, 0⟩
/-- The same entry in a READ packet. -/
def odPkt (key : Nat) : Packet := pktSeal { pkt with opcode := 5, addr := key, aux := 4, len := 0, payload := [] }
theorem witness_OobWritesDenied : State.reset.odGet kAccessRefused + 1 < counterMax kAccessRefused
    ∧ (let a := access .outOfBand kLaunchGuard
       (having [(kOobWriteEn, 0)]).odGet kOobWriteEn = 0 ∧ State.reset.runPins = true ∧ a.path = .outOfBand ∧ a.intact = true
       ∧ (State.reset.odRow a.index a.sub).isSome = true ∧ State.reset.readCheck a 4 = 0 ∧ odKey a ≠ kTctData ∧ odKey a ≠ kFlowData)
    ∧ ((State.reset.odCount (access .outOfBand 0x501400).index).isSome = true)
    ∧ (kOobWriteEn / 256 = 0x1F00 ∧ kOobWriteEn % 256 = 0x0C ∧ State.reset.live = true) := by decide +kernel
theorem witness_DictionaryAccesses : State.reset.live = true
    ∧ (let a := access .inBand kLaunchGuard
       a.via = none ∧ State.reset.writeCheck a (leBytes 4 100) = 0
       ∧ odKey a ∈ [kLaunchGuard, kStopLead, kDrainSteps, kGateLimit, kTestInterval]
       ∧ State.reset.writeCheck a [1] = 3 ∧ State.reset.writeCheck (access .inBand 0x123456) [1] = 1)
    ∧ (State.reset.writeCheck (access .inBand kTestInterval) (leBytes 8 (10 ^ 12)) = 0
      ∧ (having [(kConfigState, 1)]).odGet kConfigState = 1)
    ∧ (let a := access .inBand kTripTemp
       State.reset.crosses a = true ∧ State.reset.odGet kBusyTimeouts + 1 < counterMax kBusyTimeouts
       ∧ (∀ w, State.reset.accessDenied a w = false)
       ∧ State.reset.writeCheck a [100] = 0)
    ∧ State.reset.crosses (access .inBand kAccessRefused) = false
    ∧ (let k := odPkt kLaunchGuard
       let d := odAddrOf ⟨.inBand, 0, some k, 0, true, 0, 0, 0⟩
       k.opcode = 5 ∧ State.reset.pktMalformed k = false ∧ State.reset.readCheck d (k.aux.toNat % 512) = 0 ∧ odKey d = kLaunchGuard) := by
  decide +kernel
theorem witness_ConfigurationAndStatus : (State.reset.odGet kConfigCommit ≠ 1 ∧ (having [(kConfigCommit, 1)]).odGet kConfigCommit = 1)
    ∧ (let s := { having [(kConfigCrcRef, 7)] with mgmt := { State.reset.mgmt with commitWait := true } }
       s.mgmt.commitWait = true ∧ (7 : W32).toNat = s.odGet kConfigCrcRef ∧ (8 : W32).toNat ≠ s.odGet kConfigCrcRef ∧ s.odGet kConfigState ≠ 1)
    ∧ (let s := having [(kConfigCrcRef, 7), (kConfigState, 1)]
       s.mgmt.commitWait = false ∧ s.odGet kConfigState = 1 ∧ (7 : W32).toNat = s.odGet kConfigCrcRef ∧ (8 : W32).toNat ≠ s.odGet kConfigCrcRef
       ∧ s.odGet kConfigDriftAction = 0 ∧ s.blot.staging.length < 64)
    ∧ ((3 : Fin 18).val = Area.me.bitNo ∧ (0 : W32).toNat = State.reset.odGet Area.me.seq ∧ (5 : W32).toNat ≠ State.reset.odGet Area.me.seq)
    ∧ State.reset.mgmt.holdoff = none
    ∧ (let s := { at_ (having [(kEventIrq, 2 ^ 15 + 9)]) (10 ^ 12) with mgmt := { State.reset.mgmt with holdoff := some 0, again := true } }
       0 + s.odGet kEventIrqHoldoff ≤ s.g ∧ s.mgmt.again = true ∧ s.odBit kEventIrq 15 = true ∧ s.isBridge = false
       ∧ (having [(kEventIrq, 2 ^ 15 + 9)]).odGet kEventIrqHoldoff ≠ 0) := by decide +kernel
theorem witness_ManagementTarget : State.reset.runPins = true ∧ State.reset.i3c.dyn = none
    ∧ ({ State.reset with i3c := { State.reset.i3c with dyn := some 8 } } : State).runPins = true := by decide +kernel
theorem witness_PinsAndRails : (State.reset.runPins = true ∧ (having [(kSyncRole, 1)]).odGet kSyncRole ≠ 0 ∧ State.reset.g % 2 ^ 20 = 0
      ∧ State.reset.fw.missed = false ∧ State.reset.pins.beat ≠ some State.reset.g)
    ∧ ((having [(kPhase, 3)]).odGet kPhase = 3 ∧ (having [(kPhase, 3)]).pins.change = none ∧ State.reset.odGet kPhase ≠ 3)
    ∧ (State.reset.live = true ∧ State.reset.railOut 0 750 = false ∧ State.reset.railOut 0 1 = true ∧ State.reset.pins.railsOut.contains 0 = false
      ∧ State.reset.odGet kRailExcursions + 1 < counterMax kRailExcursions ∧ State.reset.blot.staging.length < 64
      ∧ ({ State.reset with pins := { State.reset.pins with railsOut := [0] } } : State).pins.railsOut.contains 0 = true)
    ∧ (let v : W32 := 0x80000101
       State.reset.odBit kD2dLoopbackCtrl 30 = false ∧ bit v.toNat 31 = true ∧ State.reset.allFree = true ∧ 1 ≤ v.toNat % 4 ∧ v.toNat % 4 ≤ 2
       ∧ ran.allFree = false)
    ∧ (having [(kD2dLoopbackCtrl, 2 ^ 30)]).odBit kD2dLoopbackCtrl 30 = true := by decide +kernel

/-! ### Monitors and the whole machine -/

/-- Monitor entry 9 has received one status record of context 0 in the step, all zero unless `nz`. -/
def monitored (nz : Bool) : State := (having [(kMonCfg 9, 4)]).modNose 9 0 fun x => { x with seen := true, records := 1, notZero := nz }
theorem witness_MonitorsCountAndReset :
    (((monitored false).noseAt 9 0).seen = true ∧ ((monitored false).noseAt 9 0).records ≠ 0 ∧ bits ((monitored false).odGet (kMonCfg 9)) 3 2 = 1
      ∧ ((monitored false).noseAt 9 0).notZero = false ∧ (monitored false).mon 9 47 32 + 1 < 65535)
    ∧ ((monitored true).noseAt 9 0).notZero = true
    ∧ (let s := ctx0 { running with snap := { running.snap with nose := [(9, 5)] } }
       s.live = true ∧ (s.ctxAt 0).st = .running ∧ (s.ctxAt 0).inStep = true ∧ (s.ctxAt 0).revert = false ∧ (s.ctxAt 0).snap.nose = [(9, 5)]) := by
  decide +kernel
theorem witness_InvariantKept : State.reset.inv ∧ step State.reset = .next State.reset.tick := by
  simp only [State.inv, State.memOk, State.fillsOk]
  exact ⟨by decide +kernel, rfl⟩

/-! ### Ill-formed commands -/

theorem wellFormed_pass : (Instr.pass iss 0 pp).wellFormed = true ∧ (Instr.pass iss 0 { pp with m := 2049 }).wellFormed = false
    ∧ (Instr.pass iss 0 { pp with atileH := 3 }).wellFormed = false ∧ (Instr.pass iss 0 { pp with seglist := some (0, 257) }).wellFormed = false
    ∧ (Instr.pass { iss with cyc := 2 ^ 40 } 0 pp).wellFormed = false
    ∧ (Instr.pass { iss with upset := .uncorrectable .registers (2 ^ 25) 0 } 0 pp).wellFormed = false := by decide +kernel
theorem wellFormed_epilogue : (Instr.epilogue iss 0 ep).wellFormed = true ∧ (Instr.epilogue iss 0 { ep with fout := .e8m0 }).wellFormed = false := by
  decide +kernel
theorem wellFormed_vector : (Instr.rand iss 5 { draw none with domain := 256 }).wellFormed = false
    ∧ (Instr.cvt iss 5 6 (.tile 0) { conv .fp32 .bf16 .sr with rand := { draw none with tensorId := 2 ^ 24 } }).wellFormed = false
    ∧ (Instr.veLoad iss 5 4096 128 .fp32 none (.value 256) 0 0).wellFormed = false := by decide +kernel
theorem wellFormed_tasks : (Instr.taskPush iss { task with budget := 2 ^ 32 }).wellFormed = false
    ∧ (Instr.taskEnd 0 1 9 [⟨.csr .write 0 4096 (.reg 1) true, false, false, false, [], .none⟩]).wellFormed = false
    ∧ (Instr.code 0 1 { job with saddr := 2 ^ 44 } []).wellFormed = false := by decide +kernel
theorem wellFormed_accesses : (Instr.arbiterGrant (.chip 9) 16 [⟨1, 2 ^ 44, 4⟩] .none).wellFormed = false
    ∧ (Instr.accessRead 0 1 9 0 { accRead with lenM1 := 2 ^ 20 } []).wellFormed = false
    ∧ (Instr.slotShadow 3 ⟨.inBand, 2 ^ 32, []⟩).wellFormed = false
    ∧ (Instr.tierRead .heart 0 .host (.symbols [5, 4])).wellFormed = false
    ∧ (Instr.tierRead .heart 0 (.context 0 (2 ^ 32)) .clean).wellFormed = false := by decide +kernel
theorem wellFormed_packets : (Instr.write pkt true []).wellFormed = true ∧ (Instr.write { pkt with len := 5 } true []).wellFormed = false
    ∧ (Instr.launchEntry 7 0 (some { pkt with flow := 2 ^ 20 })).wellFormed = false
    ∧ (Instr.frameReceive 3 ⟨4096, .none, none, .none, 0, none⟩).wellFormed = false
    ∧ (Instr.negativeAck 3 4096).wellFormed = false
    ∧ (Instr.hostTransmit 2 pkt [.barWrite 60 [1, 2, 3, 4, 5]]).wellFormed = false
    ∧ (Instr.entryWrite { access .outOfBand kLaunchGuard with via := some pkt } [1] true).wellFormed = false := by decide +kernel
theorem wellFormed_readings : (Instr.sensorRead (List.replicate 15 0)).wellFormed = false
    ∧ (Instr.sensorRead (List.replicate 16 2048)).wellFormed = false ∧ (Instr.railRead [65536]).wellFormed = false
    ∧ (Instr.accordTestDone 0 65536).wellFormed = false ∧ (Instr.attestReq []).wellFormed = false
    ∧ (Instr.layerCopyDone 3 (.symbols [])).wellFormed = false ∧ (Instr.flaconLoad 3 4096).wellFormed = false := by decide +kernel
theorem wellFormed_loads : (Instr.load 2 calm loadable none []).wellFormed = true
    ∧ (Instr.load 2 calm { loadable with variants := [⟨256, [20], [], 0, 0, 0, 0, 0, [], [], [], [], 20, []⟩] } none []).wellFormed = false
    ∧ (Instr.load 2 calm { loadable with variants := [⟨0, [20], [], 0, 0, 0, 0, 0, [], [], [⟨0, 8, 0, []⟩], [], 20, []⟩] } none []).wellFormed = false
    ∧ (Instr.load 2 calm { loadable with variants := [⟨0, [20], [], 0, 0, 0, 0, 0, [], [], [], [(.port 16, [])], 20, []⟩] } none []).wellFormed = false
    ∧ (Instr.load 2 calm { loadable with launch := [⟨16, 0, 0, false, 0⟩] } none []).wellFormed = false
    ∧ (Instr.load 2 calm loadable none [32]).wellFormed = false
    ∧ (Instr.fwNop 2 ⟨.uncorrectable .tileStore (2 ^ 25) 0, []⟩).wellFormed = false := by decide +kernel
/-- A start in which nothing goes wrong. -/
def goodStart : StartEnv := ⟨false, false, true, false, [], [], none, [], 16, 5, [], []⟩
theorem wellFormed_starts : (Instr.startUp goodStart).wellFormed = true
    ∧ (Instr.startUp { goodStart with testMasks := [65536] }).wellFormed = false
    ∧ (Instr.startUp { goodStart with loopErrors := [65537] }).wellFormed = false
    ∧ (Instr.startUp { goodStart with ports := [⟨false, true, 65536⟩] }).wellFormed = false
    ∧ (Instr.startUp { goodStart with dimms := [some ⟨1, 1, 2 ^ 14, true, false, []⟩] }).wellFormed = false := by
  decide +kernel

/-! ### Worked examples of the manual -/

/-- Table 2-10: the order of accumulation decides, and a BF16 dot product of four returns +0.0. -/
theorem test_table_2_10 : psum .bf16 .bf16 [0x4580, 0x3F80, 0x3F80, 0xC580] (List.replicate 4 0x7F) [0x4580, 0x3F80, 0x3F80, 0x4580]
      (List.replicate 4 0x7F) 0 = 0
    ∧ psum .bf16 .bf16 [0x4580, 0x3F80, 0x3F80] (List.replicate 3 0x7F) [0x4580, 0x3F80, 0x3F80] (List.replicate 3 0x7F) 0 = 0x4B800000 := by
  decide +kernel
/-- Table 2-11: overflow, and infinity minus infinity. -/
theorem test_table_2_11 : psum .bf16 .bf16 [0x7F7F, 0x7F7F] [0x7F, 0x7F] [0x3F80, 0x3F80] [0x7F, 0x7F] 0 = 0x7F800000
    ∧ psum .bf16 .bf16 [0x7F7F, 0x7F7F, 0xFF7F, 0xFF80, 0x3F80] (List.replicate 5 0x7F) (List.replicate 5 0x3F80) (List.replicate 5 0x7F) 0
      = 0x7FC00000 := by decide +kernel
/-- Table 2-12: subnormal products of MXFP4, with two ties at P1. -/
theorem test_table_2_12 : psum .e2m1 .e2m1 [3, 2, 0xB] [0, 0, 0] [1, 1, 1] [0x6A, 0x6A, 0x6A] 0 = 1
    ∧ psum .e2m1 .e2m1 [3, 2, 0xB, 5] [0, 0, 0, 0] [1, 1, 1, 2] [0x6A, 0x6A, 0x6A, 0x6A] 0 = 7 := by decide +kernel
/-- The last worked example of chapter 2 (R41): 1,000.0 and 3.0 with s_out = 2 in E4M3. -/
theorem test_rescale : convElem .e4m3 .rne false 0 ((dec32 0x447A0000).scaleBy 125) = 0x78
    ∧ convElem .e4m3 .rne false 0 ((dec32 0x40400000).scaleBy 125) = 0x34 := by decide +kernel
/-- Table 12-2: the digest of one 32-byte tile with the key x. -/
theorem test_table_12_2 : digest (leBytes 4 0x3F800000 ++ List.replicate 24 0 ++ leBytes 4 0x01000000) (0x40 * 2 ^ 120)
    = 0x3840200FC00000000000000000000080 := by decide +kernel
/-- Table 7-4: the heart address 0x12_3456_7A40. -/
theorem test_table_7_4 : State.reset.place false 0x1234567A40 = ⟨19, 1193046, 1, 4⟩ ∧ heartFields 1193046 = (2, 2257, 5, 2)
    ∧ granOf 0x1234567A40 = 1193046 := by decide +kernel
/-- R374's example: the contribution of REPLAY_LIMIT of port 3, which holds 8. -/
theorem test_config_stream : (having [(0x401309, 8)]).cfgEntry 0x4013 0x09 = [0x13, 0x40, 0x09, 0x01, 0x00, 0x00, 0x00, 0x08] := by decide +kernel
/-- Table 10-4: a hold of one step of group 2. -/
theorem test_table_10_4 :
    let s := at_ (having [(kLaunchEntry 0, entry 285000000 285000000 2 0 1), (kLaunchEntry 1, entry 280250000 285000000 2 0 4)]) 100475000
    let t := nx (.holdWrite (BitVec.ofNat 128 (100950000 * 2 ^ 64 + 2 ^ 8 + 2)) none) s
    lCount (t.launch 0) = 570000000 ∧ lCount (t.launch 1) = 280250000 ∧ t.holdExtra 1 = 285000000 := by decide +kernel
/-- Chapter 15's example: SCHEMA 0x0304 and a staged image with MAJORS bit 3 clear. -/
theorem test_update_reverts : bit 0x10 (0x0304 / 256) = false := by decide
/-- Class G operations give the exact special results of Table 2-8 whatever the free values are (log entry 10). -/
theorem test_class_g_specials : exp32 0xFF800000 = 0 ∧ log32 0x00000000 = 0xFF800000 ∧ tanh32 0x7F800000 = 0x3F800000
    ∧ erf32 0xFF800000 = 0xBF800000 ∧ rcp32 0x00000000 = 0x7F800000 ∧ rsqrt32 0xBF800000 = 0x7FC00000 := by decide +kernel
/-- FIPS 202's digest of the empty string. -/
theorem test_sha3 : beNat (sha3 []) = 0xa7ffc6f8bf1ed76651c14756a061d662f580ff4de43b49fa82d80a4b80f8434a := by decide +kernel

end Sys2Proof.Tests
end

/-! ### The shifts of the vector engine (R400)

The model shifts with a test of the amount against the lane width; the statement speaks of powers of two. The two meet in one
arithmetic equation for each shift, over every lane width. -/

namespace Sys2Proof.Machine

section ShiftedLanes
variable {w : Nat} (x y : BitVec w)

/-- The bits shifted out of the lane are those that the modulus drops, at any amount. -/
theorem shlBits_eq_ofNat_mul : shlBits x y = BitVec.ofNat w (x.toNat * 2 ^ y.toNat) := by
  have shift : shlBits x y = x <<< y.toNat := by
    unfold shlBits
    split
    · exact (BitVec.shiftLeft_eq_zero ‹_›).symm
    · rfl
  rw [shift]
  apply BitVec.eq_of_toNat_eq
  rw [BitVec.toNat_shiftLeft, BitVec.toNat_ofNat, Nat.shiftLeft_eq]

/-- At an amount at or above the width the quotient is zero too. -/
theorem shrBits_eq_ofNat_div : shrBits x y = BitVec.ofNat w (x.toNat / 2 ^ y.toNat) := by
  have shift : shrBits x y = x >>> y.toNat := by
    unfold shrBits
    split
    · exact (BitVec.ushiftRight_eq_zero ‹_›).symm
    · rfl
  rw [shift, ← Nat.shiftRight_eq_div_pow, ← BitVec.toNat_ushiftRight, BitVec.ofNat_toNat, BitVec.setWidth_eq]

/-- From the lane width on, every amount gives copies of the sign bit alone. -/
theorem sshiftRight_min_width (n : Nat) : x.sshiftRight (min n w) = x.sshiftRight n := by
  rcases Nat.le_total n w with h | h
  · rw [Nat.min_eq_left h]
  · rw [Nat.min_eq_right h]
    ext i hi
    rw [BitVec.getElem_sshiftRight, BitVec.getElem_sshiftRight, dif_neg (by omega), dif_neg (by omega)]

/-- The quotient is the one towards minus infinity: the divisor is positive. -/
theorem sraBits_eq_ofInt_div : sraBits x y = BitVec.ofInt w (x.toInt / 2 ^ y.toNat) := by
  rw [sraBits, sshiftRight_min_width, BitVec.sshiftRight_eq, Int.shiftRight_eq_div_pow]
  norm_cast

end ShiftedLanes

/-! #### On the lanes of INT8 -/

theorem toNat_setWidth_byte (x : W32) : (x.setWidth 8).toNat = x.toNat % 256 := BitVec.toNat_setWidth 8 x

/-- An INT8 result has zero high bits. -/
theorem setWidth_ofNat_byte (m : Nat) : (BitVec.ofNat 8 m).setWidth 32 = BitVec.ofNat 32 (m % 256) := by
  apply BitVec.eq_of_toNat_eq
  rw [BitVec.toNat_setWidth, BitVec.toNat_ofNat, BitVec.toNat_ofNat]

theorem intLane_int8_shlBits (x n : W32) :
    intLane .int8 shlBits shlBits x n = BitVec.ofNat 32 (x.toNat % 256 * 2 ^ (n.toNat % 256) % 256) := by
  rw [intLane, shlBits_eq_ofNat_mul, setWidth_ofNat_byte, toNat_setWidth_byte, toNat_setWidth_byte]

theorem intLane_int8_shrBits (x n : W32) :
    intLane .int8 shrBits shrBits x n = BitVec.ofNat 32 (x.toNat % 256 / 2 ^ (n.toNat % 256)) := by
  have small : x.toNat % 256 / 2 ^ (n.toNat % 256) < 256 :=
    Nat.lt_of_le_of_lt (Nat.div_le_self _ _) (Nat.mod_lt _ (by decide))
  rw [intLane, shrBits_eq_ofNat_div, setWidth_ofNat_byte, toNat_setWidth_byte, toNat_setWidth_byte, Nat.mod_eq_of_lt small]

theorem intLane_int8_sraBits (x n : W32) :
    intLane .int8 sraBits sraBits x n
      = (BitVec.ofInt 8 ((x.setWidth 8).toInt / 2 ^ (n.toNat % 256))).setWidth 32 := by
  rw [intLane, sraBits_eq_ofInt_div, toNat_setWidth_byte]

/-! #### On the engine -/

/-- A lane-wise operation of two operands writes its result in any form in which its lane function can be given. -/
theorem veTile_lanes2_writes {s : State} {h : Issue} {i p c : Nat} {dst : Fin 64} {a b : VSrc} {f g : W32 → W32 → W32}
    (hfg : ∀ x n, f x n = g x n) (hi : s.issuesFor h p c) (hf : s.veFree h p c i [srcReg a, srcReg b] [dst.val]) :
    ∃ t, veTile h i dst [a, b] (lanes2 f a b) s = .next t ∧ TileWritten s t h.acc dst (lanes2 g a b (s.veAt h.acc)) := by
  obtain rfl : f = g := funext fun x => funext (hfg x)
  exact veTile_writes s (lanes2 f a b) hi hf

/-- Settles O7: on each lane type, each shift is the operation of row 5 whose lane function has the arithmetic form. -/
theorem shiftsByWholeAmount : Obligations.ShiftsByWholeAmount := by
  intro s h p c dst a b hi hf ty
  cases ty with
  | int32 =>
    exact ⟨veTile_lanes2_writes shlBits_eq_ofNat_mul hi hf, veTile_lanes2_writes shrBits_eq_ofNat_div hi hf,
      veTile_lanes2_writes sraBits_eq_ofInt_div hi hf⟩
  | int8 =>
    exact ⟨veTile_lanes2_writes intLane_int8_shlBits hi hf, veTile_lanes2_writes intLane_int8_shrBits hi hf,
      veTile_lanes2_writes intLane_int8_sraBits hi hf⟩

end Sys2Proof.Machine

/-! ### Out-of-band accesses (R368, R370 to R372)

An access that the checks refuse changes one counter and the answer; what the side port adds is its response. Both are said once
here, and the statement about OOB_WRITE_EN is put together from them. -/

namespace Sys2Proof.Machine

section OutOfBand
variable (s : State)

/-! #### Counters and refusals -/

/-- Below its largest value a counter only counts. -/
theorem State.bump_of_lt {k n : Nat} (h : s.odGet k + n < counterMax k) : s.bump k n = s.odSet k (s.odGet k + n) := by
  have below : ¬ counterMax k ≤ s.odGet k := by omega
  simp [State.bump, below, h]

/-- DENIED is counted in ACCESS_REFUSED. -/
theorem State.refuse_denied (h : s.odGet kAccessRefused + 1 < counterMax kAccessRefused) :
    s.refuse 2 = (s.odSet kAccessRefused (s.odGet kAccessRefused + 1)).answer 2 [] := by
  simp [State.refuse, s.bump_of_lt h]

/-! #### The checks of a write -/

theorem State.writeCheck_of_writeDenied {a : OdAddr} {r : OdRow} (data : List Byte) (hr : s.odRow a.index a.sub = some r)
    (hd : s.writeDenied a r = true) : s.writeCheck a data = 2 := by
  simp [State.writeCheck, hr, hd]

/-- The count that an index shows at its subindex 0 is never written. -/
theorem State.writeCheck_of_count {a : OdAddr} (data : List Byte) (hr : s.odRow a.index a.sub = none) (h0 : a.sub = 0)
    (hc : (s.odCount a.index).isSome = true) : s.writeCheck a data = 2 := by
  rw [h0] at hr
  simp [State.writeCheck, h0, hr, hc]

/-- R372: the right to write out of band hangs on OOB_WRITE_EN, and never reaches OOB_WRITE_EN itself. -/
theorem State.writeDenied_outOfBand {a : OdAddr} (r : OdRow) (hb : a.path = .outOfBand)
    (h : s.odGet kOobWriteEn = 0 ∨ odKey a = kOobWriteEn) : s.writeDenied a r = true := by
  simp only [State.writeDenied, hb]
  rcases h with h | h <;> simp [h]

theorem State.writeCheck_of_oobDisabled {a : OdAddr} (data : List Byte) (hb : a.path = .outOfBand) (h0 : s.odGet kOobWriteEn = 0)
    (he : (s.odRow a.index a.sub).isSome = true ∨ (a.sub = 0 ∧ (s.odCount a.index).isSome = true)) :
    s.writeCheck a data = 2 := by
  cases hr : s.odRow a.index a.sub with
  | some r => exact s.writeCheck_of_writeDenied data hr (s.writeDenied_outOfBand r hb (.inl h0))
  | none =>
    obtain ⟨hsub, hcount⟩ := he.resolve_left (by simp [hr])
    exact s.writeCheck_of_count data hr hsub hcount

/-! #### Accesses of the management bus -/

theorem State.dictWrite_of_refused {a : OdAddr} {data : List Byte} (acc : Bool) (h : s.writeCheck a data ≠ 0) :
    s.dictWrite a data acc = s.refuse (s.writeCheck a data) := by
  simp [State.dictWrite, h]

/-- A write that passes the checks and crosses into no other domain has its effect. -/
theorem State.dictWrite_of_passed {a : OdAddr} {data : List Byte} {r : OdRow} (acc : Bool) (hc : s.writeCheck a data = 0)
    (hx : s.crosses a = false) (hr : s.odRow a.index a.sub = some r) : s.dictWrite a data acc = s.entryApply a r data := by
  simp [State.dictWrite, hc, hx, hr]

theorem State.dictRead_of_passed {a : OdAddr} {n : Nat} (hc : s.readCheck a n = 0) :
    s.dictRead a n true = (s.readEffect (odKey a)).answer 0 ((s.readEffect (odKey a)).readBytes a n) := by
  simp [State.dictRead, hc]

theorem State.readEffect_plain {k : Nat} (ht : k ≠ kTctData) (hf : k ≠ kFlowData) : s.readEffect k = s := by
  simp [State.readEffect, ht, hf]

theorem runCmd_execTctDataRead_i3c : (runCmd execTctDataRead s).i3c = s.i3c := by
  simp only [runCmd, execTctDataRead]
  split <;> rfl

/-- What a read does besides stays off the side port. -/
@[simp] theorem State.readEffect_i3c (k : Nat) : (s.readEffect k).i3c = s.i3c := by
  unfold State.readEffect
  split
  · exact runCmd_execTctDataRead_i3c s
  · split <;> rfl

/-! #### The response of the side port (Table 16-6) -/

@[simp] theorem State.oobResponse_od (inst cmd : Nat) : (s.oobResponse inst cmd).od = s.od := rfl
@[simp] theorem State.oobResponse_odGet (inst cmd k : Nat) : (s.oobResponse inst cmd).odGet k = s.odGet k := rfl
@[simp] theorem State.oobResponse_mgmt (inst cmd : Nat) : (s.oobResponse inst cmd).mgmt = s.mgmt := rfl

/-- One message goes out; its byte 7 is the status, and a READ's value bytes begin at byte 9. -/
theorem State.oobResponse_message (inst cmd : Nat) : ∃ m, (s.oobResponse inst cmd).i3c.mctpOut = s.i3c.mctpOut ++ [m]
    ∧ m[7]? = some (BitVec.ofNat 8 s.mgmt.answer.1)
    ∧ (cmd = 1 → (m.drop 9).take s.mgmt.answer.2.length = s.mgmt.answer.2) := by
  refine ⟨_, rfl, by simp [beBytes, leBytes], fun hcmd => ?_⟩
  simp [beBytes, leBytes, hcmd]

theorem exec_entryWrite_outOfBand {a : OdAddr} (data : List Byte) (acc : Bool) (hp : s.runPins = true)
    (hb : a.path = .outOfBand) (hi : a.intact = true) :
    exec (.entryWrite a data acc) s = .next ((s.dictWrite a data acc).oobResponse a.inst 2) := by
  have unfolded : exec (.entryWrite a data acc) s = execEntryWrite a data acc s := rfl
  have own : odAddrOf a = a := by simp [odAddrOf, hb]
  have carried : odData a data = data := by simp [odData, hb]
  simp [unfolded, execEntryWrite, onOob, hb, hp, hi, own, carried]

theorem exec_oobRead_outOfBand {a : OdAddr} (n : Nat) (acc : Bool) (hp : s.runPins = true) (hb : a.path = .outOfBand)
    (hi : a.intact = true) : exec (.oobRead a n acc) s = .next ((s.dictRead a n acc).oobResponse a.inst 1) := by
  have unfolded : exec (.oobRead a n acc) s = execOobRead a n acc s := rfl
  have own : ({ a with path := .outOfBand } : OdAddr) = a := by rw [← hb]
  rw [unfolded, execOobRead, own]
  simp [onOob, hp, hi]

/-- An out-of-band write that the checks deny is answered DENIED and counted, and changes nothing else. -/
theorem exec_entryWrite_denied {a : OdAddr} {data : List Byte} (acc : Bool)
    (hcount : s.odGet kAccessRefused + 1 < counterMax kAccessRefused) (hp : s.runPins = true) (hb : a.path = .outOfBand)
    (hi : a.intact = true) (hc : s.writeCheck a data = 2) :
    ∃ t m, exec (.entryWrite a data acc) s = .next t ∧ t.mgmt.answer = (2, []) ∧ t.i3c.mctpOut = s.i3c.mctpOut ++ [m]
      ∧ m[7]? = some 2 ∧ (∀ k, k ≠ kAccessRefused → t.odGet k = s.odGet k) ∧ t.acc = s.acc ∧ t.ctx = s.ctx ∧ t.seqs = s.seqs
      ∧ SameTiers s t := by
  have refused : s.dictWrite a data acc = (s.odSet kAccessRefused (s.odGet kAccessRefused + 1)).answer 2 [] := by
    rw [s.dictWrite_of_refused acc (by simp [hc]), hc, s.refuse_denied hcount]
  obtain ⟨m, hout, hstatus, -⟩ := (s.dictWrite a data acc).oobResponse_message a.inst 2
  rw [refused] at hout hstatus
  refine ⟨_, m, exec_entryWrite_outOfBand s data acc hp hb hi, ?_⟩
  rw [refused]
  refine ⟨rfl, hout, hstatus, fun k hk => ?_, rfl, rfl, rfl, rfl, rfl⟩
  rw [State.oobResponse_odGet, State.answer_odGet, State.odGet_odSet_ne _ _ hk]

/-- An out-of-band read that passes the checks is answered OK, and with the entry's bytes where the read has no effect of its own. -/
theorem exec_oobRead_answered {a : OdAddr} {n : Nat} (hp : s.runPins = true) (hb : a.path = .outOfBand) (hi : a.intact = true)
    (hc : s.readCheck a n = 0) :
    ∃ t m, exec (.oobRead a n true) s = .next t ∧ t.i3c.mctpOut = s.i3c.mctpOut ++ [m] ∧ m[7]? = some 0
      ∧ (odKey a ≠ kTctData → odKey a ≠ kFlowData → t.od = s.od
        ∧ (m.drop 9).take (s.readBytes a n).length = s.readBytes a n) := by
  obtain ⟨m, hout, hstatus, hbytes⟩ := (s.dictRead a n true).oobResponse_message a.inst 1
  rw [s.dictRead_of_passed hc] at hout hstatus hbytes
  refine ⟨_, m, exec_oobRead_outOfBand s n true hp hb hi, ?_, hstatus, fun ht hf => ?_⟩
  · rw [s.dictRead_of_passed hc, hout, State.answer_i3c, State.readEffect_i3c]
  · rw [s.readEffect_plain ht hf] at hbytes
    rw [s.dictRead_of_passed hc, s.readEffect_plain ht hf]
    exact ⟨rfl, hbytes rfl⟩

/-! #### OOB_WRITE_EN -/

/-- The row of OOB_WRITE_EN in Table 16-9. -/
def oobWriteEnRow : OdRow := ⟨0x1F00, 0x1F00, 0x0C, 0x0C, 1, .bool, .rw, .mclk, 1, []⟩

theorem State.odRow_oobWriteEn : s.odRow 0x1F00 0x0C = some oobWriteEnRow := by
  have listed : odFind 0x1F00 0x0C = some oobWriteEnRow := by decide
  simp [State.odRow, listed, State.odPresent]

theorem exec_entryWrite_inBand {a : OdAddr} (data : List Byte) (acc : Bool) (hl : s.live = true) (hb : a.path = .inBand)
    (hv : a.via = none) : exec (.entryWrite a data acc) s = .next (s.dictWrite a data acc) := by
  have unfolded : exec (.entryWrite a data acc) s = execEntryWrite a data acc s := rfl
  have own : odAddrOf a = a := by simp [odAddrOf, hb, hv]
  have carried : odData a data = data := by simp [odData, hb, hv]
  simp [unfolded, execEntryWrite, onInBand, whenLive_of_live hl, hb, hv, own, carried]

section OobWriteEn
variable {a : OdAddr} (hi : a.index = 0x1F00) (hs : a.sub = 0x0C)
include hi hs

theorem odKey_oobWriteEn : odKey a = kOobWriteEn := by simp [odKey, hi, hs, kOobWriteEn]

theorem State.odRow_addr_oobWriteEn : s.odRow a.index a.sub = some oobWriteEnRow := by
  rw [hi, hs, State.odRow_oobWriteEn]

theorem State.writeCheck_oobWriteEn_outOfBand (data : List Byte) (hb : a.path = .outOfBand) : s.writeCheck a data = 2 :=
  s.writeCheck_of_writeDenied data (s.odRow_addr_oobWriteEn hi hs)
    (s.writeDenied_outOfBand _ hb (.inr (odKey_oobWriteEn hi hs)))

theorem State.crosses_oobWriteEn : s.crosses a = false := by
  have inDomain : (oobWriteEnRow.dom != .mclk || Machine.fwServed oobWriteEnRow kOobWriteEn) = false := by decide
  simpa only [State.crosses, s.odRow_addr_oobWriteEn hi hs, odKey_oobWriteEn hi hs] using inDomain

/-- In band, from a packet of flow 0 or none, a truth value of one byte passes the checks. -/
theorem State.writeCheck_oobWriteEn_inBand (v : Bool) (hb : a.path = .inBand) (hf : a.flow = 0) (ho : a.off = 0) :
    s.writeCheck a [if v then 1 else 0] = 0 := by
  have allowed : s.writeDenied a oobWriteEnRow = false := by simp [State.writeDenied, hb, hf, oobWriteEnRow]
  have inRange : valueBad oobWriteEnRow kOobWriteEn (leNat [if v then 1#8 else 0#8]) = false := by cases v <;> decide
  have noDomain : oobWriteEnRow.ty ≠ .domain := by decide
  have oneByte : (if oobWriteEnRow.acc = .seqclr then 4 else oobWriteEnRow.size) = 1 := rfl
  simp [State.writeCheck, s.odRow_addr_oobWriteEn hi hs, odKey_oobWriteEn hi hs, allowed, inRange, ho, noDomain, oneByte]

/-- The write of OOB_WRITE_EN does nothing but store its value. -/
theorem State.entryApply_oobWriteEn (data : List Byte) :
    s.entryApply a oobWriteEnRow data = (s.answer 0 []).odSet kOobWriteEn (leNat data) := by
  have noStatus : areaOf kOobWriteEn = none := by decide
  have stored : (s.answer 0 []).lowWrite oobWriteEnRow kOobWriteEn (leNat data)
      = (s.answer 0 []).store oobWriteEnRow kOobWriteEn (leNat data) := rfl
  have kept : cleaned kOobWriteEn (leNat data) = leNat data := rfl
  simp only [State.entryApply, odKey_oobWriteEn hi hs, noStatus]
  rw [if_neg (by decide), if_pos (by decide), stored, State.store, kept, if_neg (by decide)]

end OobWriteEn

end OutOfBand

/-- Settles O53: each denied write fails the check of R368, each permitted read passes it, and in band the entry is stored. -/
theorem oobWritesDenied : Obligations.OobWritesDenied := by
  intro s a data acc hcount
  refine ⟨fun hp hb hi => ⟨fun h0 he => ?_, fun hindex hsub => ?_, fun n _ hc => ?_⟩,
    fun hl hb hv hf hindex hsub ho v => ?_⟩
  · exact exec_entryWrite_denied s acc hcount hp hb hi (s.writeCheck_of_oobDisabled data hb h0 he)
  · exact exec_entryWrite_denied s acc hcount hp hb hi (s.writeCheck_oobWriteEn_outOfBand hindex hsub data hb)
  · exact exec_oobRead_answered s hp hb hi hc
  · have written := s.dictWrite_of_passed acc (s.writeCheck_oobWriteEn_inBand hindex hsub v hb hf ho)
      (s.crosses_oobWriteEn hindex hsub) (s.odRow_addr_oobWriteEn hindex hsub)
    rw [s.entryApply_oobWriteEn hindex hsub] at written
    refine ⟨_, exec_entryWrite_inBand s _ acc hl hb hv, ?_, ?_⟩
    · rw [written, State.odGet_odSet_same]
      cases v <;> rfl
    · rw [written]
      rfl

end Sys2Proof.Machine
